-- ==== Sys2Proof/Word.lean ====
section
/-! DEFINITION. The words of the Tasel W8: 64-bit memory words and registers, 32-bit instruction words, bytes. -/

namespace Sys2Proof

/-- A *word* of the manual without a qualifier: 64 bits (00_scope, Conventions). -/
abbrev Word := BitVec 64

/-- A byte of memory; the bit numbering and the byte order are those of R7. -/
abbrev Byte := BitVec 8

/-- An instruction word (R21). -/
abbrev InstWord := BitVec 32

end Sys2Proof
end

