-- ==== Sys2Proof/Machine/Bits.lean ====
section
/-! DEFINITION. Bit fields, sign extension, byte order and sorted tables: the helpers that every other file uses. -/

namespace Sys2Proof.Machine

/-- Bits `lo + len - 1 : lo` of a number. -/
def bits (x lo len : Nat) : Nat := x / 2 ^ lo % 2 ^ len

/-- Bit `i` of a number. -/
def bit (x i : Nat) : Bool := x.testBit i

/-- Bits `lo + len - 1 : lo` of a word. -/
def fieldOf (w : Word) (lo len : Nat) : Nat := bits w.toNat lo len

/-- A word from a number, modulo 2^64. -/
def w64 (x : Nat) : Word := BitVec.ofNat 64 x

/-- A word from an integer, modulo 2^64. -/
def wordI (x : Int) : Word := BitVec.ofInt 64 x

/-- `1` for true (a predicate's result in a register). -/
def flagWord (b : Bool) : Word := if b then 1 else 0

/-- A Bool as a number. -/
def bitNat (b : Bool) : Nat := if b then 1 else 0

/-- The signed value of the low `n` bits of `x`. -/
def signed (n x : Nat) : Int := (BitVec.ofNat n x).toInt

/-- `sext` of the manual: a field extended to 64 bits with its sign. -/
def sextTo (n : Nat) (x : BitVec n) : Word := x.signExtend 64

/-- The low `n` bits of a word, sign-extended from bit `n - 1`. -/
def sextLow (n : Nat) (x : Word) : Word := (x.setWidth n).signExtend 64

/-- Replaces bits `lo + len - 1 : lo` of `x` by the low bits of `v`. -/
def setBits (x lo len v : Nat) : Nat := x - bits x lo len * 2 ^ lo + v % 2 ^ len * 2 ^ lo

/-- Replaces bits `lo + len - 1 : lo` of a word. -/
def setField (x : Word) (lo len v : Nat) : Word := w64 (setBits x.toNat lo len v)

/-- The number whose little-endian bytes are `bs` (R7). -/
def ofBytes : List Byte → Nat
  | [] => 0
  | b :: bs => b.toNat + 256 * ofBytes bs

/-- The `n` little-endian bytes of a number (R7). -/
def toBytes : (n : Nat) → Nat → List Byte
  | 0, _ => []
  | n + 1, x => BitVec.ofNat 8 x :: toBytes n (x / 256)

/-- Floor of the base-2 logarithm; 0 for 0. -/
def log2 (n : Nat) : Nat := n.log2

/-- Ceiling of the base-2 logarithm, for `n ≥ 1`. -/
def ceilLog2 (n : Nat) : Nat := if n ≤ 1 then 0 else (n - 1).log2 + 1

/-- Division rounding up. -/
def ceilDiv (a b : Nat) : Nat := (a + b - 1) / b

/-- |a - b| of natural numbers. -/
def absDiff (a b : Nat) : Nat := if a ≤ b then b - a else a - b

/-- The entry of key `k` in a table, if it is listed. -/
def lookup? {α : Type} : List (Nat × α) → Nat → Option α
  | [], _ => none
  | (k', v) :: t, k => if k' = k then some v else lookup? t k

/-- The entry of key `k`, or the default of the table. -/
def lookupD {α : Type} (t : List (Nat × α)) (k : Nat) (d : α) : α := (lookup? t k).getD d

/-- Sets the entry of key `k`; the table stays sorted by key. -/
def insert {α : Type} : List (Nat × α) → Nat → α → List (Nat × α)
  | [], k, v => [(k, v)]
  | (k', v') :: t, k, v =>
    if k' < k then (k', v') :: insert t k v
    else if k' = k then (k, v) :: t
    else (k, v) :: (k', v') :: t

/-- Removes the entry of key `k`. -/
def erase {α : Type} (t : List (Nat × α)) (k : Nat) : List (Nat × α) := t.filter fun e => e.1 != k

/-- Removes every entry whose key lies in `lo ≤ k < hi`. -/
def eraseRange {α : Type} (t : List (Nat × α)) (lo hi : Nat) : List (Nat × α) :=
  t.filter fun e => decide (e.1 < lo) || decide (hi ≤ e.1)

/-- Applies `f` to each of `lo, lo + 1, …, lo + n - 1` in order. -/
def iterate {σ : Type} : (n lo : Nat) → (Nat → σ → σ) → σ → σ
  | 0, _, _, s => s
  | n + 1, lo, f, s => iterate n (lo + 1) f (f lo s)

/-- The numbers below `n` that satisfy `p`, lowest first. -/
def below (n : Nat) (p : Nat → Bool) : List Nat := (List.range n).filter p

/-- Inserts a member in front of the first one with a greater key. -/
def insertBy {α : Type} (key : α → Nat) (x : α) : List α → List α
  | [] => [x]
  | y :: ys => if key x < key y then x :: y :: ys else y :: insertBy key x ys

/-- Sorts by a key; members of one key keep their order. -/
def sortBy {α : Type} (key : α → Nat) (l : List α) : List α := l.foldl (fun r x => insertBy key x r) []

/-- The lowest number below `n` that satisfies `p`. -/
def lowest (n : Nat) (p : Nat → Bool) : Option Nat := (List.range n).find? p

end Sys2Proof.Machine
end

