-- ==== Sys2Proof/Config.lean ====
section
/-! DEFINITION. What every W8 fixes (sizes and counts of the manual) and the FREE VALUES: constants without a body, for a
value that the manual leaves open. Nothing in Lean can evaluate one, so what is proved holds whatever they are. -/

namespace Sys2Proof.Config

/-- Logical cores (R11, R12). -/
def cores : Nat := 1280
/-- The first array core (R12). -/
def firstArrayCore : Nat := 512
/-- Global matrix rows (R12). -/
def rows : Nat := 48
/-- Scratchpad bytes per core (R16). -/
def spadBytes : Nat := 0x100000
/-- Accumulator-memory bytes per array core (R16). -/
def accBytes : Nat := 0x40000
/-- Wait-list entries of a DRAM bank controller (R75). -/
def bankWaiters : Nat := 4096
/-- Wait-list entries of a scratchpad controller (R75). -/
def spadWaiters : Nat := 512
/-- Entries of one watch table (R81). -/
def watchEntries : Nat := 4096
/-- Deque records per core (R123). -/
def dequeRecords : Nat := 256
/-- Records of a deque overflow area (R272, OVFA). -/
def overflowRecords : Nat := 2048
/-- Mailbox entries per core, and those an MSEND may use (R192). -/
def mailEntries : Nat := 256
def mailSend : Nat := 224
/-- Relaxed accesses a thread may have outstanding (R106). -/
def relaxedLimit : Nat := 8
/-- Words of a link channel (R133). -/
def channelWords : Nat := 16
/-- Transfers of a core's launch queue, and those running at once (R189, R190). -/
def launchQueue : Nat := 32
def runningTransfers : Nat := 4
/-- Combining-buffer entries, and sends a thread may have outstanding (R242, R244). -/
def combineEntries : Nat := 16
def sendLimit : Nat := 64
/-- Folio store pages per array core (R212), folio table entries (R210), folio pages of the device (R473). -/
def folioPages : Nat := 128
def folioEntries : Nat := 4096
def devicePages : Nat := 98304
/-- Translation-buffer entries (R95) and subscription match-table entries (R16). -/
def tlbEntries : Nat := 512
def matchEntries : Nat := 16

/-- FREE VALUE: the n-th value that the manual leaves open during a run (`State.freeCtr` counts them). It stands for: the
data of a load from a Bynus peer part (R111), the instruction word that FLTINST shows for a failed fetch, and the value
of a register whose relaxed load was withdrawn. -/
opaque freeWord : Nat → Word

/-- FREE VALUE: which of the results that an error bound of R163 admits a special function returns. It depends only on
the function, the format and the input, as R163 says ("Every W8 returns the same bits for the same input and format"). -/
opaque specialChoice : (fn fmt : Nat) → (input : Nat) → Nat

/-- FREE VALUE: for a monotonic function of R163, the least input, as a signed number, from which its result is at least the value with
this signed encoding. -/
opaque specialStep : (fn fmt : Nat) → (level : Int) → Int

/-- FREE VALUE: whether the RSA-4096 signature of an image verifies against the fused key (R276). -/
opaque signatureValid : List Byte → Bool

/-- FREE VALUE: the minor level of a firmware image (R292): the manual gives the image no layout. -/
opaque imageMinor : List Byte → BitVec 8

/-- FREE VALUE: the save area of a checkpoint drain, in units of 64 KiB, in the DRAM range that the firmware reserves (R306). -/
opaque checkpointUnit : Fin 0xBE0000

/-- FREE VALUES: what the manual does not say of the link directory (R303): the kind of a link that is no port (0 absent, 1 die-to-die,
2 stack), the dies that a link joins, and the lane count of a link that is no port. -/
opaque linkKind : (link : Nat) → Fin 3
opaque linkDies : (link : Nat) → Fin 12 × Fin 12
opaque linkLanes : (link : Nat) → Fin 513

/-- FREE VALUE: whether the n-th verification of an image or a table that the flash has held since manufacture succeeds (R276). -/
opaque shippedGood : Nat → Bool

/-- FREE VALUE: the answer of the SPDM responder to a DOE request (R20, R278): the manual names the standard only. -/
opaque spdmAnswer : List Word → Nat → List Word

/-- FREE VALUE: by how many cycles the timestamp of a die runs ahead of the slowest one; two dies agree within 2 cycles (R15). -/
opaque timeSkew : (die : Nat) → Fin 3

end Sys2Proof.Config
end

