-- ==== Sys2Proof/Syntax.lean ====
section
/-! DEFINITION. The steps of the Tasel W8, one constructor for each row of spec/opcode_table.json.

The first 192 rows are instruction words. Their constructors carry every bit of the word that the row's encoding leaves
variable, reserved fields included, under the table's own field names and in the table's order, so that a word and its
constructor determine each other (a reserved bit is seen by PWARN and by FLTINST: R33, R35, R248).

The other rows are steps of the part's units, of its firmware and of the host (95_what_each_step_holds). Their
constructors carry what names the step: `uid` a thread by the serial number of its placement, `tid` a thread by its
thread ID (R13), `id` the serial number of an access, a message, a transfer and so on, and the register, queue, core or
address that the step acts on. The rows that nothing inside the part posts stand last: the compiled code of a data type can
build no more than 245 kinds of cells, and only the kernel needs the rest. -/

namespace Sys2Proof

/-- One step of the machine: a row of spec/opcode_table.json. -/
inductive Instr where
  /-- ADD: Adds two registers modulo 2^64. (R339) -/
  | add (d : BitVec 6) (a : BitVec 6) (b : BitVec 6) (e : BitVec 1) (f : BitVec 1)
  /-- SUB: Subtracts gb from ga modulo 2^64. (R446) -/
  | sub (d : BitVec 6) (a : BitVec 6) (b : BitVec 6) (e : BitVec 1) (f : BitVec 1)
  /-- AND: Bitwise AND of two registers. (R344) -/
  | and (d : BitVec 6) (a : BitVec 6) (b : BitVec 6) (e : BitVec 1) (f : BitVec 1)
  /-- OR: Bitwise OR of two registers. (R424) -/
  | or (d : BitVec 6) (a : BitVec 6) (b : BitVec 6) (e : BitVec 1) (f : BitVec 1)
  /-- XOR: Bitwise XOR of two registers. (R471) -/
  | xor (d : BitVec 6) (a : BitVec 6) (b : BitVec 6) (e : BitVec 1) (f : BitVec 1)
  /-- ANDN: Computes ga AND NOT gb. (R344) -/
  | andn (d : BitVec 6) (a : BitVec 6) (b : BitVec 6) (e : BitVec 1) (f : BitVec 1)
  /-- SHL: Logical left shift by gb bits 5:0. (R438) -/
  | shl (d : BitVec 6) (a : BitVec 6) (b : BitVec 6) (e : BitVec 1) (f : BitVec 1)
  /-- SHR: Logical right shift by gb bits 5:0. (R438) -/
  | shr (d : BitVec 6) (a : BitVec 6) (b : BitVec 6) (e : BitVec 1) (f : BitVec 1)
  /-- SRA: Arithmetic right shift by gb bits 5:0. (R438) -/
  | sra (d : BitVec 6) (a : BitVec 6) (b : BitVec 6) (e : BitVec 1) (f : BitVec 1)
  /-- ROT: Rotates ga left by gb bits 5:0. (R434) -/
  | rot (d : BitVec 6) (a : BitVec 6) (b : BitVec 6) (e : BitVec 1) (f : BitVec 1)
  /-- MIN: Writes the signed smaller operand. (R414) -/
  | min (d : BitVec 6) (a : BitVec 6) (b : BitVec 6) (e : BitVec 1) (f : BitVec 1)
  /-- MIN_U: Writes the unsigned smaller operand. (R414) -/
  | minU (d : BitVec 6) (a : BitVec 6) (b : BitVec 6) (e : BitVec 1) (f : BitVec 1)
  /-- MAX: Writes the signed larger operand. (R414) -/
  | max (d : BitVec 6) (a : BitVec 6) (b : BitVec 6) (e : BitVec 1) (f : BitVec 1)
  /-- MAX_U: Writes the unsigned larger operand. (R414) -/
  | maxU (d : BitVec 6) (a : BitVec 6) (b : BitVec 6) (e : BitVec 1) (f : BitVec 1)
  /-- SEL: Selects ga if gd is non-zero, else gb. (R437) -/
  | sel (d : BitVec 6) (a : BitVec 6) (b : BitVec 6) (e : BitVec 1) (f : BitVec 1)
  /-- CMP: Writes 1 if the register comparison holds, else 0. (R351) -/
  | cmp (d : BitVec 6) (a : BitVec 6) (b : BitVec 6) (e : BitVec 1) (f : BitVec 1) (c : BitVec 3)
  /-- CLZ: Counts leading zero bits. (R350) -/
  | clz (d : BitVec 6) (a : BitVec 6) (b : BitVec 6) (e : BitVec 1) (f : BitVec 1)
  /-- CTZ: Counts trailing zero bits. (R350) -/
  | ctz (d : BitVec 6) (a : BitVec 6) (b : BitVec 6) (e : BitVec 1) (f : BitVec 1)
  /-- POPC: Counts 1 bits. (R425) -/
  | popc (d : BitVec 6) (a : BitVec 6) (b : BitVec 6) (e : BitVec 1) (f : BitVec 1)
  /-- EXT: Extracts a bit field given by gb. (R364) -/
  | ext (d : BitVec 6) (a : BitVec 6) (b : BitVec 6) (e : BitVec 1) (f : BitVec 1)
  /-- INS: Inserts a bit field of ga into gd. (R396) -/
  | ins (d : BitVec 6) (a : BitVec 6) (b : BitVec 6) (e : BitVec 1) (f : BitVec 1)
  /-- ADD_W: 32-bit add with sign extension. (R339) -/
  | addW (d : BitVec 6) (a : BitVec 6) (b : BitVec 6) (e : BitVec 1) (f : BitVec 1)
  /-- SUB_W: 32-bit subtract with sign extension. (R446) -/
  | subW (d : BitVec 6) (a : BitVec 6) (b : BitVec 6) (e : BitVec 1) (f : BitVec 1)
  /-- SHL_W: 32-bit left shift with sign extension. (R438) -/
  | shlW (d : BitVec 6) (a : BitVec 6) (b : BitVec 6) (e : BitVec 1) (f : BitVec 1)
  /-- SHR_W: 32-bit logical right shift with sign extension. (R438) -/
  | shrW (d : BitVec 6) (a : BitVec 6) (b : BitVec 6) (e : BitVec 1) (f : BitVec 1)
  /-- SRA_W: 32-bit arithmetic right shift with sign extension. (R438) -/
  | sraW (d : BitVec 6) (a : BitVec 6) (b : BitVec 6) (e : BitVec 1) (f : BitVec 1)
  /-- MUL: Low 64 bits of the product. (R417) -/
  | mul (d : BitVec 6) (a : BitVec 6) (b : BitVec 6) (e : BitVec 1) (f : BitVec 1)
  /-- MULH: High 64 bits of the signed product. (R417) -/
  | mulh (d : BitVec 6) (a : BitVec 6) (b : BitVec 6) (e : BitVec 1) (f : BitVec 1)
  /-- MULH_U: High 64 bits of the unsigned product. (R417) -/
  | mulhU (d : BitVec 6) (a : BitVec 6) (b : BitVec 6) (e : BitVec 1) (f : BitVec 1)
  /-- MULH_SU: High 64 bits of the signed by unsigned product. (R417) -/
  | mulhSu (d : BitVec 6) (a : BitVec 6) (b : BitVec 6) (e : BitVec 1) (f : BitVec 1)
  /-- DIV: Signed division truncated toward zero. (R358) -/
  | div (d : BitVec 6) (a : BitVec 6) (b : BitVec 6) (e : BitVec 1) (f : BitVec 1)
  /-- DIV_U: Unsigned division. (R358) -/
  | divU (d : BitVec 6) (a : BitVec 6) (b : BitVec 6) (e : BitVec 1) (f : BitVec 1)
  /-- REM: Signed remainder. (R432) -/
  | rem (d : BitVec 6) (a : BitVec 6) (b : BitVec 6) (e : BitVec 1) (f : BitVec 1)
  /-- REM_U: Unsigned remainder. (R432) -/
  | remU (d : BitVec 6) (a : BitVec 6) (b : BitVec 6) (e : BitVec 1) (f : BitVec 1)
  /-- MUL_W: 32-bit multiply with sign extension. (R417) -/
  | mulW (d : BitVec 6) (a : BitVec 6) (b : BitVec 6) (e : BitVec 1) (f : BitVec 1)
  /-- ADD_IMM: Adds a signed 13-bit immediate. (R339) -/
  | addImm (d : BitVec 6) (a : BitVec 6) (e : BitVec 1) (i : BitVec 13)
  /-- AND_IMM: ANDs with a signed 13-bit immediate. (R344) -/
  | andImm (d : BitVec 6) (a : BitVec 6) (e : BitVec 1) (i : BitVec 13)
  /-- OR_IMM: ORs with a signed 13-bit immediate. (R424) -/
  | orImm (d : BitVec 6) (a : BitVec 6) (e : BitVec 1) (i : BitVec 13)
  /-- XOR_IMM: XORs with a signed 13-bit immediate. (R471) -/
  | xorImm (d : BitVec 6) (a : BitVec 6) (e : BitVec 1) (i : BitVec 13)
  /-- SHL_IMM: Left shift by an immediate amount. (R438) -/
  | shlImm (d : BitVec 6) (a : BitVec 6) (e : BitVec 1) (r : BitVec 5) (s : BitVec 6)
  /-- SHR_IMM: Logical right shift by an immediate amount. (R438) -/
  | shrImm (d : BitVec 6) (a : BitVec 6) (e : BitVec 1) (r : BitVec 5) (s : BitVec 6)
  /-- SRA_IMM: Arithmetic right shift by an immediate amount. (R438) -/
  | sraImm (d : BitVec 6) (a : BitVec 6) (e : BitVec 1) (r : BitVec 5) (s : BitVec 6)
  /-- ROT_IMM: Left rotation by an immediate amount. (R434) -/
  | rotImm (d : BitVec 6) (a : BitVec 6) (e : BitVec 1) (r : BitVec 5) (s : BitVec 6)
  /-- CMP_IMM: Compares ga with a sign-extended 10-bit immediate. (R351) -/
  | cmpImm (d : BitVec 6) (a : BitVec 6) (e : BitVec 1) (c : BitVec 3) (i : BitVec 10)
  /-- LIH: Loads a sign-extended 20-bit value shifted left by 12. (R413) -/
  | lih (d : BitVec 6) (i : BitVec 20)
  /-- ADDPC: Writes PC plus a scaled word offset. (R340) -/
  | addpc (d : BitVec 6) (i : BitVec 20)
  /-- LD: Loads from memory in plain, full or take mode. (R408) -/
  | ld (t : BitVec 6) (b : BitVec 6) (e : BitVec 1) (m : BitVec 2) (r : BitVec 1) (s : BitVec 2) (x : BitVec 1) (o : BitVec 7)
  /-- ST: Stores to memory in plain, empty, set or clear mode. (R442) -/
  | st (t : BitVec 6) (b : BitVec 6) (e : BitVec 1) (m : BitVec 2) (r : BitVec 1) (s : BitVec 2) (x : BitVec 1) (o : BitVec 7)
  /-- LDP: Loads an aligned pair of words in one step. (R411) -/
  | ldp (t : BitVec 6) (b : BitVec 6) (e : BitVec 1) (m : BitVec 2) (r : BitVec 1) (s : BitVec 2) (x : BitVec 1) (o : BitVec 7)
  /-- STP: Stores a register pair to an aligned pair of words in one step. (R445) -/
  | stp (t : BitVec 6) (b : BitVec 6) (e : BitVec 1) (m : BitVec 2) (r : BitVec 1) (s : BitVec 2) (x : BitVec 1) (o : BitVec 7)
  /-- AMO: Atomic read-modify-write returning the old data. (R343) -/
  | amo (d : BitVec 6) (a : BitVec 6) (b : BitVec 6) (e : BitVec 1) (f : BitVec 1) (r : BitVec 1) (g : BitVec 1) (o : BitVec 4)
  /-- CAS: Compares the word with gb and writes gb+1 if equal. (R349) -/
  | cas (d : BitVec 6) (a : BitVec 6) (b : BitVec 6) (e : BitVec 1) (f : BitVec 1) (r : BitVec 1) (g : BitVec 1)
  /-- TAGRD: Reads the P and W tags of a word. (R450) -/
  | tagrd (d : BitVec 6) (a : BitVec 6) (b : BitVec 6) (e : BitVec 1) (f : BitVec 1)
  /-- TAGSET: Sets the P tag of a word and serves its waiters. (R451) -/
  | tagset (d : BitVec 6) (a : BitVec 6) (b : BitVec 6) (e : BitVec 1) (f : BitVec 1)
  /-- WATCH: Installs watchpoint or message watch entries over a range. (R466) -/
  | watch (d : BitVec 6) (a : BitVec 6) (b : BitVec 6) (e : BitVec 1) (f : BitVec 1)
  /-- UNWATCH: Removes WATCH entries within a range. (R454) -/
  | unwatch (d : BitVec 6) (a : BitVec 6) (b : BitVec 6) (e : BitVec 1) (f : BitVec 1)
  /-- FENCE_T: Waits until the thread's earlier accesses are performed. (R110) -/
  | fenceT (d : BitVec 6) (a : BitVec 6) (b : BitVec 6) (e : BitVec 1) (f : BitVec 1)
  /-- FENCE_D: Waits for accesses, engine writes and KSENDs. (R110) -/
  | fenceD (d : BitVec 6) (a : BitVec 6) (b : BitVec 6) (e : BitVec 1) (f : BitVec 1)
  /-- FENCE_S: Also waits for host and peer stores to reach their coherence points. (R110) -/
  | fenceS (d : BitVec 6) (a : BitVec 6) (b : BitVec 6) (e : BitVec 1) (f : BitVec 1)
  /-- HALLOC: Allocates a heap block, trapping on exhaustion. (R392) -/
  | halloc (d : BitVec 6) (a : BitVec 6) (b : BitVec 6) (e : BitVec 1) (f : BitVec 1)
  /-- HALLOC_NF: Allocates a heap block, returning 0 on exhaustion. (R392) -/
  | hallocNf (d : BitVec 6) (a : BitVec 6) (b : BitVec 6) (e : BitVec 1) (f : BitVec 1)
  /-- HFREE: Frees a live heap block. (R393) -/
  | hfree (d : BitVec 6) (a : BitVec 6) (b : BitVec 6) (e : BitVec 1) (f : BitVec 1)
  /-- B: Conditional or unconditional PC-relative branch. (R346) -/
  | b (a : BitVec 6) (b : BitVec 6) (c : BitVec 3) (o : BitVec 11)
  /-- J: PC-relative jump. (R397) -/
  | j (o : BitVec 26)
  /-- JAL: PC-relative jump writing the link. (R398) -/
  | jal (d : BitVec 6) (o : BitVec 20)
  /-- JALR: Register-indirect jump writing the link. (R399) -/
  | jalr (d : BitVec 6) (a : BitVec 6) (e : BitVec 1) (i : BitVec 13)
  /-- REP: Repeats the following body with register stagger. (R186) -/
  | rep (s : BitVec 6) (a : BitVec 6) (e : BitVec 1) (r : BitVec 9) (l : BitVec 4)
  /-- FADD: Floating-point add. (R367) -/
  | fadd (d : BitVec 6) (a : BitVec 6) (b : BitVec 6) (e : BitVec 1) (f : BitVec 1) (t : BitVec 2)
  /-- FSUB: Floating-point subtract. (R367) -/
  | fsub (d : BitVec 6) (a : BitVec 6) (b : BitVec 6) (e : BitVec 1) (f : BitVec 1) (t : BitVec 2)
  /-- FMUL: Floating-point multiply. (R367) -/
  | fmul (d : BitVec 6) (a : BitVec 6) (b : BitVec 6) (e : BitVec 1) (f : BitVec 1) (t : BitVec 2)
  /-- FMA: Fused multiply-add into gd. (R367) -/
  | fma (d : BitVec 6) (a : BitVec 6) (b : BitVec 6) (e : BitVec 1) (f : BitVec 1) (t : BitVec 2)
  /-- FMA_N: Fused gd minus product. (R367) -/
  | fmaN (d : BitVec 6) (a : BitVec 6) (b : BitVec 6) (e : BitVec 1) (f : BitVec 1) (t : BitVec 2)
  /-- FDIV: Floating-point divide. (R367) -/
  | fdiv (d : BitVec 6) (a : BitVec 6) (b : BitVec 6) (e : BitVec 1) (f : BitVec 1) (t : BitVec 2)
  /-- FSQRT: Floating-point square root. (R367) -/
  | fsqrt (d : BitVec 6) (a : BitVec 6) (b : BitVec 6) (e : BitVec 1) (f : BitVec 1) (t : BitVec 2)
  /-- FMIN: IEEE minimum. (R375) -/
  | fmin (d : BitVec 6) (a : BitVec 6) (b : BitVec 6) (e : BitVec 1) (f : BitVec 1) (t : BitVec 2)
  /-- FMAX: IEEE maximum. (R375) -/
  | fmax (d : BitVec 6) (a : BitVec 6) (b : BitVec 6) (e : BitVec 1) (f : BitVec 1) (t : BitVec 2)
  /-- FMINN: IEEE minimumNumber. (R375) -/
  | fminn (d : BitVec 6) (a : BitVec 6) (b : BitVec 6) (e : BitVec 1) (f : BitVec 1) (t : BitVec 2)
  /-- FMAXN: IEEE maximumNumber. (R375) -/
  | fmaxn (d : BitVec 6) (a : BitVec 6) (b : BitVec 6) (e : BitVec 1) (f : BitVec 1) (t : BitVec 2)
  /-- FSGN_J: Copies the sign of gb onto ga. (R383) -/
  | fsgnJ (d : BitVec 6) (a : BitVec 6) (b : BitVec 6) (e : BitVec 1) (f : BitVec 1) (t : BitVec 2)
  /-- FSGN_N: Applies the inverted sign of gb to ga. (R383) -/
  | fsgnN (d : BitVec 6) (a : BitVec 6) (b : BitVec 6) (e : BitVec 1) (f : BitVec 1) (t : BitVec 2)
  /-- FSGN_X: Applies the XOR of both signs to ga. (R383) -/
  | fsgnX (d : BitVec 6) (a : BitVec 6) (b : BitVec 6) (e : BitVec 1) (f : BitVec 1) (t : BitVec 2)
  /-- FCLASS: Classifies a floating-point value. (R369) -/
  | fclass (d : BitVec 6) (a : BitVec 6) (b : BitVec 6) (e : BitVec 1) (f : BitVec 1) (t : BitVec 2)
  /-- FRND: Rounds to an integral value in the same format. (R382) -/
  | frnd (d : BitVec 6) (a : BitVec 6) (b : BitVec 6) (e : BitVec 1) (f : BitVec 1) (t : BitVec 2)
  /-- FCMP: Floating-point compare writing 0 or 1. (R370) -/
  | fcmp (d : BitVec 6) (a : BitVec 6) (b : BitVec 6) (e : BitVec 1) (f : BitVec 1) (c : BitVec 2) (t : BitVec 2)
  /-- FCVT: Converts between FP64, FP32, FP16 and BF16. (R372) -/
  | fcvt (d : BitVec 6) (a : BitVec 6) (r : BitVec 1) (m : BitVec 3) (o : BitVec 2) (e : BitVec 1) (f : BitVec 1) (t : BitVec 2)
  /-- FCVTI: Converts a float to a signed 64-bit integer. (R373) -/
  | fcvti (d : BitVec 6) (a : BitVec 6) (b : BitVec 6) (e : BitVec 1) (f : BitVec 1) (t : BitVec 2)
  /-- FCVTI_U: Converts a float to an unsigned 64-bit integer. (R373) -/
  | fcvtiU (d : BitVec 6) (a : BitVec 6) (b : BitVec 6) (e : BitVec 1) (f : BitVec 1) (t : BitVec 2)
  /-- ICVTF: Converts a signed integer to a float. (R395) -/
  | icvtf (d : BitVec 6) (a : BitVec 6) (b : BitVec 6) (e : BitVec 1) (f : BitVec 1) (t : BitVec 2)
  /-- ICVTF_U: Converts an unsigned integer to a float. (R395) -/
  | icvtfU (d : BitVec 6) (a : BitVec 6) (b : BitVec 6) (e : BitVec 1) (f : BitVec 1) (t : BitVec 2)
  /-- VADD_F: Vector floating-point add. (R457) -/
  | vaddF (d : BitVec 6) (a : BitVec 6) (b : BitVec 6) (e : BitVec 1) (f : BitVec 1) (t : BitVec 2)
  /-- VSUB_F: Vector floating-point subtract. (R457) -/
  | vsubF (d : BitVec 6) (a : BitVec 6) (b : BitVec 6) (e : BitVec 1) (f : BitVec 1) (t : BitVec 2)
  /-- VMUL_F: Vector floating-point multiply. (R457) -/
  | vmulF (d : BitVec 6) (a : BitVec 6) (b : BitVec 6) (e : BitVec 1) (f : BitVec 1) (t : BitVec 2)
  /-- VFMA: Vector fused multiply-add. (R457) -/
  | vfma (d : BitVec 6) (a : BitVec 6) (b : BitVec 6) (e : BitVec 1) (f : BitVec 1) (t : BitVec 2)
  /-- VFMA_N: Vector fused multiply-subtract. (R457) -/
  | vfmaN (d : BitVec 6) (a : BitVec 6) (b : BitVec 6) (e : BitVec 1) (f : BitVec 1) (t : BitVec 2)
  /-- VMIN_F: Vector IEEE minimum. (R457) -/
  | vminF (d : BitVec 6) (a : BitVec 6) (b : BitVec 6) (e : BitVec 1) (f : BitVec 1) (t : BitVec 2)
  /-- VMAX_F: Vector IEEE maximum. (R457) -/
  | vmaxF (d : BitVec 6) (a : BitVec 6) (b : BitVec 6) (e : BitVec 1) (f : BitVec 1) (t : BitVec 2)
  /-- VMINN: Vector minimumNumber. (R457) -/
  | vminn (d : BitVec 6) (a : BitVec 6) (b : BitVec 6) (e : BitVec 1) (f : BitVec 1) (t : BitVec 2)
  /-- VMAXN: Vector maximumNumber. (R457) -/
  | vmaxn (d : BitVec 6) (a : BitVec 6) (b : BitVec 6) (e : BitVec 1) (f : BitVec 1) (t : BitVec 2)
  /-- VCMP_EQ_F: Vector quiet equality mask. (R457) -/
  | vcmpEqF (d : BitVec 6) (a : BitVec 6) (b : BitVec 6) (e : BitVec 1) (f : BitVec 1) (t : BitVec 2)
  /-- VCMP_LT_F: Vector signalling less-than mask. (R457) -/
  | vcmpLtF (d : BitVec 6) (a : BitVec 6) (b : BitVec 6) (e : BitVec 1) (f : BitVec 1) (t : BitVec 2)
  /-- VCMP_LE_F: Vector signalling less-or-equal mask. (R457) -/
  | vcmpLeF (d : BitVec 6) (a : BitVec 6) (b : BitVec 6) (e : BitVec 1) (f : BitVec 1) (t : BitVec 2)
  /-- VSEL_F: Vector select of b by mask a. (R457) -/
  | vselF (d : BitVec 6) (a : BitVec 6) (b : BitVec 6) (e : BitVec 1) (f : BitVec 1) (t : BitVec 2)
  /-- VRED: Tree-reduces a stream or register by sum. (R458) -/
  | vred (d : BitVec 6) (a : BitVec 6) (b : BitVec 6) (e : BitVec 1) (f : BitVec 1) (t : BitVec 2)
  /-- VRED_MAX: Tree-reduces by maximum. (R458) -/
  | vredMax (d : BitVec 6) (a : BitVec 6) (b : BitVec 6) (e : BitVec 1) (f : BitVec 1) (t : BitVec 2)
  /-- VRED_MIN: Tree-reduces by minimum. (R458) -/
  | vredMin (d : BitVec 6) (a : BitVec 6) (b : BitVec 6) (e : BitVec 1) (f : BitVec 1) (t : BitVec 2)
  /-- VADD_I: Vector integer add. (R459) -/
  | vaddI (d : BitVec 6) (a : BitVec 6) (b : BitVec 6) (e : BitVec 1) (f : BitVec 1) (w : BitVec 2)
  /-- VSUB_I: Vector integer subtract. (R459) -/
  | vsubI (d : BitVec 6) (a : BitVec 6) (b : BitVec 6) (e : BitVec 1) (f : BitVec 1) (w : BitVec 2)
  /-- VMUL_I: Vector integer multiply. (R459) -/
  | vmulI (d : BitVec 6) (a : BitVec 6) (b : BitVec 6) (e : BitVec 1) (f : BitVec 1) (w : BitVec 2)
  /-- VMIN_I: Vector signed minimum. (R459) -/
  | vminI (d : BitVec 6) (a : BitVec 6) (b : BitVec 6) (e : BitVec 1) (f : BitVec 1) (w : BitVec 2)
  /-- VMAX_I: Vector signed maximum. (R459) -/
  | vmaxI (d : BitVec 6) (a : BitVec 6) (b : BitVec 6) (e : BitVec 1) (f : BitVec 1) (w : BitVec 2)
  /-- VAND: Vector AND. (R459) -/
  | vand (d : BitVec 6) (a : BitVec 6) (b : BitVec 6) (e : BitVec 1) (f : BitVec 1) (w : BitVec 2)
  /-- VOR: Vector OR. (R459) -/
  | vor (d : BitVec 6) (a : BitVec 6) (b : BitVec 6) (e : BitVec 1) (f : BitVec 1) (w : BitVec 2)
  /-- VXOR: Vector XOR. (R459) -/
  | vxor (d : BitVec 6) (a : BitVec 6) (b : BitVec 6) (e : BitVec 1) (f : BitVec 1) (w : BitVec 2)
  /-- VSHL: Vector left shift. (R459) -/
  | vshl (d : BitVec 6) (a : BitVec 6) (b : BitVec 6) (e : BitVec 1) (f : BitVec 1) (w : BitVec 2)
  /-- VSHR: Vector logical right shift. (R459) -/
  | vshr (d : BitVec 6) (a : BitVec 6) (b : BitVec 6) (e : BitVec 1) (f : BitVec 1) (w : BitVec 2)
  /-- VSHR_A: Vector arithmetic right shift. (R459) -/
  | vshrA (d : BitVec 6) (a : BitVec 6) (b : BitVec 6) (e : BitVec 1) (f : BitVec 1) (w : BitVec 2)
  /-- VCMP_EQ_I: Vector integer equality mask. (R459) -/
  | vcmpEqI (d : BitVec 6) (a : BitVec 6) (b : BitVec 6) (e : BitVec 1) (f : BitVec 1) (w : BitVec 2)
  /-- VCMP_LT_I: Vector signed less-than mask. (R459) -/
  | vcmpLtI (d : BitVec 6) (a : BitVec 6) (b : BitVec 6) (e : BitVec 1) (f : BitVec 1) (w : BitVec 2)
  /-- VSEL_I: Vector integer select. (R459) -/
  | vselI (d : BitVec 6) (a : BitVec 6) (b : BitVec 6) (e : BitVec 1) (f : BitVec 1) (w : BitVec 2)
  /-- VRED_W: Vector wrapping integer sum reduction. (R458) -/
  | vredW (d : BitVec 6) (a : BitVec 6) (b : BitVec 6) (e : BitVec 1) (f : BitVec 1) (w : BitVec 2)
  /-- VCVT: Converts each element between format codes. (R461) -/
  | vcvt (d : BitVec 6) (a : BitVec 6) (m : BitVec 2) (s : BitVec 4) (e : BitVec 1) (f : BitVec 1) (c : BitVec 4)
  /-- VCVT_SAT: Converts each element with saturating FP8 and MX destinations. (R461) -/
  | vcvtSat (d : BitVec 6) (a : BitVec 6) (m : BitVec 2) (s : BitVec 4) (e : BitVec 1) (f : BitVec 1) (c : BitVec 4)
  /-- VPERM: Permutes 8 lanes of 64 bits. (R463) -/
  | vperm (d : BitVec 6) (a : BitVec 6) (b : BitVec 6) (e : BitVec 1) (f : BitVec 1) (p : BitVec 4)
  /-- VSF: Computes a special function of each element. (R464) -/
  | vsf (d : BitVec 6) (a : BitVec 6) (r : BitVec 4) (t : BitVec 2) (e : BitVec 1) (f : BitVec 1) (u : BitVec 4)
  /-- XCLR: Clears an exact accumulator. (R168) -/
  | xclr (d : BitVec 6) (a : BitVec 6) (b : BitVec 6) (e : BitVec 1) (f : BitVec 1) (n : BitVec 3)
  /-- XFMA: Adds an exact FP64 product to the accumulator. (R168) -/
  | xfma (d : BitVec 6) (a : BitVec 6) (b : BitVec 6) (e : BitVec 1) (f : BitVec 1) (n : BitVec 3)
  /-- XFMA_N: Subtracts an exact FP64 product from the accumulator. (R168) -/
  | xfmaN (d : BitVec 6) (a : BitVec 6) (b : BitVec 6) (e : BitVec 1) (f : BitVec 1) (n : BitVec 3)
  /-- XADD: Adds an FP64 value exactly to the accumulator. (R168) -/
  | xadd (d : BitVec 6) (a : BitVec 6) (b : BitVec 6) (e : BitVec 1) (f : BitVec 1) (n : BitVec 3)
  /-- XRND: Rounds the accumulator once to FP64. (R169) -/
  | xrnd (d : BitVec 6) (a : BitVec 6) (b : BitVec 6) (e : BitVec 1) (f : BitVec 1) (n : BitVec 3)
  /-- XSGN: Returns the sign of the accumulator. (R169) -/
  | xsgn (d : BitVec 6) (a : BitVec 6) (b : BitVec 6) (e : BitVec 1) (f : BitVec 1) (n : BitVec 3)
  /-- XRDW: Reads one chunk of the accumulator. (R168) -/
  | xrdw (d : BitVec 6) (a : BitVec 6) (b : BitVec 6) (e : BitVec 1) (f : BitVec 1) (n : BitVec 3)
  /-- XWRW: Writes one chunk or the flags of the accumulator. (R168) -/
  | xwrw (d : BitVec 6) (a : BitVec 6) (b : BitVec 6) (e : BitVec 1) (f : BitVec 1) (n : BitVec 3)
  /-- XACQ: Binds an accumulator name to a free physical accumulator. (R167) -/
  | xacq (n : BitVec 6) (a : BitVec 6) (b : BitVec 6) (e : BitVec 1) (f : BitVec 1)
  /-- XREL: Releases an accumulator binding. (R167) -/
  | xrel (n : BitVec 6) (a : BitVec 6) (b : BitVec 6) (e : BitVec 1) (f : BitVec 1)
  /-- SPAWN: Creates a task record and places or pushes it. (R120) -/
  | spawn (d : BitVec 6) (a : BitVec 6) (b : BitVec 6) (e : BitVec 1) (f : BitVec 1)
  /-- SPAWN_F: Spawns a task with a future word cleared at g3. (R120) -/
  | spawnF (d : BitVec 6) (a : BitVec 6) (b : BitVec 6) (e : BitVec 1) (f : BitVec 1)
  /-- QUIT: Ends the thread and frees its slot. (R427) -/
  | quit (d : BitVec 6) (a : BitVec 6) (b : BitVec 6) (e : BitVec 1) (f : BitVec 1)
  /-- QUIT_F: Ends the thread, putting its result into the future word. (R121) -/
  | quitF (d : BitVec 6) (a : BitVec 6) (b : BitVec 6) (e : BitVec 1) (f : BitVec 1)
  /-- QUIT_D: Ends a drain handler and releases its accumulator row. (R223) -/
  | quitD (d : BitVec 6) (a : BitVec 6) (b : BitVec 6) (e : BitVec 1) (f : BitVec 1)
  /-- DQPUSH: Pushes a task record on the local deque. (R360) -/
  | dqpush (d : BitVec 6) (a : BitVec 6) (b : BitVec 6) (e : BitVec 1) (f : BitVec 1)
  /-- DQPOP: Pops the newest record of the tenant into the thread. (R361) -/
  | dqpop (d : BitVec 6) (a : BitVec 6) (b : BitVec 6) (e : BitVec 1) (f : BitVec 1)
  /-- YIELD: Makes the thread ineligible until its class peers have issued. (R472) -/
  | yield (d : BitVec 6) (a : BitVec 6) (b : BitVec 6) (e : BitVec 1) (f : BitVec 1)
  /-- GNEW: Creates a gang with the issuer as its only member. (R389) -/
  | gnew (d : BitVec 6) (a : BitVec 6) (b : BitVec 6) (e : BitVec 1) (f : BitVec 1)
  /-- GJOIN: Joins a gang. (R132) -/
  | gjoin (d : BitVec 6) (a : BitVec 6) (b : BitVec 6) (e : BitVec 1) (f : BitVec 1)
  /-- GLEAVE: Leaves a gang, possibly completing its generation. (R132) -/
  | gleave (d : BitVec 6) (a : BitVec 6) (b : BitVec 6) (e : BitVec 1) (f : BitVec 1)
  /-- GBAR: Arrives at the gang barrier and parks. (R132) -/
  | gbar (d : BitVec 6) (a : BitVec 6) (b : BitVec 6) (e : BitVec 1) (f : BitVec 1)
  /-- GEND: Breaks the gang and frees its index. (R132) -/
  | gend (d : BitVec 6) (a : BitVec 6) (b : BitVec 6) (e : BitVec 1) (f : BitVec 1)
  /-- MSEND: Sends a two-word message to a thread's mailbox. (R416) -/
  | msend (d : BitVec 6) (a : BitVec 6) (b : BitVec 6) (e : BitVec 1) (f : BitVec 1)
  /-- MWAIT: Parks until the mailbox is non-empty and returns the oldest header. (R418) -/
  | mwait (d : BitVec 6) (a : BitVec 6) (b : BitVec 6) (e : BitVec 1) (f : BitVec 1)
  /-- LCFG: Configures the thread's link ends and overflow ring. (R405) -/
  | lcfg (d : BitVec 6) (a : BitVec 6) (b : BitVec 6) (e : BitVec 1) (f : BitVec 1)
  /-- STAB: Writes a stream table entry from a record. (R444) -/
  | stab (d : BitVec 6) (a : BitVec 6) (b : BitVec 6) (e : BitVec 1) (f : BitVec 1)
  /-- SBIND: Binds or unbinds a stream register. (R436) -/
  | sbind (d : BitVec 6) (a : BitVec 6) (b : BitVec 6) (e : BitVec 1) (f : BitVec 1)
  /-- SSKIP: Advances a stream position without access. (R440) -/
  | sskip (d : BitVec 6) (a : BitVec 6) (b : BitVec 6) (e : BitVec 1) (f : BitVec 1)
  /-- SPOS: Reads a stream position. (R440) -/
  | spos (d : BitVec 6) (a : BitVec 6) (b : BitVec 6) (e : BitVec 1) (f : BitVec 1)
  /-- CPYGO: Launches a copy transfer with destination claim. (R189) -/
  | cpygo (d : BitVec 6) (a : BitVec 6) (b : BitVec 6) (e : BitVec 1) (f : BitVec 1)
  /-- CPYGO_NC: Launches a copy transfer without claim. (R189) -/
  | cpygoNc (d : BitVec 6) (a : BitVec 6) (b : BitVec 6) (e : BitVec 1) (f : BitVec 1)
  /-- CPYST: Reads the state of a transfer. (R356) -/
  | cpyst (d : BitVec 6) (a : BitVec 6) (b : BitVec 6) (e : BitVec 1) (f : BitVec 1)
  /-- CPYCAN: Cancels a queued or running transfer. (R353) -/
  | cpycan (d : BitVec 6) (a : BitVec 6) (b : BitVec 6) (e : BitVec 1) (f : BitVec 1)
  /-- SUBS: Subscribes the core to a multicast tag. (R196) -/
  | subs (d : BitVec 6) (a : BitVec 6) (b : BitVec 6) (e : BitVec 1) (f : BitVec 1)
  /-- UNSUBS: Removes a multicast subscription. (R196) -/
  | unsubs (d : BitVec 6) (a : BitVec 6) (b : BitVec 6) (e : BitVec 1) (f : BitVec 1)
  /-- GATH: Launches a gather of table rows by index. (R232) -/
  | gath (d : BitVec 6) (a : BitVec 6) (b : BitVec 6) (e : BitVec 1) (f : BitVec 1)
  /-- GATH_SUM: Launches a pooled bag gather. (R233) -/
  | gathSum (d : BitVec 6) (a : BitVec 6) (b : BitVec 6) (e : BitVec 1) (f : BitVec 1)
  /-- TBSW: Installs a table descriptor into a directory slot. (R229) -/
  | tbsw (d : BitVec 6) (a : BitVec 6) (b : BitVec 6) (e : BitVec 1) (f : BitVec 1)
  /-- TBDRN: Waits until old table versions are no longer used. (R230) -/
  | tbdrn (d : BitVec 6) (a : BitVec 6) (b : BitVec 6) (e : BitVec 1) (f : BitVec 1)
  /-- KSEND: Sends a key and value to a bin's receive unit. (R242) -/
  | ksend (n : BitVec 6) (a : BitVec 6) (b : BitVec 6) (e : BitVec 1) (f : BitVec 1)
  /-- KBIN: Configures a bin set. (R240) -/
  | kbin (d : BitVec 6) (a : BitVec 6) (b : BitVec 6) (e : BitVec 1) (f : BitVec 1)
  /-- KFLUSH: Waits for earlier sends and optionally requests round-outs. (R245) -/
  | kflush (d : BitVec 6) (a : BitVec 6) (b : BitVec 6) (e : BitVec 1) (f : BitVec 1)
  /-- RCOPY: Launches an in-DRAM row copy. (R429) -/
  | rcopy (d : BitVec 6) (a : BitVec 6) (b : BitVec 6) (e : BitVec 1) (f : BitVec 1)
  /-- RZERO: Launches an in-DRAM row zeroing. (R429) -/
  | rzero (d : BitVec 6) (a : BitVec 6) (b : BitVec 6) (e : BitVec 1) (f : BitVec 1)
  /-- MXCFG: Replaces the core's row-operation descriptor register. (R420) -/
  | mxcfg (d : BitVec 6) (a : BitVec 6) (b : BitVec 6) (e : BitVec 1) (f : BitVec 1)
  /-- MXGO: Arrives at the row barrier to start a row operation. (R218) -/
  | mxgo (d : BitVec 6) (a : BitVec 6) (b : BitVec 6) (e : BitVec 1) (f : BitVec 1)
  /-- MXHND: Sets the drain handler PC and reserves contexts. (R422) -/
  | mxhnd (d : BitVec 6) (a : BitVec 6) (b : BitVec 6) (e : BitVec 1) (f : BitVec 1)
  /-- MXSTAT: Reads the row's progress and state. (R423) -/
  | mxstat (d : BitVec 6) (a : BitVec 6) (b : BitVec 6) (e : BitVec 1) (f : BitVec 1)
  /-- ACLR: Clears accumulator rows. (R335) -/
  | aclr (d : BitVec 6) (a : BitVec 6) (b : BitVec 6) (e : BitVec 1) (f : BitVec 1)
  /-- FPIN: Creates and pins a folio and starts its load. (R212) -/
  | fpin (d : BitVec 6) (a : BitVec 6) (b : BitVec 6) (e : BitVec 1) (f : BitVec 1)
  /-- FUNP: Clears a folio's pinned flag. (R384) -/
  | funp (d : BitVec 6) (a : BitVec 6) (b : BitVec 6) (e : BitVec 1) (f : BitVec 1)
  /-- FREF: Reloads and pins a folio. (R380) -/
  | fref (d : BitVec 6) (a : BitVec 6) (b : BitVec 6) (e : BitVec 1) (f : BitVec 1)
  /-- FREV: Revokes a folio. (R381) -/
  | frev (d : BitVec 6) (a : BitVec 6) (b : BitVec 6) (e : BitVec 1) (f : BitVec 1)
  /-- FQRY: Reads a folio's state word. (R217) -/
  | fqry (d : BitVec 6) (a : BitVec 6) (b : BitVec 6) (e : BitVec 1) (f : BitVec 1)
  /-- TRAP: Raises a software trap. (R453) -/
  | trap (d : BitVec 6) (a : BitVec 6) (b : BitVec 6) (e : BitVec 1) (f : BitVec 1)
  /-- ERET: Returns from a trap handler, resuming any REP. (R254) -/
  | eret (d : BitVec 6) (a : BitVec 6) (b : BitVec 6) (e : BitVec 1) (f : BitVec 1)
  /-- BRK: Raises a breakpoint or stops an armed thread. (R347) -/
  | brk (d : BitVec 6) (a : BitVec 6) (b : BitVec 6) (e : BitVec 1) (f : BitVec 1)
  /-- RPART: Switches or queries the core's partition mode. (R62) -/
  | rpart (d : BitVec 6) (a : BitVec 6) (b : BitVec 6) (e : BitVec 1) (f : BitVec 1)
  /-- XLINV: Invalidates cached translations of a range. (R470) -/
  | xlinv (d : BitVec 6) (a : BitVec 6) (b : BitVec 6) (e : BitVec 1) (f : BitVec 1)
  /-- SWAT: Arms a curfew on a partition at timestamp T. (R448) -/
  | swat (d : BitVec 6) (a : BitVec 6) (b : BitVec 6) (e : BitVec 1) (f : BitVec 1)
  /-- LEND: Lends scratchpad to the tenant's dusk threads. (R141) -/
  | lend (d : BitVec 6) (a : BitVec 6) (b : BitVec 6) (e : BitVec 1) (f : BitVec 1)
  /-- RECALL: Revokes dusk contexts and optionally returns lent ranges. (R431) -/
  | recall (d : BitVec 6) (a : BitVec 6) (b : BitVec 6) (e : BitVec 1) (f : BitVec 1)
  /-- FACK: Acknowledges a held fault so the instruction replays. (R258) -/
  | fack (d : BitVec 6) (a : BitVec 6) (b : BitVec 6) (e : BitVec 1) (f : BitVec 1)
  /-- FACK_T: Turns a held fault into a trap. (R258) -/
  | fackT (d : BitVec 6) (a : BitVec 6) (b : BitVec 6) (e : BitVec 1) (f : BitVec 1)
  /-- MFSR: Reads a system register. (R331) -/
  | mfsr (d : BitVec 6) (a : BitVec 6) (e : BitVec 1) (n : BitVec 13)
  /-- MTSR: Writes a system register that has no row of its own. (R331) -/
  | mtsr (s : BitVec 6) (a : BitVec 6) (e : BitVec 1) (n : BitVec 13)
  /-- HINT: Hint word executed as a NOP. (R34) -/
  | hint (h : BitVec 26)
  /-- MODE_WRITE: Curator write of MODE selecting service or proving mode for the core. (R31) -/
  | modeWrite (uid : Nat) (v : Word)
  /-- CLASS_WRITE: Write of CLASS changing the thread's class subject to limits. (R138) -/
  | classWrite (uid : Nat) (v : Word)
  /-- TRAPVEC_WRITE: Write of the tenant handler PC, performed once every core holds it. (R248) -/
  | trapvecWrite (uid : Nat) (v : Word)
  /-- HEAPDESC_WRITE: Write of the tenant's heap descriptor for later allocations. (R97) -/
  | heapdescWrite (uid : Nat) (v : Word)
  /-- TSTAT_WRITE: Write of TSTAT keeping LVL and clamping PLVL. (R249) -/
  | tstatWrite (uid : Nat) (v : Word)
  /-- DBGC_WRITE: Write of a comparator control register with tenant ownership check. (R313) -/
  | dbgcWrite (uid n : Nat) (v : Word)
  /-- PMSEL_WRITE: Write of a counter selector, storing the writer's tenant below curator level. (R319) -/
  | pmselWrite (uid n : Nat) (v : Word)
  /-- PMC_WRITE: Write of a performance counter's count and OVF. (R320) -/
  | pmcWrite (uid n : Nat) (v : Word)
  /-- TRCCTL_WRITE: Write of trace control restarting the ring record count. (R317) -/
  | trcctlWrite (uid : Nat) (v : Word)
  /-- FWCTL_WRITE: Write of the curator-core firewall enable. (R277) -/
  | fwctlWrite (uid : Nat) (v : Word)
  /-- PWRLIM_WRITE: Write of the package power limit, clamped to 3600 W. (R307) -/
  | pwrlimWrite (uid : Nat) (v : Word)
  /-- ACCESS_PERFORMED: An access reaches its controller and is applied as one indivisible step. (R69) -/
  | accessPerformed (id : Nat)
  /-- CONTROLLER_ANSWER: The owning controller's answer reaches the core and unblocks the thread. (R56) -/
  | controllerAnswer (id : Nat)
  /-- LONG_LATENCY_RESULT: A long-latency result is written into its destination and sets it full. (R54) -/
  | longLatencyResult (id : Nat)
  /-- WAIT_TIME_OUT: WAITLIM expires and the waiter is withdrawn with a trap. (R77) -/
  | waitTimeOut (id : Nat)
  /-- TRANSLATION_WALK_END: A page walk ends, replaying the held instruction or raising a fault. (R58) -/
  | translationWalkEnd (uid : Nat)
  /-- FAULT_RECORD_SEND: A fault record enters its fault queue ring once a slot is free. (R257) -/
  | faultRecordSend (id : Nat)
  /-- DEVICE_MESSAGE_ENTRY: A device-generated message enters the mailbox once room exists. (R192) -/
  | deviceMessageEntry (id : Nat)
  /-- REVOCATION: Chosen dusk contexts move to the reserve bank within 256 cycles of the trigger. (R143) -/
  | revocation (core : Nat)
  /-- RESTORE_CONTEXT: The core restores the oldest revoked context whose slot is free. (R146) -/
  | restoreContext (core : Nat)
  /-- STEAL_REQUEST: An idle core sends a steal request for a tenant. (R127) -/
  | stealRequest (core tenant : Nat)
  /-- STEAL_SERVE: A victim's deque unit serves or fails a steal request. (R128) -/
  | stealServe (thief victim tenant : Nat)
  /-- STEAL_BACKOFF_EXPIRY: The 4096-cycle wait after a failed steal round ends. (R127) -/
  | stealBackoffExpiry (core tenant : Nat)
  /-- YIELD_TIMEOUT: A yielding thread becomes eligible after 64 cycles. (R137) -/
  | yieldTimeout (uid : Nat)
  /-- LINK_STALL: A thread blocked on lnk past the link-stall limit takes link stall. (R134) -/
  | linkStall (uid : Nat)
  /-- COPY_COMPLETION: A copy transfer performs its last write and sends its completion message. (R109) -/
  | copyCompletion (core id : Nat)
  /-- GATHER_ROW_WRITE: The gather engine writes or skips a destination row. (R232) -/
  | gatherRowWrite (id : Nat)
  /-- BIN_UPDATE: A receive unit applies a key-routed update to its bin. (R242) -/
  | binUpdate (id : Nat)
  /-- COMBINING_ENTRY_TIMEOUT: A combining buffer entry 512 cycles old is sent on. (R244) -/
  | combiningEntryTimeout (id : Nat)
  /-- BIN_ROUND_OUT: A receive unit writes an exact bin's FP32 round-out. (R245) -/
  | binRoundOut (id : Nat)
  /-- FOLIO_LOAD_END: A folio load ends and the folio becomes ready, stale or reloads. (R215) -/
  | folioLoadEnd (idx : Nat)
  /-- FEEDER_TAKE: The feeder takes a full feed-ring slot in one take access. (R206) -/
  | feederTake (row : Nat)
  /-- ACCUMULATOR_UPDATE: A segment's update is applied to accumulator memory. (R207) -/
  | accumulatorUpdate (row slot : Nat)
  /-- DRAIN_DISPATCH: A finished accumulator row is dispatched to a drain handler. (R223) -/
  | drainDispatch (core : Nat)
  /-- ROW_OPERATION_COMPLETE: A row operation completes and each core sends its completion message. (R224) -/
  | rowOperationComplete (row : Nat)
  /-- ROW_OPERATION_WRITE: A row copy or zero writes its destination row in one bank step. (R300) -/
  | rowOperationWrite (id : Nat)
  /-- CURFEW_STOP: At T every unit of the partition reaches its clean point. (R264) -/
  | curfewStop (id : Nat)
  /-- CURFEW_SAVE: The save engines write the partition's state to the save area. (R267) -/
  | curfewSave (id : Nat)
  /-- SWITCH_IN: A partition is restored from a save area and the status word written. (R270) -/
  | switchIn (id : Nat)
  /-- QUEUE_HANDLER_DISPATCH: The wake unit places the queue handler in its standby context. (R289) -/
  | queueHandlerDispatch (queue : Nat)
  /-- LAUNCH: A consumer executes a LAUNCH record, seeding task records. (R283) -/
  | launch (queue cons : Nat)
  /-- WAIT: A consumer executes a WAIT record until its condition holds. (R284) -/
  | wait (queue cons : Nat)
  /-- WAIT_POLL: A mode-1 WAIT re-reads its word on a wake store or every 4096 cycles. (R284) -/
  | waitPoll (queue cons : Nat)
  /-- SIGNAL: A consumer executes a SIGNAL record storing a value and interrupting. (R284) -/
  | signal (queue cons : Nat)
  /-- COPY: A consumer executes a COPY record on its copy engine. (R282) -/
  | copy (queue cons : Nat)
  /-- FOLIO: A consumer executes a FOLIO record as a folio instruction. (R282) -/
  | folio (queue cons : Nat)
  /-- NOP: A consumer executes a NOP record. (R282) -/
  | nop (queue cons : Nat)
  /-- RECORD_SKIP: A consumer commits a record whose mask excludes it. (R281) -/
  | recordSkip (queue cons : Nat)
  /-- SEQ_WAIT_TIMEOUT: A consumer waiting on a mismatched SEQ retries after 65536 cycles. (R281) -/
  | seqWaitTimeout (queue cons : Nat)
  /-- TRACE_SAMPLE: A sample record is written each 2^SPER cycles. (R317) -/
  | traceSample (core : Nat)
  /-- COHERENCE_POINT_REACHED: The CXL completion for a host-window write, or the remote part's acknowledgement of an applied peer-window write, reaches the device and marks the store's coherence point. (R111) -/
  | coherencePointReached (id : Nat)
  /-- HOT_ROW_COUNT_HALVING: The hot-row store halves its counts after each 2^20 lookups. (R238) -/
  | hotRowCountHalving (stack : Nat)
  /-- LANE_RETRAINING_END: Retraining of a lane ends within 2,048 cycles and the paused link resumes, or a spare lane or half width is put in place. (R304) -/
  | laneRetrainingEnd (link lane : Nat)
  /-- DEBUG_STOP: DBGCMD stop command stopping a thread precisely. (R311) -/
  | debugStop (tid : Nat)
  /-- DEBUG_RESUME: DBGCMD resume command returning a stopped thread to its state. (R311) -/
  | debugResume (tid : Nat)
  /-- DEBUG_STEP: DBGCMD step command letting a stopped thread issue once. (R311) -/
  | debugStep (tid : Nat)
  /-- BRKSTOP: DBGCMD bit arming a tenant's threads so BRK stops them. (R311) -/
  | brkstop (core tenant : Nat)
  /-- CONTEXT_RECORD_ACCESS: Curator access to a stopped thread's context record in system space. (R312) -/
  | contextRecordAccess (write : Bool) (tid word : Nat) (v : Word)
  /-- REPAIR_TABLE_WRITE: Curator write of a repair table entry, effective at next reset. (R475) -/
  | repairTableWrite (core entry : Nat) (v : Word)
  /-- EYE_MARGIN_WRITE: Write of a lane eye-margin register, clearing BELOW by writing 1. (R303) -/
  | eyeMarginWrite (link lane : Nat) (v : Word)
  /-- PGIDLE_WRITE: Write of a bank's idle timer period, effective at its next access. (R298) -/
  | pgidleWrite (bank : Nat) (v : Word)
  /-- SLOT_REASSIGN: At each rotation boundary owner fields are reassigned by deficit round robin. (R136) -/
  | slotReassign (core : Nat)
  /-- STREAM_READ_AHEAD: The stream unit reads ahead beats of a read or update stream. (R184) -/
  | streamReadAhead (uid n : Nat)
  /-- FOLIO_STORE_ERROR: An uncorrectable folio-store error reloads or drops the folio. (R215) -/
  | folioStoreError (idx : Nat)
  /-- GET_FEATURES: Mailbox request returning the feature words. (R292) -/
  | getFeatures (ver : Nat)
  /-- LOAD_FIRMWARE: Mailbox request delivering a signed firmware image. (R276) -/
  | loadFirmware (ver : Nat) (image : List Byte)
  /-- LOAD_CONFIG: Mailbox request delivering a signed configuration table. (R276) -/
  | loadConfig (ver : Nat) (image : List Byte)
  /-- CREATE_TENANT: Mailbox request creating a tenant from a descriptor. (R272) -/
  | createTenant (ver : Nat) (desc : List Word)
  /-- DESTROY_TENANT: Mailbox request destroying a tenant. (R274) -/
  | destroyTenant (ver : Nat) (tenant : Word)
  /-- CREATE_QUEUE: Mailbox request creating a command queue. (R279) -/
  | createQueue (ver : Nat) (tenant va : Word)
  /-- DESTROY_QUEUE: Mailbox request destroying a command queue. (R278) -/
  | destroyQueue (ver : Nat) (queue : Word)
  /-- SET_OWNER: Mailbox request migrating page ownership between host and device. (R96) -/
  | setOwner (ver : Nat) (tenant va count owner : Word)
  /-- WAKE_WRITE: A store to WAKE raises it to the unsigned maximum. (R287) -/
  | wakeWrite (queue : Nat) (v : Word)
  /-- PROG_WRITE: A store to the handler consumer's PROG raises it. (R286) -/
  | progWrite (queue cons : Nat) (v : Word)
  /-- STATUS_WRITE: A store to STATUS restarts stopped consumers, skipping or re-executing. (R285) -/
  | statusWrite (queue : Nat) (v : Word)
  /-- HOST_MEM_READ: A host CXL.mem read of device DRAM decided by the ownership map. (R295) -/
  | hostMemRead (pa : Nat)
  /-- HOST_MEM_WRITE: A host CXL.mem write of device DRAM decided by the ownership map. (R295) -/
  | hostMemWrite (pa : Nat) (v : Word)
  /-- PEER_REQUEST: A remote Bynus request checked against the ingress map. (R297) -/
  | peerRequest (port off : Nat) (write : Bool) (v : Word)
  /-- BANK_IDLE_PRECHARGE: A bank's idle timer expires and it precharges its open row. (R298) -/
  | bankIdlePrecharge (bank : Nat)
  /-- BANK_REFRESH: Refresh closes a bank's open row. (R298) -/
  | bankRefresh (bank : Nat)
  /-- BACKGROUND_SCRUB: The scrubber reads and checks granules and words. (R302) -/
  | backgroundScrub (pa : Nat)
  /-- ZERO_ON_TOUCH_SCRUB: The separate pass that finishes zeroing returned ranges. (R302) -/
  | zeroOnTouchScrub (core : Nat)
  /-- LANE_MARGIN_BELOW: A lane margin falls below threshold, interrupting the curator to retrain or repair. (R304) -/
  | laneMarginBelow (link lane hmargin vmargin : Nat)
  /-- POWER_FAIL_WARNING: The host's power-fail warning starts the checkpoint drain. (R306) -/
  | powerFailWarning
  /-- THERMAL_TRIP: A die reaches its trip point and all issue stops. (R308) -/
  | thermalTrip (die : Nat)
  /-- POWER_GOOD_RESET: Power-good starts the reset sequence. (R309) -/
  | powerGoodReset
  /-- HOST_SNOOP: A host snoop is answered RspIHitI. (R294) -/
  | hostSnoop (pa : Nat)
  /-- PWRLIM_ISSUE_SUPPRESSION: The power controller begins or ends suppression of dusk issue, then day issue, as package power crosses PWRLIM. (R308) -/
  | pwrlimIssueSuppression (dusk day : Bool)
  deriving DecidableEq, Repr

end Sys2Proof
end

