-- ==== Sys2Proof/Machine/State.lean ====
section
/-! DEFINITION. The state of one Tasel W8 module as plain data, and the state right after reset.

Tables that the manual sizes in thousands (contexts, cores, tenants, words) are held as lists of entries; an entry that
is not listed has the value its docstring names. Fields marked MODEL are the model's own bookkeeping: serial numbers,
the posted steps of units, and the plain data that says which permitted step or choice comes next. -/

namespace Sys2Proof.Machine

/-- The three privilege levels (R247). -/
inductive Level where
  | user | runtime | curator
  deriving DecidableEq, Repr

/-- The classes of contexts (R64, R118). -/
inductive Cls where
  | noon | day | dusk
  deriving DecidableEq, Repr

/-- The context states, in the order of the table of R47 (R269 numbers them from 0). -/
inductive Status where
  | free | ready | blockedRegister | parkedMemory | parkedMessage | heldFault | trappedStopped | revoked | saving | restoring
  deriving DecidableEq, Repr

/-- What the error code of a stored cell finds (R55, R301): nothing, a correctable or an uncorrectable error. -/
inductive Ecc where
  | ok | single | double
  deriving DecidableEq, Repr

/-- What a blocked-register thread waits for (R47). -/
inductive Await where
  | nothing
  | reg (n : Nat)               -- a full register, or the result still due to it (R27, R54)
  | upstream | downstream       -- `lnk` (R134)
  | mailbox                     -- `mbx` (R27)
  | accesses                    -- the performance of its earlier accesses (R104, R105)
  | answer (id : Nat)           -- the controller's answer to an access (R56)
  | relaxedRoom                 -- fewer than eight relaxed accesses (R106)
  | engines | coherence         -- FENCE.d, FENCE.s (R110)
  | sends (below : Nat)         -- fewer than `below` KSENDs outstanding (R242, R245)
  | roundOuts                   -- KFLUSH's round-outs (R245)
  | launchRoom                  -- room in the core's launch queue (R189)
  | mailRoom (core : Nat)       -- room for an MSEND (R195), in a mailbox queue
  | imageRoom (block : Nat)     -- or in the mailbox image of a save area
  | room (words : List Nat)     -- room for the messages of the watch events at words that it is to write (R83)
  | quiet (words : List Nat)    -- no waiter still to be served, and no row operation, at words that it is to read (R76, R300)
  | dequeRoom (core : Nat)      -- room for a push (R126)
  | accumulator                 -- a free exact accumulator (R167)
  | revocation                  -- no revocation in progress on its core (R412)
  | recall                      -- the completion of its own RECALL (R431)
  | poolContexts (need : Nat)   -- `need` more free pool contexts, for MXHND's reservation (R222)
  | streamElement (n : Nat)     -- an element of stream n on a wait list (R184)
  | streamWrites (n : Nat)      -- the write beats of stream n (R180)
  | sysWrite                    -- the performance of its MTSR (R331)
  | oldGathers (slot : Nat)     -- TBDRN (R230)
  | coreResults                 -- RPART: no long-latency result outstanding on the core (R62)
  | linkDrained                 -- LCFG: the old downstream channel (R133)
  | invalidated                 -- XLINV: the accesses translated through the entries that it dropped (R470)
  | streamPuts (n k : Nat)      -- the words that its puts of stream n are to go to (R79, R184)
  deriving DecidableEq, Repr

/-- A general register: its value, its full/empty bit, whether a long-latency result is still due to it (R53, R54), and
what its SECDED check will find (R55). An empty register keeps its old value, which a withdrawn access leaves (R57). -/
structure Reg where
  val : Word
  full : Bool
  due : Bool
  ecc : Ecc
  deriving DecidableEq, Repr

/-- Zero and full, as placement leaves a register (R49). -/
def Reg.zero : Reg := { val := 0, full := true, due := false, ecc := .ok }

/-- A live repetition buffer (R186): the address of the first body word, the body length, the pass count, the signed
stride, the position, and the body words fetched once. -/
structure Rep where
  start : Word
  len : Nat
  cnt : Nat
  stride : BitVec 6
  pass : Nat
  idx : Nat
  body : List InstWord
  deriving DecidableEq, Repr

/-- The retry latch (R57): the word, the word with the REP stagger applied (R257), its PC, the pass and body index, the cause and the faulting address. `sent`: its
record has been written to a ring (R258). `walk`: the hold is a translation walk in progress (R58). `double`: a double
trap (R252). `fetch`: the latched access is the fetch of the word, which the replay fetches. `barrier`: a folio-absent
hold of a whole matrix row (R219), with the serial number of the held set; 0 for none. `trapped`: FACK.t has named it, and its trap waits for the accesses outstanding (R253). -/
structure Latch where
  word : InstWord
  shown : InstWord
  pc : Word
  pass : Nat
  idx : Nat
  cause : BitVec 8
  val : Word
  detail : Nat
  sent : Bool
  walk : Bool
  double : Bool
  fetch : Bool
  barrier : Nat
  trapped : Bool
  deriving DecidableEq, Repr

/-- MODEL: a trap whose entry waits for the accesses outstanding (R251): the instruction has had no effect and is not executed
again. `counted`: its issue has been counted. -/
structure DueTrap where
  cause : BitVec 8
  val : Word
  word : InstWord
  shown : InstWord
  counted : Bool
  deriving DecidableEq, Repr

/-- A deferred trap of a relaxed access (R78, R253), kept until the thread blocks on the access. -/
structure Deferred where
  id : Nat
  cause : BitVec 8
  val : Word
  word : InstWord
  dst : List Nat
  deriving DecidableEq, Repr

/-- The record of a stream table entry: four words, laid out as R177 gives. -/
structure StreamEntry where
  w0 : Word
  w1 : Word
  w2 : Word
  w3 : Word
  deriving DecidableEq, Repr

/-- A bound stream register (R180): its entry, its position, the update record of R183 (positions popped and not yet
written back), the elements read ahead of the position (R184) and the width at which they were read. -/
structure Stream where
  entry : StreamEntry
  pos : Nat
  record : List Nat
  ahead : List Word
  aheadW : Nat
  deriving DecidableEq, Repr

/-- The partial result of a VRED under way (R165, R269, R458): the value so far and the beats done, the exception flags that its
completion raises (R155), and (MODEL) where the VRED stands: its PC and its REP position, and how many trap handlers have been entered from
the handler that interrupted it. -/
structure VredPart where
  val : Word
  beats : Nat
  flags : BitVec 5
  pc : Word
  rep : BitVec 40
  depth : Nat
  deriving DecidableEq, Repr

/-- A task record (R118). -/
structure TaskRec where
  pc : Word
  g0 : Word
  g1 : Word
  g2 : Word
  g3 : Word
  id : Word
  stamp : Word
  tenant : Nat
  cls : Cls
  future : Bool
  level : Level
  ecc : Ecc
  seeder : Nat                 -- MODEL: the consumer whose LAUNCH made it (R283)
  deriving DecidableEq, Repr

/-- The wait of a YIELD (R137, R472): the threads whose issue ends it, and the cycle that ends it. -/
structure YieldWait where
  others : List Nat
  till : Nat
  deriving DecidableEq, Repr

/-- What a MXHND drain handler holds (R223): its accumulator row, its context staying reserved. -/
structure DrainOf where
  m : Nat
  accRow : Nat
  deriving DecidableEq, Repr

/-- A cached translation (R93, R95): a page of a tenant. -/
structure TlbEntry where
  tenant : Nat
  va : Nat
  size : Nat
  leaf : Word
  deriving DecidableEq, Repr

/-- A context that holds a thread (R46, R269). -/
structure Thread where
  uid : Nat                    -- MODEL: the serial number of its placement
  tid : Nat                    -- the thread ID (R13)
  tenant : Nat
  level : Level                -- TSTAT.LVL (R249)
  cls : Cls
  status : Status              -- R47
  recorded : Status            -- the state a stop, a revocation or a curfew left (R48)
  away : Status                -- the state that the save engine found: the thread returns to it (R48)
  await : Await                -- MODEL: what a blocked-register thread waits for
  banked : Bool                -- its context is in the reserve register bank (R143)
  revokedAt : Nat              -- MODEL: the order of its revocation (R146)
  placedAt : Nat               -- MODEL: the order of its placement (R142)
  stopPending : Bool           -- a debug stop that waits for its return (R311)
  stepping : Bool              -- a debug step in progress (R311)
  stepIssued : Bool            -- and the thread has issued in it
  pc : Word
  regs : Vector Reg 48         -- g0-g47 (R25)
  rep : Option Rep             -- R186
  latch : Option Latch         -- R57
  replay : Bool                -- the next issue replays the latch (R48)
  plvl : Level                 -- TSTAT.PLVL
  inh : Bool                   -- TSTAT.INH
  trep : BitVec 40             -- TSTAT bits 44:5: RACT, RIDX, RPASS, RCNT, RLEN, RSTR (R249)
  fltcause : Word
  fltval : Word
  fltpc : Word
  fltinst : Word
  tscr0 : Word
  tscr1 : Word
  rscr0 : Word
  rscr1 : Word
  deleg : Word
  utrapvec : Word
  fprm : Word                  -- R154
  fpflags : BitVec 5           -- R155
  srseed : Word                -- R158
  waitlim : Word               -- R77
  pwarn : Word                 -- R35
  cpysrc : Word                -- R188
  cpydst : Word
  cpylen : Word
  cpystr : Word
  cpyrows : Word
  cpyflg : Word
  future : Option Word         -- the future address (R121)
  task : Word                  -- the current task's ID (R119)
  seeder : Nat                 -- MODEL: the consumer whose LAUNCH seeded it (R283)
  start : Nat                  -- its start stamp (R129)
  spawns : BitVec 28           -- the context's count of spawns (R119)
  placement : BitVec 16        -- R193
  drain : Option DrainOf       -- placed by drain dispatch (R223)
  handler : Option Nat         -- the queue whose handler it is (R289)
  streams : Vector (Option Stream) 8  -- s0-s7 (R180)
  vred : Option VredPart       -- R269
  xa : Vector (Option Nat) 8   -- exact-accumulator bindings (R167)
  down : Option Nat            -- link ends: the thread IDs named (R133)
  up : Option Nat
  ring : Nat                   -- overflow ring descriptor address, 0 for none (R135)
  ringPa : List Nat            -- the physical addresses of its words, resolved by LCFG
  ringVa : Nat                 -- and its base
  blockedAt : Option Nat       -- MODEL: when its instruction began to wait on `lnk`; while it is away, the cycles waited (R134)
  deferred : List Deferred     -- R78, R253
  hit : Option Word            -- a comparator or watchpoint trap due at the next instruction (R315)
  lastIssue : Option Nat       -- R50
  yield : Option YieldWait
  phase : Nat                  -- MODEL: how far a waiting instruction has come
  waits : List Nat             -- MODEL: the accesses that its XLINV waits for
  parked : InstWord            -- MODEL: the word, as fetched and as staggered, of the instruction at which it waits
  parkedShown : InstWord
  parkedRsvd : Bool            -- MODEL: a reserved field of that word is set
  walked : List TlbEntry       -- MODEL: what the walker has resolved for the latched instruction (R58)
  proving : Bool               -- MODEL: its last issue was in proving mode (R32)
  dropped : Nat                -- dropped KSENDs since the last KFLUSH (R245)
  roundOuts : Nat              -- round-outs its KFLUSH still waits for (R245)
  ecc : Ecc                    -- what the check of its other parts will find (R259)
  dueTrap : Option DueTrap     -- MODEL: the trap whose entry waits for its accesses (R251)
  sendRecord : Bool            -- MODEL: its hold's record is to be sent again on its return (R144)
  deriving DecidableEq, Repr

/-- What an access does at its controller (R103). -/
inductive AccessKind where
  | load | store | loadPair | storePair | amo (op : Nat) | cas | tagrd | tagset
  | streamElem (n : Nat)       -- an element of a stream register, read side; read ahead when `answered` is set (R184)
  | streamPut (n : Nat)        -- an element of a stream register, write side
  | queueWait (q i : Nat)      -- a mode-0 WAIT of a queue consumer (R284); it has no thread
  | alloc                      -- a HALLOC.nf at its allocator unit (R101, R104); `val` is the size
  | clear                      -- an ACLR (R335): `va` is its first row, `pa` the place of the row that it clears next, `val` the rows left
  deriving DecidableEq, Repr

/-- Where an access stands (R56): in flight, on a wait list (its place in arrival order, and when it was placed), performed,
or refused with a cause (R79, R86). -/
inductive Phase where
  | sent
  | waiting (order since : Nat)
  | performed
  | refused (cause : BitVec 8) (val : Word) (detail : Nat)
  deriving DecidableEq, Repr

/-- An access of a thread that has issued (R103, R104). `mode` and `size` are those of the M format (R24); `dst` the
general register of the result, none for `z`; `shown` the word with the REP stagger
applied; `rsvd` and `row` what PWARN records when it completes (R35). -/
structure Access where
  id : Nat
  uid : Nat
  kind : AccessKind
  mode : Nat
  size : Nat
  signed : Bool
  relaxed : Bool
  va : Nat
  pa : Nat
  val : Word
  val2 : Word
  dst : Option Nat
  word : InstWord
  shown : InstWord
  rsvd : Bool
  row : Nat
  phase : Phase
  answered : Bool
  deriving DecidableEq, Repr

/-- A long-latency result on its way to its registers (R53, R54). -/
structure Result where
  id : Nat
  uid : Nat
  restores : List Nat          -- registers that become full again and hold their old values (R361)
  regs : List (Nat × Word)
  deriving DecidableEq, Repr

/-- A message of a mailbox queue (R192-R194): the slot it is addressed to, the placement it is bound to (MODEL: a serial
number), its header fields and words; `popped`: word 0 has been read; `device`: not an MSEND. -/
structure Msg where
  id : Nat
  slot : Nat
  bound : Option Nat
  kind : Nat
  status : Nat
  sender : Nat
  w0 : Word
  w1 : Word
  popped : Bool
  device : Bool
  deriving DecidableEq, Repr

/-- A range lent to dusk threads (R141). -/
structure Lease where
  tenant : Nat
  off : Nat
  len : Nat
  deriving DecidableEq, Repr

/-- A subscription of the match table (R196). -/
structure Subscription where
  tenant : Nat
  tag : Nat
  root : Nat
  off : Nat
  deriving DecidableEq, Repr

/-- A physical exact accumulator (R166): owner (MODEL: serial number of the thread), value, flags. -/
structure ExactAcc where
  owner : Option Nat
  v : BitVec 4288
  flags : BitVec 4
  deriving DecidableEq, Repr

def ExactAcc.empty : ExactAcc := { owner := none, v := 0, flags := 0 }

inductive TransferState where
  | queued | running | cancelled
  deriving DecidableEq, Repr

/-- What a copy engine has read for a destination word (R109): data, poison, or nothing, since it may not read the source word (R266). -/
inductive CopyWord where
  | data (v : Word)
  | poison
  | skip
  deriving DecidableEq, Repr

/-- A transfer of a copy engine (R188-R191): the snapshot, the pages it resolved at launch (virtual and physical base and
size), how many destination words it has gone through and written, and the source words that it has read for the next ones (R109). `done`
counts the rows whose every destination write has been performed, and `short` says that a word of the present row has not been written
(R356). `uid` is the launching thread, `queue` the queue and consumer of a COPY record. -/
structure Transfer where
  id : Nat
  serial : Nat
  uid : Option Nat
  tid : Nat
  tenant : Nat
  dusk : Bool
  cls : Nat                    -- the class of the launching thread, by number (R319)
  queue : Option (Nat × Nat)
  src : Nat
  dst : Nat
  len : Nat
  sstr : Int
  dstr : Int
  rows : Nat
  flg : Word
  tag : Nat
  nc : Bool
  rowFallback : Bool
  curatorLevel : Bool
  pages : List (Nat × Nat × Nat)
  subs : List (Nat × Subscription)
  state : TransferState
  next : Nat
  carried : List CopyWord
  written : Nat
  done : Nat
  short : Bool
  poisoned : Bool
  lease : Bool
  deriving DecidableEq, Repr

/-- A revocation in progress (R142, R143): the chosen contexts still to move, and the lent ranges to return. -/
structure Revoking where
  chosen : List Nat
  ranges : List Lease
  deriving DecidableEq, Repr

/-- MXHND's reservation (R222, R422). -/
structure Reservation where
  pc : Word
  count : Nat
  tenant : Nat
  slots : List Nat
  deriving DecidableEq, Repr

/-- A performance counter (R319, R320), and the cycle of its last overflow. -/
structure Counter where
  count : BitVec 48
  ovf : Bool
  wrappedAt : Option Nat
  deriving DecidableEq, Repr

/-- The task account and the steal unit of one tenant on one core (R127, R129). -/
structure Account where
  qwait : BitVec 48
  run : BitVec 48
  search : BitVec 48
  fsteal : BitVec 48
  asking : Option Nat          -- the victim of the outstanding request
  askedAt : Nat
  tried : List Nat             -- victims that have failed in this round
  first : Bool                 -- the round is the first since work or a wait (R127)
  backoff : Nat                -- no request before this cycle
  deriving DecidableEq, Repr

def Account.zero : Account :=
  { qwait := 0, run := 0, search := 0, fsteal := 0, asking := none, askedAt := 0, tried := [], first := true, backoff := 0 }

/-- An issue: the thread, the word, its PC and word 0 of its sample record (R318). -/
structure Issue where
  uid : Nat
  word : InstWord
  pc : Word
  head : Word
  deriving DecidableEq, Repr

/-- What one core holds beside its contexts (R16). A core that is not listed is `Core.reset`. -/
structure Core where
  prove : Bool                 -- MODE.PROVE (R31)
  deep : Bool                  -- the partition mode (R61)
  ctrapvec : Word              -- R248
  pmc : Vector Counter 8       -- R319
  pmsel : Vector Word 8
  dbgc : Vector Word 8         -- R313
  dbga : Vector Word 8
  dbgb : Vector Word 8
  hitAt : List (Nat × Nat)     -- MODEL: the cycle in which each comparator last set HIT (R331)
  dbgNamed : Nat               -- the thread DBGCMD last named (R311), by serial number; 0 for none
  brkTenant : Nat              -- the tenant BRKSTOP arms, 0 for none (R311)
  trcbase : Word               -- R317
  trcctl : Word
  trcCount : Nat
  trcDropped : Nat
  issued : Option Issue        -- MODEL: what has issued in the present cycle
  fwEnable : Bool              -- FWCTL (R277), on curator cores
  fwDrops : BitVec 48
  fwDropped : Nat × Nat        -- MODEL: the cycle of the last drop and the drops of that cycle (R331)
  owner : List (Option Nat)    -- the 64 owner fields (R136)
  deficit : List (Nat × Int)
  rotation : Nat
  lastNoon : Nat               -- round-robin places (R51): slot + 1, 0 before the first issue
  lastDusk : Nat
  lastOther : Nat
  lastOf : List (Nat × Nat)
  slotIssue : List (Nat × Nat) -- the cycle of the last issue of each slot (R50)
  deque : List TaskRec         -- oldest first (R123)
  mail : List Msg              -- in arrival order (R192)
  mailDiscards : Nat           -- R194
  stab : List (Nat × StreamEntry) -- valid stream table entries (R177)
  xacc : Vector ExactAcc 8     -- R166
  xqueue : List (Nat × Nat)    -- blocked XACQs in arrival order: thread and name (R167)
  transfers : List Transfer    -- R190
  nextTransfer : BitVec 16     -- R355
  subs : List Subscription     -- R196
  multicastDrops : Nat         -- R197
  tlb : List TlbEntry          -- R95
  lent : List Lease            -- R141
  zot : List (Nat × Nat)       -- zero-on-touch ranges not yet scrubbed (R145): window offset and length
  revoking : Option Revoking   -- R143
  held : List (Nat × Nat)      -- slots held for a queue handler: slot and queue (R484)
  reserve : Option Reservation -- R222
  rowDesc : Option (List Word × Nat) -- the descriptor register and its recorded tenant (R208)
  placements : List (Nat × BitVec 16) -- placement numbers by slot (R193)
  account : List (Nat × Account) -- R129
  repair : Vector Word 16      -- the repair table, in flash (R475)
  switched : Option Nat        -- switched out; the base of the save area, 0 for none (R485)
  stopped : Bool               -- from its stop until its switch ends (R266)
  correctedErrors : Nat
  deriving DecidableEq, Repr

/-- A core as reset leaves it: proving mode, full mode (R32, R61), every table empty. -/
def Core.reset : Core :=
  { prove := true, deep := false, ctrapvec := 0, pmc := Vector.replicate 8 { count := 0, ovf := false, wrappedAt := none },
    pmsel := Vector.replicate 8 0, dbgc := Vector.replicate 8 0, dbga := Vector.replicate 8 0,
    dbgb := Vector.replicate 8 0, hitAt := [], dbgNamed := 0, brkTenant := 0, trcbase := 0, trcctl := 0, trcCount := 0,
    trcDropped := 0, issued := none, fwEnable := false, fwDrops := 0, fwDropped := (0, 0), owner := List.replicate 64 none, deficit := [],
    rotation := 0, lastNoon := 0, lastDusk := 0, lastOther := 0, lastOf := [], slotIssue := [], deque := [], mail := [],
    mailDiscards := 0, stab := [], xacc := Vector.replicate 8 ExactAcc.empty, xqueue := [], transfers := [],
    nextTransfer := 0, subs := [], multicastDrops := 0, tlb := [], lent := [], zot := [], revoking := none, held := [],
    reserve := none, rowDesc := none, placements := [], account := [], repair := Vector.replicate 16 0,
    switched := none, stopped := false, correctedErrors := 0 }

/-- A gang (R130-R132). -/
structure Gang where
  check : BitVec 12
  n : Nat
  gen : Nat
  members : List Nat
  arrived : List Nat
  ecc : Ecc
  broken : Bool                -- its entry is lost: uses take *gang broken* until GEND (R261)
  deriving DecidableEq, Repr

/-- A slot of a table directory (R229): the descriptor's eight words. -/
structure TableSlot where
  words : List Word
  hot : Bool                   -- HOT in effect (R229)
  serial : Nat                 -- MODEL: which installation
  deriving DecidableEq, Repr

/-- A tenant (R272): its descriptor as the curator copied it, its tenant-scope registers, its heap's live blocks and its
tables. -/
structure Tenant where
  desc : List Word             -- words 0-31 (R272)
  trapvec : Word               -- R248
  heapdesc : Word              -- R97
  live : List (Nat × Nat)      -- live heap blocks: virtual address and log2 of the size (R99)
  oldLive : List (Nat × Nat)   -- blocks of earlier heaps (R97)
  headHit : Bool               -- a store of the tenant has met the metadata head of an arena (R98)
  gangs : List (Nat × Gang)    -- live gangs by index (R130)
  checks : List (Nat × BitVec 12) -- the last check value of each gang index (R389)
  tables : List (Nat × TableSlot) -- R229
  oldTables : List (Nat × TableSlot) -- old versions with watch entries or hot rows left (R230)
  bins : List (Nat × (Word × Word)) -- configured bin sets: words 0 and 1 (R239)
  ovfFirst : Nat               -- the deque overflow area in DRAM at OVFA (R126): the place of the oldest record
  ovfCount : Nat               -- and how many it holds
  ovfSeeders : List Nat        -- MODEL: the consumers that seeded them, from the oldest on (R283)
  nextRecord : Nat             -- records put in the fault queue so far (R291)
  deriving DecidableEq, Repr

/-- An empty tenant of a descriptor. -/
def Tenant.ofDesc (d : List Word) : Tenant :=
  { desc := d, trapvec := 0, heapdesc := 0, live := [], oldLive := [], headHit := false, gangs := [], checks := [], tables := [],
    oldTables := [], bins := [], ovfFirst := 0, ovfCount := 0, ovfSeeders := [], nextRecord := 0 }

/-- A record on its way to a fault queue (R257). -/
structure FaultRec where
  id : Nat
  tenant : Nat                 -- whose ring; 0 the curator's
  uid : Nat
  tid : Nat
  cause : BitVec 8
  kind : Nat
  val : Word
  pc : Word
  word : InstWord
  detail : Nat
  deriving DecidableEq, Repr

/-- Which unit installed a watch entry (R81, R316). -/
inductive Installer where
  | watch | debug | folio (idx : Nat) | hot (tenant slot serial : Nat)
  deriving DecidableEq, Repr

/-- A watch table entry (R81): the table (dies 0-7 stacks, 8-11 matrix dies), the physical range of whole granules, tenant,
action and argument; the offset of its run in the range it was installed for, and the placement a message entry is bound
to (R193). -/
structure WatchEntry where
  die : Nat
  lo : Nat
  hi : Nat
  tenant : Nat
  action : Nat
  arg : BitVec 32
  installer : Installer
  offset : Nat
  bound : Option Nat
  deriving DecidableEq, Repr

inductive FolioState where
  | loading | ready | stale | absent | revoked
  deriving DecidableEq, Repr

/-- What waits on a folio for its last operation (R215): an eviction, a reload, or a reload and after it a forced eviction. -/
inductive FolioDefer where
  | nothing | evict | reload | reloadEvict
  deriving DecidableEq, Repr

/-- An entry of the folio table (R210): `held` lists the cores and pages held, `runs` the physical runs of the source
range, `data` the loaded source bytes that are not zero by offset, `used` the order of its last use (R212). -/
structure Folio where
  check : BitVec 12
  tenant : Nat
  desc : List Word
  state : FolioState
  pinned : Bool
  chg : Bool
  reason : Nat
  held : List (Nat × Nat)
  runs : List (Nat × Nat × Nat)
  data : List Host.Cell
  ecc : List (Nat × Ecc)       -- what the code of a stored word finds, by word offset (R301); an unlisted word is sound
  defer : FolioDefer
  used : Nat
  deriving DecidableEq, Repr

/-- One A segment taken by a feeder (R205, R206): its position, its data words, its scale word and whether a ring word
was poisoned. -/
structure Segment where
  k : Nat
  m : Nat
  words : List Word
  scale : Word
  poisoned : Bool
  deriving DecidableEq, Repr

/-- A core's part in a row operation (R218, R223, R224). -/
structure RowMember where
  core : Nat
  uid : Nat
  tid : Nat
  tag : Nat
  desc : List Word             -- the snapshot of the descriptor register
  todo : List Segment          -- taken segments not yet applied
  nv : Bool
  ovf : Bool
  wrote : Nat                  -- the accumulator rows that it has written (R224)
  queued : List Nat            -- rows queued for drain (m)
  drained : List Nat           -- rows held by a handler that has not quit
  deriving DecidableEq, Repr

/-- A running or draining row operation. -/
structure RowRun where
  tenant : Nat
  folio : Nat                  -- folio table index
  check : BitVec 12            -- the check value of its shelfmark
  waiting : Bool               -- its folio is not ready yet (R218, R481)
  k : Nat                      -- next segment (R225)
  m : Nat
  half : Option (List Word × Bool) -- the first slot of a 16-bit segment
  poisoned : Bool
  status : Nat                 -- R224
  ended : Bool                 -- no further segment is taken
  members : List RowMember
  deriving DecidableEq, Repr

/-- An arrival at a row's barrier (R218): its WAITLIM count runs from `since`. -/
structure Arrival where
  id : Nat
  core : Nat
  uid : Nat
  tid : Nat
  tenant : Nat
  tag : Nat
  desc : Option (List Word × Nat)
  since : Nat
  word : InstWord
  shown : InstWord
  deriving DecidableEq, Repr

/-- A matrix row (R201). A row that is not listed has no arrival and no operation. -/
structure Row where
  arrivals : List Arrival
  run : Option RowRun
  halted : Bool                -- a folio-store error: the folio reloads (R221)
  deriving DecidableEq, Repr

def Row.reset : Row := { arrivals := [], run := none, halted := false }

/-- A gather in progress (R232): the request, the table version it uses, the next destination row, the pages resolved at
launch, the rows read so far, by window and index, with none for a poisoned word (R234), and the words that it has read ahead of the row
that they are for, by physical address (R109). -/
structure Gather where
  id : Nat
  uid : Nat
  tenant : Nat
  core : Nat
  stack : Nat
  sum : Bool
  curatorLevel : Bool
  req : List Word
  slot : Nat
  table : TableSlot
  next : Nat
  rows : Nat
  lookups : Nat
  dusk : Bool
  window : Nat
  seen : List (Nat × List (Option Word))
  got : List (Nat × Option Word)
  pages : List (Nat × Nat × Nat)
  deriving DecidableEq, Repr

/-- A row of a hot-row store (R237), by stack, tenant, slot, version and index, with its size in bytes. -/
structure HotRow where
  stack : Nat
  tenant : Nat
  slot : Nat
  serial : Nat
  idx : Nat
  size : Nat
  deriving DecidableEq, Repr

/-- A key-routed update on its way, or in its core's combining buffer (R242, R244). `uids` lists the thread of every KSEND
it holds; `value` is exact for OP 2 (units of 2^-149). -/
structure Send where
  id : Nat
  uids : List Nat
  tid : Nat                    -- the thread ID of the first of them
  tenant : Nat
  from_ : Nat
  curatorLevel : Bool
  dusk : Bool
  set : Nat
  key : Word
  op : Nat
  core : Nat
  off : Nat
  value : Int
  flags : BitVec 3
  since : Nat
  buffered : Bool
  deriving DecidableEq, Repr

/-- A round-out that a KFLUSH has requested (R245). -/
structure RoundOut where
  id : Nat
  uid : Nat
  core : Nat
  off : Nat
  deriving DecidableEq, Repr

/-- A row copy or zero whose claim is performed (R300), with the source row once it has been read: none inside for a poisoned word. -/
structure RowOp where
  id : Nat
  uid : Nat
  tid : Nat
  tenant : Nat
  src : Option Nat
  dst : Nat
  data : Option (List (Option Word))
  deriving DecidableEq, Repr

/-- A link channel with words in it or open (R133): its ends by placement, its words, and the state of its overflow ring: where its
words lie, and the virtual address of the first. -/
structure Channel where
  src : Nat
  dst : Nat
  words : List Word
  ringPa : List Nat            -- physical addresses of the ring's words
  ringVa : Nat
  ringHead : Nat
  ringLen : Nat
  deriving DecidableEq, Repr

/-- A store to the host window or to a peer window whose coherence point is not reached (R111). -/
structure Outward where
  id : Nat
  uid : Option Nat
  queue : Option (Nat × Nat)
  pa : Nat
  size : Nat
  val : Word
  deriving DecidableEq, Repr

/-- What a stopped or waiting consumer does (R281, R284, R285). -/
inductive ConsWait where
  | running                    -- its next record, if any, is posted or being looked at
  | wake                       -- cur = WAKE
  | seq                        -- a mismatched SEQ
  | present (pa : Nat)         -- a mode-0 WAIT on its word
  | poll                       -- a mode-1 WAIT
  | stopped
  deriving DecidableEq, Repr

/-- A record that a consumer has accepted (R281): its kind, and the words of its slot read so far, by number. -/
structure Accepted where
  kind : Nat
  words : List (Nat × Word)
  deriving DecidableEq, Repr

/-- A queue consumer (R281): its cursor, its wait, its error (R286), and what its SIGNAL waits for: seeded tasks and
transfers not complete (R284). -/
structure Consumer where
  cur : Nat
  wait : ConsWait
  err : Nat
  cause : Nat
  seq : Nat
  tasks : List (Nat × Nat)     -- SEQ of a LAUNCH and seeded tasks not completed
  copies : List Nat            -- serials of transfers
  order : Nat                  -- MODEL: the order in which consumers stopped
  step : Nat                   -- MODEL: how far the present record has come
  accepted : List Accepted     -- the records from the cursor on that it has accepted (R281)
  result : Word                -- MODEL: what its FOLIO record has still to store (R282)
  deriving DecidableEq, Repr

def Consumer.start : Consumer :=
  { cur := 0, wait := .wake, err := 0, cause := 0, seq := 0, tasks := [], copies := [], order := 0, step := 0, accepted := [], result := 0 }

/-- A command queue (R279, R286). -/
structure Queue where
  tenant : Nat
  descVa : Nat
  words : List Word            -- the descriptor as read at creation
  wake : Word
  prog : Vector Word 4
  cons : Vector Consumer 4
  out : Bool                   -- switched out (R288)
  due : Bool                   -- a handler dispatch is due (R289)
  late : Bool                  -- it has found its standby context busy (R289)
  deriving DecidableEq, Repr

inductive CurfewPhase where
  | armed | stopped | saved | restoring
  deriving DecidableEq, Repr

/-- An armed or running curfew (R262). -/
structure Curfew where
  id : Nat
  t : Nat
  cores : List Nat
  out : Nat
  inn : Nat
  policy : Nat
  stby : Bool
  statusPa : Option Nat        -- the status word of SWAT's descriptor; none for a curfew of the firmware (R274, R306)
  phase : CurfewPhase
  withdrawn : List Access      -- the waiters that its stop withdrew (R264)
  bad : Bool                   -- the save met a poisoned or unwritable word (R263)
  deriving DecidableEq, Repr

/-- The state of one bank's page policy (R298): the open row, the cycle of its last access, and the timer period in effect: a write of
PGIDLE takes effect at the bank's next access. -/
structure Bank where
  openRow : Option Nat
  last : Nat
  period : BitVec 12
  deriving DecidableEq, Repr

/-- A link lane's margins and its repair (R303, R304). -/
structure Lane where
  reg : BitVec 33
  retraining : Bool
  spare : Bool                 -- a spare lane is mapped in its place
  deriving DecidableEq, Repr

/-- An entry of a Bynus port's ingress map (R297). -/
structure Ingress where
  port : Nat
  off : Nat
  len : Nat
  base : Nat
  tenant : Nat
  deriving DecidableEq, Repr

/-- A reply of the management mailbox (R278). -/
structure Reply where
  opcode : Nat
  code : Nat
  out : List Word
  deriving DecidableEq, Repr

/-- A march test of a core under way (R476): the physical address of its summary word, the first free repair entry when it began, and
the cycle in which the firmware's LD.f of the summary word times out. -/
structure March where
  core : Nat
  pa : Nat
  entries : Nat
  till : Nat
  deriving DecidableEq, Repr

/-- A core that the firmware is retiring (R14, R305): the curfew on its tenants, none where it has none, the cores of that curfew and its
save area. -/
structure Retiring where
  core : Nat
  curfew : Option Nat
  cores : List Nat
  area : Nat
  deriving DecidableEq, Repr

/-- A word's tags (R68): P, W, poison, and what its error code will find. DRAM has one code for a granule (R301): it stands with the
granule's first word. -/
structure Tag where
  p : Bool
  w : Bool
  poison : Bool
  ecc : Ecc
  deriving DecidableEq, Repr

/-- P = 1, W = 0, no poison: the state the boot scrub leaves (R68), and what an unlisted word has. -/
def Tag.scrubbed : Tag := { p := true, w := false, poison := false, ecc := .ok }

/-- A checkpoint in the host's memory (R306): the host ranges that CKPTDESC named, the DRAM data and the tag map, the save areas with their
cores, and the completion record at the first range: a free value. -/
structure Checkpoint where
  ranges : List (Word × Word)
  data : List Host.Cell
  tags : List (Nat × Tag)
  areas : List (Nat × List Nat)
  completion : Word
  deriving DecidableEq, Repr

/-- What the firmware and the host interface hold (R275-R278, R294-R296, R306-R309). -/
structure Front where
  flashImage : Option (List Byte) -- the firmware image loaded last (R276); none: the image as shipped
  flashTable : Option (List Byte) -- the configuration table loaded last; none: the table as shipped
  imageGood : Bool             -- the firmware image verified (R276)
  tableGood : Bool             -- the configuration table verified
  booted : Bool                -- step 6 of the reset sequence is done (R309)
  columns : List (Nat × Nat)   -- curator columns: stack and grid column (R275)
  roles : List Byte            -- the role map
  classes : List (BitVec 2)    -- interleave class of each frame group (R90)
  matrices : List (List Word)  -- XOR hash matrices, by class (R91)
  minorMin : Nat               -- lowest firmware minor level the table accepts
  minor : BitVec 8             -- firmware minor level (FEAT0)
  absent : List Nat            -- logical cores reported absent (R14)
  failed : List Nat            -- logical cores that the firmware has marked failed (R476)
  physical : List (Nat × Nat)  -- the logical-to-physical core table, where a spare stands in (R14)
  retired : List Nat           -- physical cores that have been retired (R14)
  marches : List March         -- R476
  retiring : List Retiring     -- R305
  owned : List Nat             -- the ownership map: host-owned 64 KiB physical pages (R96)
  replies : List Reply         -- newest first
  mboxControl : BitVec 32      -- the mailbox registers of BAR0 (R296): control,
  mboxCommand : Word           -- command,
  mboxStatus : Word            -- status,
  mboxBackground : Word        -- and background command status
  payload : List Host.Cell     -- the mailbox payload (R296), by offset
  msixTable : List (Nat × Word) -- the MSI-X table, by 64-bit word (R296); an unlisted word is 0, or the mask bit in word 1 of an entry
  msixPending : List Nat       -- the MSI-X entries whose pending bit is set
  hostData : Option Word       -- what the host's last BAR0 or BAR2 read returned
  doe : List (List Word × List Word) -- exchanges of the DOE mailbox (R20, R278, R294), newest first: request and answer
  irqs : List (Nat × Nat)      -- the MSI-X vectors that tenants have been sent: tenant and vector, newest first
  curatorIrqs : Nat            -- internal interrupts of the curator cores (R291, R304)
  poisonReads : Nat            -- R295
  droppedWrites : Nat
  readData : Option Word       -- the data of the last host read, none when it was marked poisoned
  snoops : Nat                 -- snoops answered RspIHitI (R294)
  peerDrops : Nat              -- R287, R297
  ingress : List Ingress
  peerData : Option Word       -- the answer to the last peer request, none when it was refused
  pwrlim : Word                -- R307
  ckptdesc : Word              -- R306
  suppressDusk : Bool          -- R308
  suppressDay : Bool
  tripped : Bool               -- thermal trip: all issue stopped (R308)
  drain : Nat                  -- checkpoint drain (R306): 0 none, 1 the curfews of step 1, 4 complete
  areas : List (Nat × List Nat) -- its save areas and their cores
  checkpoint : Option Checkpoint -- the image that the host's memory holds (R306)
  margins : List (Nat × Lane)  -- by link × 512 + lane (R303)
  directory : List (Nat × Word) -- the link directory (R303): what the manual fixes of it; for the rest see log entry 56
  halfWidth : List Nat         -- links at half width (R304)
  linkEvents : Nat
  pgidle : List (Nat × BitVec 12) -- PGIDLE entries other than 0x040 (R298)
  banks : List (Nat × Bank)
  unmatched : List (Nat × BitVec 48) -- by die × 256 + tenant (R322)
  skipped : List (Nat × BitVec 48)
  hotCounts : List (Nat × BitVec 8) -- lookup counts of the hot-row stores, by stack × 2^16 + class of the hash (R238)
  hotLookups : List (Nat × Nat)
  hotRefused : Nat             -- HOT tables for which the watch tables had no entries (R229)
  ignoredRepairs : Nat         -- R305
  folioErrors : Nat            -- uncorrectable folio-store errors (R215)
  deriving DecidableEq, Repr

/-- The state that a curfew has saved (R267, R268), for what the manual gives no byte layout (log entry 20): the save area's base,
T, the cores, their contexts and units, and the scratchpad and accumulator ranges saved: core, offset and length. -/
structure SaveImage where
  base : Nat
  t : Nat
  cores : List Nat
  live : Bool                  -- it has not been switched in since it was saved
  threads : List Thread
  coreStates : List (Nat × Core)
  rows : List (Nat × Row)
  accesses : List Access       -- the packets that fell out (R265),
  withdrawn : List Access      -- and the waiters withdrawn (R264)
  channels : List Channel      -- of its threads' upstream ends
  gathers : List Gather
  sends : List Send
  spads : List (Nat × Nat × Nat)
  accs : List (Nat × Nat × Nat)
  deriving DecidableEq, Repr

/-- What comes from outside the cores (R278, R286, R294-R297, R301, R476): an access of the host to BAR0, a read of a wake register
through BAR2, a request to the DOE mailbox; the curator's setting of a port's ingress map; the firmware's start of a march test, its
retirement of a core, its dispatch of a firmware thread, and its restoring of a checkpoint (R306); an error in a stored word. -/
inductive Input where
  | bar0Read (off size : Nat)
  | bar0Write (off size : Nat) (v : Word)
  | bar2Read (off : Nat)
  | doe (request : List Word)
  | hostRead (pa : Nat)           -- CXL.mem accesses that had to wait (R300), and peer requests of 2^size bytes (R297)
  | hostWrite (pa : Nat) (v : Word)
  | peer (port off size : Nat) (write : Bool) (v : Word)
  | ingress (port : Nat) (ranges : List (Nat × Nat × Nat × Nat)) -- offset, length, physical base, tenant
  | march (core pa : Nat)
  | retire (core : Nat)
  | place (core n : Nat) (pc : Word) (g : List Word) -- the curator firmware places a thread in standby context n (R17, R48)
  | restoreCheckpoint
  | upset (pa : Nat) (ecc : Ecc)
  | upsetReg (uid n : Nat) (ecc : Ecc)
  | upsetContext (uid : Nat) (ecc : Ecc)
  | upsetFolio (folio off : Nat) (ecc : Ecc)
  | upsetDeque (core n : Nat) (ecc : Ecc)
  | upsetGang (tenant gang : Nat) (ecc : Ecc)
  deriving DecidableEq, Repr

/-- A step that a unit has posted: it may happen from cycle `at_` on. -/
structure Post where
  at_ : Nat
  ev : Instr
  deriving DecidableEq, Repr

/-- MODEL: a trace record on its way to its ring (R318). -/
structure TraceRec where
  core : Nat
  head : Word
  stamp : Word
  pc : Word
  val : Word
  deriving DecidableEq, Repr

/-- MODEL: a plain store of a unit that is still to be performed, and the tenant for which its watch event counts (R83, R84). -/
structure UnitStore where
  pa : Nat
  val : Word
  tenant : Nat
  deriving DecidableEq, Repr

/-- The state of the module. -/
structure State where
  now : Nat                    -- the global timestamp (R15)
  mem : List Host.Cell         -- bytes by physical address; an unlisted byte is 0 (R68)
  tags : List (Nat × Tag)      -- tags by word address; an unlisted word has `Tag.scrubbed`
  threads : List Thread        -- contexts that hold a thread, and the reserve banks; an unlisted slot is free
  cores : List (Nat × Core)    -- cores that differ from `Core.reset`
  rows : List (Nat × Row)      -- matrix rows that differ from `Row.reset`
  tenants : List (Nat × Tenant) -- live tenants; tenant 0 is the curator (R473)
  queues : List (Nat × Queue)  -- live queues (R279)
  folios : List (Nat × Folio)  -- folio table entries that are not free (R210)
  folioChecks : List (Nat × BitVec 12) -- the last check value of each folio table index (R212)
  watch : List WatchEntry      -- the watch tables (R81)
  accesses : List Access
  results : List Result
  records : List FaultRec      -- fault records not yet sent
  curatorRecords : Nat         -- records put in the curator's fault queue so far (R291)
  devMsgs : List (Nat × Msg)   -- device messages waiting for room: core and message (R192)
  channels : List Channel
  gathers : List Gather
  hotRows : List HotRow
  sends : List Send
  roundOuts : List RoundOut
  rowOps : List RowOp
  outward : List Outward
  peerStores : List (Nat × Nat × Word) -- stores that left through the peer windows: address, size, data (newest first)
  curfews : List Curfew        -- in arming order
  images : List SaveImage
  front : Front
  cur : Nat                    -- MODEL: the serial number of the thread that issues
  nextUid : Nat                -- MODEL
  nextId : Nat                 -- MODEL
  inputs : List Input          -- what comes from outside the cores, oldest first
  raised : List (Nat × Nat)    -- MODEL: words with W = 1 that a unit has written in this step, and the tenant the event counts for (R82, R84)
  unitStores : List UnitStore  -- MODEL: plain stores of units, performed as soon as they may be (R83)
  traced : List TraceRec       -- MODEL: trace records of this step, oldest first (R317)
  gangNews : List (Nat × Option Word) -- MODEL: switched-out members of gangs that are to be released, or broken with this gang's ID (R389)
  pending : List Post          -- MODEL: steps the units have posted, oldest first
  sched : List (Nat × Nat)     -- MODEL: which step comes next, and after how many cycles
  picks : List Nat             -- MODEL: which member of a permitted set is taken (R5)
  freeCtr : Nat                -- MODEL: free values taken so far
  deriving DecidableEq, Repr

/-- How a step can end without a next state. -/
inductive Fault where
  /-- An instruction word is to be executed and `cur` names no thread: the manual gives no instruction without its
  thread. Raised by every meaning of an instruction word; no step of the machine reaches it. Safe. -/
  | noThread
  deriving DecidableEq, Repr

/-- Instructions without a meaning. -/
inductive Refusal where
  /-- The instruction has no meaning in the model yet. Raised only in Dispatch. Safe. -/
  | notModelled (mnemonic : String)
  deriving DecidableEq, Repr

/-- The tenant descriptor that stands for the curator, tenant 0: every core, the whole scratchpad, all 64 stream entries
and a noon limit of 508 (R473). ROOT is 0: the manual names no root table for tenant 0 at reset (log entry 3). -/
def curatorDesc : List Word :=
  [0, 0x000001FC01#64, 0, (256 <<< 9 ||| 64 <<< 24 : Nat), 0, 0, 0, 4] ++ List.replicate 20 (BitVec.allOnes 64) ++
    [0, 0, 0, 0]

/-- The entries of the link directory that the manual fixes: links 0 and 1 are the CXL ports, links 2 to 9 the Bynus ports, each with an
end off the package (R303). -/
def portLinks : List (Nat × Word) :=
  (List.range 10).map fun l => (l, BitVec.ofNat 64 ((if l < 2 then 3 else 4) + 255 * 2 ^ 16))

/-- The firmware's and the host interface's state after reset: both verifications passed, Drupel's curator columns (R275),
PWRLIM 3600 (R307), no page host-owned (R96). -/
def Front.reset : Front :=
  { flashImage := none, flashTable := none, imageGood := true, tableGood := true, booted := false, columns := [(0, 0), (4, 0)], roles := List.replicate 64 0,
    classes := List.replicate 96 0,
    matrices := List.replicate 4 ((List.range 64).map fun i => (1#64 <<< i)),
    minorMin := 0, minor := 0, absent := [], failed := [], physical := [], retired := [], marches := [], retiring := [],
    owned := [], replies := [], mboxControl := 0, mboxCommand := 0, mboxStatus := 0, mboxBackground := 0, payload := [],
    msixTable := [], msixPending := [], hostData := none, doe := [], irqs := [], curatorIrqs := 0,
    poisonReads := 0, droppedWrites := 0, readData := none, snoops := 0, peerDrops := 0, ingress := [],
    peerData := none, pwrlim := 3600, ckptdesc := 0, suppressDusk := false, suppressDay := false, tripped := false,
    drain := 0, areas := [], checkpoint := none, margins := [], directory := portLinks, halfWidth := [], linkEvents := 0, pgidle := [], banks := [],
    unmatched := [], skipped := [], hotCounts := [], hotLookups := [], hotRefused := 0, ignoredRepairs := 0, folioErrors := 0 }

/-- The machine right after reset, after step 5 of R309 and before the firmware admits a tenant: every tagged word zero and
present (R68), every core in proving mode and full mode (R32, R61), every context free. The check value of each folio table index starts at 0,
the model's choice (log entry 81). -/
def State.reset : State :=
  { now := 0, mem := [], tags := [], threads := [], cores := [], rows := [],
    tenants := [(0, Tenant.ofDesc curatorDesc)], queues := [], folios := [], folioChecks := [], watch := [],
    accesses := [], results := [], records := [], curatorRecords := 0, devMsgs := [], channels := [], gathers := [],
    hotRows := [], sends := [], roundOuts := [], rowOps := [], outward := [], peerStores := [], curfews := [],
    images := [], front := Front.reset, cur := 0, nextUid := 1, nextId := 1, inputs := [], raised := [], unitStores := [], traced := [], gangNews := [], pending := [], sched := [], picks := [],
    freeCtr := 0 }

end Sys2Proof.Machine
end

