-- ==== Sys2Proof/Machine/Memory.lean ====
section
/-! DEFINITION. Memory by physical address: the bytes in one canonical form, the tags of tagged words, and the regions of
the physical address space (R68, R88). Everything wider than a byte is built here, so the byte order is decided once. -/

namespace Sys2Proof.Machine

/-- What an unlisted address reads as: the boot scrub leaves every tagged word zero (R68); for accumulator memory and the
host window see log entry 4. -/
def Memory.unlisted : Byte := 0

/-- The byte at address `a`. -/
def Memory.read : List Host.Cell → Nat → Byte
  | [], _ => Memory.unlisted
  | (k, v) :: t, a => if k = a then v else Memory.read t a

/-- Writes the byte at address `a`, keeping the canonical form. -/
def Memory.write : List Host.Cell → Nat → Byte → List Host.Cell
  | [], a, b => if b = Memory.unlisted then [] else [(a, b)]
  | (k, v) :: t, a, b =>
    if k < a then (k, v) :: Memory.write t a b
    else if k = a then (if b = Memory.unlisted then t else (a, b) :: t)
    else if b = Memory.unlisted then (k, v) :: t else (a, b) :: (k, v) :: t

/-- The canonical form, from a lower bound on: addresses strictly rising, no entry equal to an unlisted byte. -/
def Memory.wfFrom : Nat → List Host.Cell → Bool
  | _, [] => true
  | lo, (k, v) :: t => decide (lo ≤ k) && decide (v ≠ Memory.unlisted) && Memory.wfFrom (k + 1) t

/-- The canonical form of a memory. -/
def Memory.wf (m : List Host.Cell) : Bool := Memory.wfFrom 0 m

/-- Writes the bytes `bs` from address `a` on. -/
def Memory.writeBytes (m : List Host.Cell) (a : Nat) : List Byte → List Host.Cell
  | [] => m
  | b :: bs => Memory.writeBytes (Memory.write m a b) (a + 1) bs

/-- The `n` bytes from address `a` on. -/
def Memory.readBytes (m : List Host.Cell) (a : Nat) : Nat → List Byte
  | 0 => []
  | n + 1 => Memory.read m a :: Memory.readBytes m (a + 1) n

/-- The tags of the word at word address `a` (a multiple of 8). -/
def tagsAt (t : List (Nat × Tag)) (a : Nat) : Tag := lookupD t a Tag.scrubbed

/-- Sets the tags of a word; a word that is as the boot scrub left it is not listed. -/
def setTagsAt (t : List (Nat × Tag)) (a : Nat) (v : Tag) : List (Nat × Tag) :=
  if v = Tag.scrubbed then erase t a else insert t a v

/-- The word address of a byte address. -/
def wordAddr (a : Nat) : Nat := a / 8 * 8

/-- The byte of physical memory at `pa`. -/
def State.byte (s : State) (pa : Nat) : Byte := Memory.read s.mem pa

/-- The `n`-byte little-endian number at `pa`. -/
def State.read (s : State) (pa n : Nat) : Nat := ofBytes (Memory.readBytes s.mem pa n)

/-- The word at `pa`. -/
def State.word (s : State) (pa : Nat) : Word := BitVec.ofNat 64 (s.read pa 8)

/-- Writes an `n`-byte little-endian number at `pa`. -/
def State.store (s : State) (pa n x : Nat) : State := { s with mem := Memory.writeBytes s.mem pa (toBytes n x) }

/-- Writes a word. -/
def State.storeWord (s : State) (pa : Nat) (w : Word) : State := s.store pa 8 w.toNat

/-- The tags of the word that holds the byte at `pa`. -/
def State.tag (s : State) (pa : Nat) : Tag := tagsAt s.tags (wordAddr pa)

/-- Sets the tags of the word that holds the byte at `pa`. -/
def State.setTag (s : State) (pa : Nat) (t : Tag) : State := { s with tags := setTagsAt s.tags (wordAddr pa) t }

/-- Sets P of the word at `pa`. -/
def State.setP (s : State) (pa : Nat) (p : Bool) : State := s.setTag pa { s.tag pa with p := p }

/-- Leaves every word from `lo` to `hi - 1` zero with P = 1 and W = 0. -/
def State.scrubRange (s : State) (lo hi : Nat) : State :=
  { s with mem := eraseRange s.mem lo hi, tags := eraseRange s.tags lo hi }

/-- The regions of R88. -/
inductive Region where
  | dram
  | spad (core off : Nat)
  | acc (core off : Nat)
  | wake (queue off : Nat)
  | host
  | peer (port off : Nat)
  | system (off : Nat)
  | hole
  deriving DecidableEq, Repr

/-- The region that holds a physical address (R88, R297). -/
def regionOf (pa : Nat) : Region :=
  if pa < 0x00C000000000 then .dram
  else if 0x010000000000 ≤ pa ∧ pa < 0x010050000000 then
    .spad ((pa - 0x010000000000) / Config.spadBytes) ((pa - 0x010000000000) % Config.spadBytes)
  else if 0x011000000000 ≤ pa ∧ pa < 0x01100C000000 then
    .acc (Config.firstArrayCore + (pa - 0x011000000000) / Config.accBytes) ((pa - 0x011000000000) % Config.accBytes)
  else if 0x012000000000 ≤ pa ∧ pa < 0x012000040000 then .wake ((pa - 0x012000000000) / 64) ((pa - 0x012000000000) % 64)
  else if 0x014000000000 ≤ pa ∧ pa < 0x018000000000 then .host
  else if 0x018000000000 ≤ pa ∧ pa < 0x01F000000000 then
    .peer ((pa - 0x018000000000) / 0x0E00000000) ((pa - 0x018000000000) % 0x0E00000000)
  else if 0x01F000000000 ≤ pa ∧ pa < 0x020000000000 then .system (pa - 0x01F000000000)
  else .hole

/-- The physical address of scratchpad byte `off` of core `c` (R88). -/
def spadPa (c off : Nat) : Nat := 0x010000000000 + c * Config.spadBytes + off

/-- The physical address of accumulator byte `off` of array core `c` (R88). -/
def accPa (c off : Nat) : Nat := 0x011000000000 + (c - Config.firstArrayCore) * Config.accBytes + off

/-- The curator's fault queue in system space (R291). -/
def curatorRing : Nat := 0x01F000600000

/-- A word is tagged in DRAM, in a scratchpad and in the curator fault queue (R68). -/
def tagged (pa : Nat) : Bool :=
  match regionOf pa with
  | .dram => true
  | .spad _ _ => true
  | .system off => decide (0x600000 ≤ off) && decide (off < 0x620000)
  | _ => false

/-- A tagged word that is poisoned. -/
def State.poisoned (s : State) (pa : Nat) : Bool := tagged pa && (s.tag pa).poison

/-- Where the error code that covers the word at `pa` stands: a granule has one code, kept with its first word (R301). -/
def eccAddr (pa : Nat) : Nat :=
  match regionOf pa with
  | .dram => pa / 64 * 64
  | _ => wordAddr pa

/-- What the error code that covers the word at `pa` finds (R301). -/
def State.eccOf (s : State) (pa : Nat) : Ecc := (s.tag (eccAddr pa)).ecc

/-- What the error code that covers the word at `pa` finds from now on. -/
def State.setEcc (s : State) (pa : Nat) (e : Ecc) : State := s.setTag (eccAddr pa) { s.tag (eccAddr pa) with ecc := e }

/-- A read of the word finds no data to return: it is poisoned, or its code finds an uncorrectable error (R85). -/
def State.unreadable (s : State) (pa : Nat) : Bool := s.poisoned pa || (tagged pa && s.eccOf pa == .double)

/-- Poisons the word, or in DRAM the whole granule, at `pa` (R85). The waiters of the words are removed by the caller. -/
def State.poisonAt (s : State) (pa : Nat) : State :=
  match regionOf pa with
  | .dram =>
    iterate 8 0 (fun i t => let a := pa / 64 * 64 + 8 * i
                            t.setTag a { t.tag a with poison := true, ecc := .ok }) s
  | _ => s.setTag pa { s.tag pa with poison := true, ecc := .ok }

end Sys2Proof.Machine
end

