-- ==== Sys2Proof/Machine/Lookup.lean ====
section
/-! DEFINITION. Reading and writing the parts of the state: threads, registers, cores, tenants and their descriptors, the
plain-data sources of serial numbers, choices and free values, and the geometry of the part (R10-R13, R99, R127). -/

namespace Sys2Proof.Machine

/-- The logical core of a thread ID (R13). -/
def tidCore (tid : Nat) : Nat := tid / 512
/-- The context slot of a thread ID (R13). -/
def tidSlot (tid : Nat) : Nat := tid % 512
def Thread.core (t : Thread) : Nat := tidCore t.tid
def Thread.slot (t : Thread) : Nat := tidSlot t.tid

/-- The thread of a serial number. -/
def State.thread? (s : State) (uid : Nat) : Option Thread := s.threads.find? fun t => t.uid == uid

/-- The thread resident in the slot that a thread ID names. -/
def State.occupant? (s : State) (tid : Nat) : Option Thread := s.threads.find? fun t => t.tid == tid && !t.banked

/-- The thread that holds a thread ID, resident or in the reserve bank. -/
def State.holder? (s : State) (tid : Nat) : Option Thread :=
  match s.occupant? tid with
  | some t => some t
  | none => s.threads.find? fun t => t.tid == tid

def State.setThread (s : State) (t : Thread) : State :=
  { s with threads := s.threads.map fun x => if x.uid = t.uid then t else x }

def State.modThread (s : State) (uid : Nat) (f : Thread → Thread) : State :=
  { s with threads := s.threads.map fun x => if x.uid = uid then f x else x }

def State.dropThread (s : State) (uid : Nat) : State := { s with threads := s.threads.filter fun t => !(t.uid == uid) }

def State.core (s : State) (c : Nat) : Core := lookupD s.cores c Core.reset
def State.setCore (s : State) (c : Nat) (v : Core) : State := { s with cores := insert s.cores c v }
def State.modCore (s : State) (c : Nat) (f : Core → Core) : State := s.setCore c (f (s.core c))
def State.row (s : State) (w : Nat) : Row := lookupD s.rows w Row.reset
def State.setRow (s : State) (w : Nat) (v : Row) : State := { s with rows := insert s.rows w v }
def State.modFront (s : State) (f : Front → Front) : State := { s with front := f s.front }
def State.folio? (s : State) (i : Nat) : Option Folio := lookup? s.folios i
def State.setFolio (s : State) (i : Nat) (f : Folio) : State := { s with folios := insert s.folios i f }
def State.tenant? (s : State) (t : Nat) : Option Tenant := lookup? s.tenants t
/-- The tenant's entry; a tenant that is not live has an empty descriptor. -/
def State.tenant (s : State) (t : Nat) : Tenant := (s.tenant? t).getD (Tenant.ofDesc [])
def State.setTenant (s : State) (t : Nat) (v : Tenant) : State := { s with tenants := insert s.tenants t v }
def State.modTenant (s : State) (t : Nat) (f : Tenant → Tenant) : State :=
  match s.tenant? t with
  | some v => s.setTenant t (f v)
  | none => s
def State.queue? (s : State) (q : Nat) : Option Queue := lookup? s.queues q
def State.setQueue (s : State) (q : Nat) (v : Queue) : State := { s with queues := insert s.queues q v }

/-! Fields of a tenant descriptor (R272). -/

def Tenant.field (t : Tenant) (w lo len : Nat) : Nat := fieldOf (t.desc.getD w 0) lo len
def Tenant.root (t : Tenant) : Nat := t.field 0 12 36 * 4096
def Tenant.weight (t : Tenant) : Nat := t.field 1 0 8
def Tenant.noonLimit (t : Tenant) : Nat := if t.desc.isEmpty then 0 else t.field 1 8 8
def Tenant.waitQuota (t : Tenant) : Nat := t.field 1 16 13
def Tenant.folioQuota (t : Tenant) : Nat := t.field 2 0 32
def Tenant.gangQuota (t : Tenant) : Nat := t.field 2 32 13
/-- First byte of the scratchpad allotment. -/
def Tenant.spadLo (t : Tenant) : Nat := t.field 3 0 9 * 4096
/-- End of the scratchpad allotment. -/
def Tenant.spadHi (t : Tenant) : Nat := t.spadLo + t.field 3 9 9 * 4096
def Tenant.streamBase (t : Tenant) : Nat := t.field 3 18 6
def Tenant.streamCount (t : Tenant) : Nat := t.field 3 24 7
def Tenant.saveMask (t : Tenant) : Nat := t.field 3 32 2
/-- The link-stall limit: 0 means 2^20 cycles. -/
def Tenant.linkLimit (t : Tenant) : Nat := if t.field 4 0 48 = 0 then 2 ^ 20 else t.field 4 0 48
def Tenant.overflowBase (t : Tenant) : Nat := t.field 5 0 52
def Tenant.faultBase (t : Tenant) : Nat := t.field 6 0 52
def Tenant.faultLog (t : Tenant) : Nat := t.field 7 0 5
def Tenant.faultVector (t : Tenant) : Nat := t.field 7 8 3
def Tenant.vectors (t : Tenant) : Nat := t.field 7 16 4
/-- The tenant's core set holds core `c`. -/
def Tenant.hasCore (t : Tenant) (c : Nat) : Bool := decide (c < Config.cores) && (t.desc.getD (8 + c / 64) 0).toNat.testBit (c % 64)
def Tenant.keyBase (t : Tenant) : Nat := t.field 28 0 12
def Tenant.keyCount (t : Tenant) : Nat := t.field 28 16 12
/-- A key slot assigned to the tenant. -/
def Tenant.hasKey (t : Tenant) (k : Nat) : Bool := decide (t.keyBase ≤ k) && decide (k < t.keyBase + t.keyCount)

/-- The base and the size of the heap (R97); a size of 0 is no heap. -/
def Tenant.heapBase (t : Tenant) : Nat := fieldOf t.heapdesc 30 22 * 2 ^ 30
def Tenant.arenaSize (t : Tenant) : Nat := fieldOf t.heapdesc 0 12 * 0x4000000

/-- The address lies in the metadata head, the first 1/32, of one of the eight arenas (R97, R98). -/
def Tenant.inHead (t : Tenant) (va : Nat) : Bool :=
  decide (t.arenaSize ≠ 0) && decide (t.heapBase ≤ va) && decide (va < t.heapBase + 8 * t.arenaSize) &&
    decide ((va - t.heapBase) % t.arenaSize < t.arenaSize / 32)

/-! Serial numbers, choices and free values. -/

/-- The next serial number. -/
def State.fresh (s : State) : Nat × State := (s.nextId, { s with nextId := s.nextId + 1 })

/-- One member of a permitted set of `n`, as the plain data `picks` says (R5); 0 once the list is used up. -/
def State.pick (s : State) (n : Nat) : Nat × State :=
  match s.picks with
  | [] => (0, s)
  | p :: ps => (p % n, { s with picks := ps })

/-- The next free value. -/
def State.free (s : State) : Word × State := (Config.freeWord s.freeCtr, { s with freeCtr := s.freeCtr + 1 })

/-- Posts a unit's step for cycle `at_`. -/
def State.post (s : State) (at_ : Nat) (ev : Instr) : State := { s with pending := s.pending ++ [{ at_ := at_, ev := ev }] }

/-- Posts a unit's step for the present cycle. -/
def State.postNow (s : State) (ev : Instr) : State := s.post s.now ev

/-- The withdrawal of a waiter whose limit of cycles ends at `at_`: no earlier, and at most 256 cycles later (R5, R77). -/
def State.postLimit (s : State) (at_ id : Nat) : State :=
  let (late, s) := s.pick 257
  s.post (max s.now (at_ + late)) (.waitTimeOut id)

/-- Is the step already posted? -/
def State.posted (s : State) (ev : Instr) : Bool := s.pending.any fun p => p.ev == ev

/-! Context states. -/

/-- The states in which results are written into the context and take effect when the thread returns (R48). -/
def Status.suspended : Status → Bool
  | .trappedStopped | .revoked | .saving | .restoring => true
  | _ => false

/-- The state the thread is in, or returns to. -/
def Thread.stat (t : Thread) : Status := if t.status.suspended then t.recorded else t.status

/-- Changes the state the thread is in, or returns to. -/
def Thread.setStat (t : Thread) (st : Status) : Thread :=
  if t.status.suspended then { t with recorded := st } else { t with status := st }

/-- Makes a waiting thread ready (R48). -/
def Thread.wake (t : Thread) : Thread := { t.setStat .ready with await := .nothing }

/-- Blocks a thread (R47): the instruction does not issue and has no effect. -/
def Thread.block (t : Thread) (a : Await) : Thread := { t.setStat .blockedRegister with await := a }

/-! Registers. -/

/-- General register `n` of a context. -/
def Thread.reg (t : Thread) (n : Nat) : Reg := (t.regs[n]?).getD Reg.zero

def Thread.setReg (t : Thread) (n : Nat) (r : Reg) : Thread := { t with regs := t.regs.setIfInBounds n r }

/-- Writes a register and sets it full (R25). -/
def Thread.write (t : Thread) (n : Nat) (v : Word) : Thread := t.setReg n { val := v, full := true, due := false, ecc := .ok }

/-- Sets a register empty for a long-latency result (R53); it keeps its old value. -/
def Thread.markDue (t : Thread) (n : Nat) : Thread := t.setReg n { t.reg n with full := false, due := true }

/-- Makes a register full again with the value it held: the access that had emptied it has had no effect (R57). -/
def Thread.unmarkDue (t : Thread) (n : Nat) : Thread := t.setReg n { t.reg n with full := true, due := false }

/-- The count of general registers a context has on the core (R61). -/
def Core.regCount (c : Core) : Nat := if c.deep then 48 else 24

/-- The contexts of the core (R46). -/
def Core.slots (c : Core) : Nat := if c.deep then 256 else 512

/-- The slot is one of the four standby contexts (R17). -/
def Core.standby (c : Core) (slot : Nat) : Bool := decide (c.slots - 4 ≤ slot) && decide (slot < c.slots)

/-- The slot of standby context `i` (R60). -/
def Core.standbySlot (c : Core) (i : Nat) : Nat := c.slots - 4 + i

/-- Entries of the reserve register bank (R139). -/
def Core.bankSize (c : Core) : Nat := if c.deep then 64 else 128

def State.isStandby (s : State) (t : Thread) : Bool := (s.core t.core).standby t.slot

/-- The curfew that has stopped a core and is not over. -/
def State.curfewOf (s : State) (c : Nat) : Option Curfew := s.curfews.find? fun x => x.phase != .armed && x.cores.contains c

/-- The thread is stopped by a curfew: its core is, and it holds a pool context, or with STBY a standby context at another level than
curator (R264). -/
def State.frozen (s : State) (t : Thread) : Bool :=
  (s.core t.core).stopped &&
    (!s.isStandby t || (t.level != .curator && ((s.curfewOf t.core).map (·.stby)) == some true))

/-- The core is switched out, and the thread is a tenant's: it does not issue (R485). -/
def State.barred (s : State) (t : Thread) : Bool :=
  (s.core t.core).switched.isSome && t.tenant != 0 && t.level != .curator

/-- The save engine moves a context out for a curfew, and it remembers the state it found (R48). -/
def Thread.toSaving (t : Thread) : Thread :=
  if t.status = .saving then t else { t with away := t.status, recorded := t.stat, status := .saving }

/-- A context that the save engine has moved in returns to its recorded state (R48). -/
def Thread.returned (t : Thread) : Thread := { t with status := if t.away.suspended then t.away else t.recorded }

/-- A thread in a standby context is treated as noon (R51). -/
def State.classOf (s : State) (t : Thread) : Cls := if s.isStandby t then .noon else t.cls

def Cls.num : Cls → Nat
  | .noon => 0
  | .day => 1
  | .dusk => 2
def Cls.ofNum : Nat → Option Cls
  | 0 => some .noon
  | 1 => some .day
  | 2 => some .dusk
  | _ => none
def Level.num : Level → Nat
  | .user => 0
  | .runtime => 1
  | .curator => 2
def Level.ofNum (n : Nat) : Level := if n = 0 then .user else if n = 1 then .runtime else .curator
def Status.num : Status → Nat
  | .free => 0
  | .ready => 1
  | .blockedRegister => 2
  | .parkedMemory => 3
  | .parkedMessage => 4
  | .heldFault => 5
  | .trappedStopped => 6
  | .revoked => 7
  | .saving => 8
  | .restoring => 9
def Status.ofNum (n : Nat) : Status :=
  [.free, .ready, .blockedRegister, .parkedMemory, .parkedMessage, .heldFault, .trappedStopped, .revoked, .saving,
    .restoring].getD n .free

/-! Geometry. -/

/-- An array core (R12). -/
def isArray (c : Nat) : Bool := decide (Config.firstArrayCore ≤ c)
/-- The global matrix row of an array core (R12). -/
def rowOf (c : Nat) : Nat := (c - 512) / 16
/-- The slot of an array core within its row (R12). -/
def rowSlot (c : Nat) : Nat := (c - 512) % 16
/-- The array core in a slot of a row. -/
def rowCore (w j : Nat) : Nat := 512 + 16 * w + j
/-- The die of a core: 0-7 stack base dies, 8-11 matrix dies (R303). -/
def dieOf (c : Nat) : Nat := if c < 512 then c / 64 else 8 + (c - 512) / 192
/-- The timestamp as core `c` reads it, on its die (R15). -/
def State.time (s : State) (c : Nat) : Word := w64 (s.now + (Config.timeSkew (dieOf c)).val)
def gridRow (c : Nat) : Nat := c % 64 / 8
def gridCol (c : Nat) : Nat := c % 64 % 8
/-- The home stack of a core (R99). -/
def homeStack (c : Nat) : Nat := if c < 512 then c / 64 else 2 * ((c - 512) / 192) + rowOf c % 2
/-- The distance between stacks (R99). -/
def stackDistance (s t : Nat) : Nat := absDiff (s % 4) (t % 4) + absDiff (s / 4) (t / 4)
/-- The stacks by their distance from a home stack, ties to the lower number (R99). -/
def homeOrder (h : Nat) : List Nat :=
  (List.range 5).flatMap fun d => (List.range 8).filter fun s => decide (stackDistance h s = d)
/-- The fabric distance between two cores (R127). -/
def fabricDistance (a b : Nat) : Nat :=
  if dieOf a = dieOf b then
    if a < 512 then absDiff (gridRow a) (gridRow b) + absDiff (gridCol a) (gridCol b)
    else absDiff (rowOf a) (rowOf b) + absDiff (rowSlot a) (rowSlot b)
  else 16 * (1 + stackDistance (homeStack a) (homeStack b))

/-- The core lies in a curator column (R275). -/
def State.curatorCore (s : State) (c : Nat) : Bool :=
  decide (c < 512) && s.front.columns.any fun e => decide (e.1 = c / 64) && decide (e.2 = gridCol c)

/-- The logical core is reported present (R14). -/
def State.present (s : State) (c : Nat) : Bool := decide (c < Config.cores) && !s.front.absent.contains c

end Sys2Proof.Machine
end

