-- ==== Sys2Proof/Machine/Trace.lean ====
section
/-! DEFINITION. Trace records and performance counters (R317-R320), and the count of tenants' watch and lookup losses
(R322). -/

namespace Sys2Proof.Machine

/-- A plain store of a word by a unit, whose watch event counts for `tenant` (R84). It is performed at the end of the step in which the
unit makes it, or as soon afterwards as the word may be written (R76, R83, R300: `State.flushStores`). -/
def State.storePlain (s : State) (tenant pa : Nat) (w : Word) : State :=
  { s with unitStores := s.unitStores ++ [{ pa := pa, val := w, tenant := tenant }] }

/-- The word that a unit is still to store at `pa`. -/
def State.storeDue (s : State) (pa : Nat) : Option Word := ((s.unitStores.filter fun x => x.pa == pa).getLast?).map (·.val)

/-- The ring length that TRCCTL gives, none when tracing is off (R317). -/
def Core.ringLength (c : Core) : Option Nat :=
  let l := fieldOf c.trcctl 0 5
  if 10 ≤ l ∧ l ≤ 20 then some (2 ^ l) else none

/-- Records of this kind are enabled. -/
def Core.traces (c : Core) (kind : Nat) : Bool := c.ringLength.isSome && c.trcctl.toNat.testBit (8 + kind)

/-- The sampling period in cycles (R317). -/
def Core.samplePeriod (c : Core) : Option Nat :=
  let p := fieldOf c.trcctl 16 5
  if 8 ≤ p ∧ p ≤ 24 then some (2 ^ p) else none

/-- Word 0 of a trace record (R318). -/
def State.traceHead (s : State) (kind : Nat) (t : Option Thread) (tenant : Nat) : Word :=
  match t with
  | some t => w64 (t.tid + t.tenant * 2 ^ 20 + kind * 2 ^ 28 + t.cls.num * 2 ^ 32 + bitNat (s.isStandby t) * 2 ^ 34)
  | none => w64 (tenant * 2 ^ 20 + kind * 2 ^ 28 + (if kind = 0 then 2 ^ 35 else 0))

/-- Makes a trace record with word 0 `head`, with the present timestamp, when its kind is enabled. The core writes it at the end of the
step, or drops it (R317: `State.writeTrace`). -/
def State.traceRaw (s : State) (c kind : Nat) (head pc w3 : Word) : State :=
  if (s.core c).traces kind then { s with traced := s.traced ++ [{ core := c, head := head, stamp := s.time c, pc := pc, val := w3 }] } else s

/-- Makes a trace record of a thread, or of none and then of tenant `tenant`. -/
def State.trace (s : State) (c kind : Nat) (t : Option Thread) (pc w3 : Word) (tenant : Nat := 0) : State :=
  s.traceRaw c kind (s.traceHead kind t tenant) pc w3

/-- Counter `n` of the core counts event `ev`, an event of a thread of this tenant and class, or of none (R319). -/
def Core.counts (c : Core) (n ev : Nat) (tenant : Option Nat) (cls : Nat) : Bool :=
  let sel := (c.pmsel[n]?).getD 0
  let ten := fieldOf sel 8 8
  sel.toNat.testBit 24 && decide (fieldOf sel 0 8 = ev) &&
    match tenant with
    | none => true
    | some t => (decide (ten = 0) || decide (ten = t)) && sel.toNat.testBit (16 + cls)

/-- Adds `k` occurrences of event `ev` to the core's counters. A count that passes 2^48 - 1 wraps and sets OVF, and a record
of kind 6 is written when enabled (R320). -/
def State.countOf (s : State) (c ev : Nat) (tenant : Option Nat) (cls : Nat) (t : Option Thread) (k : Nat := 1) : State :=
  iterate 8 0 (fun n s =>
    let co := s.core c
    if co.counts n ev tenant cls then
      let old := (co.pmc[n]?).getD { count := 0, ovf := false, wrappedAt := none }
      let wraps := decide (2 ^ 48 ≤ old.count.toNat + k)
      let s := s.modCore c fun co =>
        { co with pmc := co.pmc.setIfInBounds n {
          count := old.count + BitVec.ofNat 48 k, ovf := old.ovf || wraps, wrappedAt := if wraps then some s.now else old.wrappedAt } }
      if wraps then s.trace c 6 t (match t with | some t => t.pc | none => 0) (w64 n) (tenant.getD 0) else s
    else s) s

/-- Counts `k` occurrences of an event of thread `t`, or of none. -/
def State.count (s : State) (c ev : Nat) (t : Option Thread) (k : Nat := 1) : State :=
  s.countOf c ev (t.map (·.tenant)) (match t with | some t => (s.classOf t).num | none => 0) t k

/-- Counts an unmatched watch event for a tenant on a die (R84, R322). -/
def State.countUnmatched (s : State) (die tenant : Nat) : State :=
  s.modFront fun f =>
    { f with unmatched := insert f.unmatched (die * 256 + tenant) (lookupD f.unmatched (die * 256 + tenant) 0 + 1) }

/-- Counts a skipped lookup for a tenant on a stack (R235, R322). -/
def State.countSkipped (s : State) (die tenant : Nat) : State :=
  s.modFront fun f =>
    { f with skipped := insert f.skipped (die * 256 + tenant) (lookupD f.skipped (die * 256 + tenant) 0 + 1) }

/-- Counts a corrected error (R55, R301). -/
def State.countCorrected (s : State) (c : Nat) : State :=
  (s.modCore c fun co => { co with correctedErrors := co.correctedErrors + 1 }).count c 0x0C none

end Sys2Proof.Machine
end

