-- ==== Sys2Proof/Machine/Translate.lean ====
section
/-! DEFINITION. Translation (R89, R92-R95): the walk of a tenant's tables, the checks of a leaf in the order of R94, the
local window, and the translation buffer. -/

namespace Sys2Proof.Machine

/-- What an access needs of its page (R94, check 5); `both`: it reads and writes. -/
inductive Need where
  | read | write | both | fetch
  deriving DecidableEq, Repr

/-- The outcome of a translation: a physical address, a cause (R256), or a miss of the translation buffer. -/
inductive Xlat where
  | ok (pa : Nat)
  | bad (cause : BitVec 8)
  | miss
  deriving DecidableEq, Repr

/-- For whom a translation is made: the tenant, whether at curator level, the core whose local window it has (none for a
queue executor, R282), and whether it ignores H (R295). -/
structure Viewer where
  tenant : Nat
  curator : Bool
  core : Option Nat
  ignoreH : Bool
  deriving DecidableEq, Repr

def Thread.viewer (t : Thread) : Viewer :=
  { tenant := t.tenant, curator := t.level == .curator, core := some t.core, ignoreH := false }

def windowBase : Nat := 0xFFFFFFFF00000
def windowEnd : Nat := 0x10000000000000

/-- The virtual address lies in the local window (R89). -/
def inWindow (va : Nat) : Bool := decide (windowBase ≤ va) && decide (va < windowEnd)

/-- The interleave class of the frame group that holds a DRAM address (R90). -/
def State.classAt (s : State) (pa : Nat) : Nat := ((s.front.classes.getD (pa / 2 ^ 33) 0)).toNat

/-- The tenant's scratchpad allotment on core `c` holds the `n` bytes from window offset `off` on. -/
def Tenant.allots (t : Tenant) (c off n : Nat) : Bool :=
  t.hasCore c && decide (t.spadLo ≤ off) && decide (off + n ≤ t.spadHi)

/-- The tenants other than the curator that have core `c`. -/
def State.guests (s : State) (c : Nat) : List Tenant :=
  (s.tenants.filter fun e => e.1 != 0 && e.2.hasCore c).map (·.2)

/-- The allotment of a tenant on core `c` holds `n` bytes from window offset `off` on. Outside the curator columns tenant 0 has
what no tenant's allotment covers (R473). -/
def State.allots (s : State) (tenant c off n : Nat) : Bool :=
  (s.tenant tenant).allots c off n &&
    (tenant != 0 || s.curatorCore c || (s.guests c).all fun t => decide (off + n ≤ t.spadLo) || decide (t.spadHi ≤ off))

/-- A stream table index that the tenant has on core `c` (R177, R444, R473). -/
def State.hasStreamIndex (s : State) (tenant c i : Nat) : Bool :=
  let has (t : Tenant) : Bool := decide (t.streamBase ≤ i) && decide (i < t.streamBase + t.streamCount)
  decide (i < 64) && has (s.tenant tenant) && (tenant != 0 || s.curatorCore c || !(s.guests c).any has)

/-- Checks 2 to 6 of R94 on a leaf that maps `2 ^ size` bytes, for an access of `n` bytes at `va`. The region is that of the accessed
address (log entry 57), and the data does not depend on the key slot that a permitted mapping names (log entry 58). -/
def State.checkLeaf (s : State) (v : Viewer) (leaf : Word) (size va n : Nat) (need : Need) : Xlat :=
  let base := fieldOf leaf 12 36 * 4096
  let pa := base + va % 2 ^ size
  let ten := s.tenant v.tenant
  if base % 2 ^ size ≠ 0 then .bad 0x08
  else match regionOf pa with
  | .hole => .bad 0x09
  | r =>
    let isSystem := match r with | .system _ => true | _ => false
    let isDram := match r with | .dram => true | _ => false
    let permitted := match need with
      | .read => leaf.toNat.testBit 2
      | .write => leaf.toNat.testBit 3
      | .both => leaf.toNat.testBit 2 && leaf.toNat.testBit 3
      | .fetch => leaf.toNat.testBit 4
    if isSystem && !v.curator then .bad 0x09
    else if isDram && (decide (fieldOf leaf 6 2 ≠ s.classAt pa) || !(v.curator || ten.hasKey (fieldOf leaf 48 12))) then .bad 0x09
    else if !permitted then .bad 0x09
    else if leaf.toNat.testBit 5 && !v.ignoreH then .bad 0x0B
    else match r with
      | .spad c off => if s.allots v.tenant c off n then .ok pa else .bad 0x09
      | _ => .ok pa

/-- The levels of a walk below the root: the low bit of the level's index, its width, and whether a leaf maps a page
there (R92). -/
def walkLevels : List (Nat × Nat × Bool) := [(48, 4, false), (39, 9, false), (30, 9, true), (21, 9, true), (16, 5, true)]

/-- The leaf of a virtual address and the log2 of its page size, or the cause that ends the walk. -/
def State.walkFrom (s : State) (va : Nat) : List (Nat × Nat × Bool) → Nat → Except (BitVec 8) (Word × Nat)
  | [], _ => .error 0x08
  | (lo, len, page) :: rest, table =>
    let a := table + 8 * bits va lo len
    let e := s.word a
    if s.unreadable a then .error 0x0E
    else if !e.toNat.testBit 0 then .error 0x08
    else if rest.isEmpty || e.toNat.testBit 1 then (if page then .ok (e, lo) else .error 0x08)
    else s.walkFrom va rest (fieldOf e 12 36 * 4096)

/-- The table entries that the walk of a virtual address reads. -/
def State.walkReads (s : State) (va : Nat) : List (Nat × Nat × Bool) → Nat → List Nat
  | [], _ => []
  | (lo, len, _) :: rest, table =>
    let a := table + 8 * bits va lo len
    let e := s.word a
    if s.unreadable a || !e.toNat.testBit 0 || rest.isEmpty || e.toNat.testBit 1 then [a]
    else a :: s.walkReads va rest (fieldOf e 12 36 * 4096)

/-- A walk of the tenant's tables, and the checks of its leaf. An address at or above 2^52 is a protection fault for data
(R408) and a translation fault for a fetch (R399). -/
def State.walk (s : State) (v : Viewer) (va n : Nat) (need : Need) : Xlat :=
  if windowEnd ≤ va then .bad (if need = .fetch then 0x08 else 0x09)
  else match s.walkFrom va walkLevels (s.tenant v.tenant).root with
    | .error c => .bad c
    | .ok (leaf, size) => s.checkLeaf v leaf size va n need

/-- The local window of a core (R89). -/
def State.window (s : State) (v : Viewer) (c va n : Nat) : Xlat :=
  if s.allots v.tenant c (va - windowBase) n then .ok (spadPa c (va - windowBase)) else .bad 0x09

/-- A translation that a unit resolves at once: a descriptor, a range, a fetch. -/
def State.resolve (s : State) (v : Viewer) (va n : Nat) (need : Need) : Xlat :=
  if inWindow va then
    match v.core with
    | some c => s.window v c va n
    | none => .bad 0x09
  else s.walk v va n need

/-- The entry of the core's translation buffer that maps a virtual address of a tenant. -/
def Core.tlbFind (c : Core) (tenant va : Nat) : Option TlbEntry :=
  c.tlb.find? fun e => e.tenant == tenant && e.va == va / 2 ^ e.size

/-- A translation that the walker has resolved for the thread's latched instruction. -/
def Thread.walkedFind (t : Thread) (va : Nat) : Option TlbEntry :=
  t.walked.find? fun e => e.tenant == t.tenant && e.va == va / 2 ^ e.size

/-- A translation through the translation buffer of the thread's core (R58, R95). -/
def State.xlate (s : State) (t : Thread) (va n : Nat) (need : Need) : Xlat :=
  if inWindow va then s.window t.viewer t.core va n
  else if windowEnd ≤ va then .bad (if need = .fetch then 0x08 else 0x09)
  else match ((s.core t.core).tlbFind t.tenant va).or (t.walkedFind va) with
    | some e => s.checkLeaf t.viewer e.leaf e.size va n need
    | none => .miss

/-- Enters a walk into a translation buffer; the oldest entry makes room (R95). -/
def Core.tlbAdd (c : Core) (e : TlbEntry) : Core :=
  let l := c.tlb ++ [e]
  { c with tlb := if Config.tlbEntries < l.length then l.tail else l }

/-- The end of a walk for a thread: the cause that it finds, or the filled translation buffer. A walk that passes every check
is cached, and stays with the latched instruction until it completes; an entry that does not is walked afresh on the next miss (log
entry 12). -/
def State.fillTlb (s : State) (t : Thread) (va n : Nat) (need : Need) : Except (BitVec 8) State :=
  match s.walkFrom va walkLevels (s.tenant t.tenant).root with
  | .error c => .error c
  | .ok (leaf, size) =>
    match s.checkLeaf t.viewer leaf size va n need with
    | .bad c => .error c
    | _ =>
      let e : TlbEntry := { tenant := t.tenant, va := va / 2 ^ size, size := size, leaf := leaf }
      .ok ((s.modCore t.core fun c => c.tlbAdd e).modThread t.uid fun t => { t with walked := t.walked ++ [e] })

/-- A replayable cause (R256). -/
def replayable (c : BitVec 8) : Bool := c == 0x08 || c == 0x0B || c == 0x0D || c == 0x19

/-- Why a range has no pages: the cause of the first address that fails, or a miss of the translation buffer (R58) at a piece of `n`
bytes. -/
inductive NoPages where
  | bad (cause : BitVec 8) (va : Nat)
  | miss (va n : Nat)
  deriving DecidableEq, Repr

/-- The pages of a virtual range by the translation `f`, as (virtual base, physical base, bytes), or why the first address that has none
has none. Pieces of 64 KiB; the range holds at least one byte. -/
def resolveRange (f : (va n : Nat) → Xlat) : (fuel : Nat) → (va len : Nat) → Except NoPages (List (Nat × Nat × Nat))
  | 0, _, _ => .ok []
  | fuel + 1, va, len =>
    if len = 0 then .ok []
    else
      let n := min len (0x10000 - va % 0x10000)
      match f va n with
      | .ok pa =>
        match resolveRange f fuel (va + n) (len - n) with
        | .ok r => .ok ((va, pa, n) :: r)
        | .error e => .error e
      | .bad c => .error (.bad c va)
      | .miss => .error (.miss va n)

/-- The pages of a virtual range by walks at once, for a unit that has no translation buffer. -/
def State.pages (s : State) (v : Viewer) (va len : Nat) (need : Need) : Except (BitVec 8 × Nat) (List (Nat × Nat × Nat)) :=
  match resolveRange (fun a n => s.resolve v a n need) (len / 0x10000 + 2) va len with
  | .ok r => .ok r
  | .error (.bad c a) => .error (c, a)
  | .error (.miss a _) => .error (0x08, a)

/-- The pages of a virtual range through the translation buffer of the thread's core, for an engine that the thread launches (R58,
R95). -/
def State.threadPages (s : State) (t : Thread) (va len : Nat) (need : Need) : Except NoPages (List (Nat × Nat × Nat)) :=
  resolveRange (fun a n => s.xlate t a n need) (len / 0x10000 + 2) va len

/-- The physical address of a virtual address in resolved pages. -/
def pageOf (pages : List (Nat × Nat × Nat)) (va : Nat) : Option Nat :=
  match pages.find? fun p => decide (p.1 ≤ va) && decide (va < p.1 + p.2.2) with
  | some p => some (p.2.1 + (va - p.1))
  | none => none

end Sys2Proof.Machine
end

