-- ==== Sys2Proof/Machine/Ops.lean ====
section
/-! DEFINITION. The shared operations on a thread: completing an instruction, holding it in the retry latch, TAKING A TRAP
and returning from one, register writes with their comparators, stops and mailbox messages (R48, R57, R186, R192-R194,
R248-R257, R311-R315). -/

namespace Sys2Proof.Machine

/-- TAGM of a stream table entry (R177). -/
def StreamEntry.tagm (e : StreamEntry) : Nat := fieldOf e.w0 32 2

/-- The thread has left the instruction at which `t` stood: a trap or a hold has been taken at it. -/
def Thread.left (t' t : Thread) : Bool :=
  decide (t'.pc ≠ t.pc) || decide (t'.latch ≠ t.latch) || decide (t'.level ≠ t.level) || decide (t'.inh ≠ t.inh)

/-! ### Position in the program -/

/-- TSTAT bits 44:5 of a REP position (R249). -/
def Rep.pack (r : Rep) : BitVec 40 :=
  BitVec.ofNat 40 (1 + r.idx * 2 ^ 1 + r.pass * 2 ^ 5 + r.cnt * 2 ^ 17 + (r.len - 1) * 2 ^ 30 + r.stride.toNat * 2 ^ 34)

/-- The REP position after the present body instruction; none after the last of the last pass (R186). -/
def Rep.next (r : Rep) : Option Rep :=
  if r.idx + 1 < r.len then some { r with idx := r.idx + 1 }
  else if r.pass + 1 < r.cnt then some { r with idx := 0, pass := r.pass + 1 }
  else none

/-- The PC and the REP position of the successor of the present instruction (R21, R186). -/
def Thread.successor (t : Thread) : Word × Option Rep :=
  match t.rep with
  | none => (t.pc + 4, none)
  | some r =>
    match r.next with
    | some r' => (r.start + w64 (4 * r'.idx), some r')
    | none => (r.start + w64 (4 * r.len), none)

/-- Goes on to the successor. -/
def Thread.advance (t : Thread) : Thread := { t with pc := t.successor.1, rep := t.successor.2 }

/-- Goes on at a branch target, which ends a loop (R187). -/
def Thread.jump (t : Thread) (target : Word) : Thread := { t with pc := target, rep := none }

/-- The REP position of the present instruction, as TSTAT holds it. -/
def Thread.repPos (t : Thread) : BitVec 40 := match t.rep with | some r => r.pack | none => 0

/-- The thread stands at the VRED whose partial result it holds (R458). -/
def Thread.atVred (t : Thread) (v : VredPart) : Bool := v.pc == t.pc && v.rep == t.repPos && v.depth == 0

/-! ### Fault records -/

/-- Puts a record on its way to a fault queue (R257). -/
def State.sendRecord (s : State) (tenant : Nat) (t : Thread) (cause : BitVec 8) (kind : Nat) (val pc : Word) (w : InstWord)
    (detail : Nat) : State :=
  let r : FaultRec := { id := s.nextId, tenant := tenant, uid := t.uid, tid := t.tid, cause := cause, kind := kind,
                        val := val, pc := pc, word := w, detail := detail }
  { s with nextId := s.nextId + 1, records := s.records ++ [r] }.postNow (.faultRecordSend s.nextId)

/-- A kind-1 record: a thread or a record is lost (R259, R260). -/
def State.sendLost (s : State) (tenant tid : Nat) (cause : BitVec 8) (val : Word) (detail : Nat) : State :=
  let r : FaultRec := { id := s.nextId, tenant := tenant, uid := 0, tid := tid, cause := cause, kind := 1,
                        val := val, pc := 0, word := 0, detail := detail }
  { s with nextId := s.nextId + 1, records := s.records ++ [r] }.postNow (.faultRecordSend s.nextId)

/-- The record of a held thread (R256, R252): kind 3 to the curator for a double trap, else kind 0 to its tenant. -/
def State.sendHeld (s : State) (t : Thread) (l : Latch) : State :=
  if l.double then s.sendRecord 0 t l.cause 3 l.val l.pc l.shown l.detail
  else s.sendRecord t.tenant t l.cause 0 l.val l.pc l.shown l.detail

/-! ### Precise stops (R311) -/

/-- Stops a thread at the instruction boundary where it stands; a stop of a thread that is away is pending. -/
def State.stopThread (s : State) (uid : Nat) : State :=
  match s.thread? uid with
  | none => s
  | some t =>
    if t.level = .curator then s
    else match t.status with
      | .free | .trappedStopped => s
      | .revoked | .saving | .restoring => s.setThread { t with stopPending := true }
      | st =>
        (s.setThread { t with status := .trappedStopped, recorded := st, stopPending := false, stepping := false, yield := none }).trace
          t.core 3 (some t) t.pc (w64 st.num)

/-! ### The retry latch (R57) -/

/-- Holds the present instruction of a thread: its effects have not taken place. A hold that is not a translation walk
sends its record (R256). -/
def State.hold (s : State) (uid : Nat) (cause : BitVec 8) (val : Word) (detail : Nat) (w shown : InstWord)
    (walk fetch double : Bool) : State :=
  match s.thread? uid with
  | none => s
  | some t =>
    let l : Latch :=
      { word := w, shown := shown, pc := t.pc, pass := (t.rep.map (·.pass)).getD 0, idx := (t.rep.map (·.idx)).getD 0, cause := cause, val := val,
        detail := detail, sent := false, walk := walk, double := double, fetch := fetch, barrier := 0,
        trapped := false }
    let t := { t.setStat .heldFault with latch := some l, await := .nothing, replay := false, dueTrap := none, blockedAt := none }
    let s := s.setThread t
    if walk then s.count t.core 6 (some t)
    else (if double then s else s.count t.core 7 (some t)).sendHeld t l

/-! ### Taking a trap (R251-R253) -/

/-- An element that the stream unit reads ahead (R184). -/
def Access.ahead (a : Access) : Bool := a.answered && (match a.kind with | .streamElem _ => true | _ => false)

/-- The accesses of a thread that are not performed (R104): in flight or on a wait list. What the stream unit reads ahead is
discarded and not waited for (R184). -/
def State.outstanding (s : State) (uid : Nat) : List Access :=
  s.accesses.filter fun a => a.uid == uid && !a.ahead && (match a.phase with | .sent | .waiting _ _ => true | _ => false)

/-- A long-latency result of the thread is still to be pushed to a stream: an access of the stream unit that is not performed (R107, R176). -/
def State.pushDue (s : State) (uid : Nat) : Bool :=
  s.results.any fun r => r.uid == uid && r.regs.any fun e => decide (48 ≤ e.1) && decide (e.1 < 56)

/-- Every access of the thread that has issued is performed (R104, R105). -/
def State.drained (s : State) (uid : Nat) : Bool := (s.outstanding uid).isEmpty && !s.pushDue uid

/-- The deferred traps of a thread, but for those of elements that its streams have read ahead: an ordering point discards these with the
elements (R78, R184). -/
def Thread.owed (t : Thread) : List Deferred := t.deferred.filter fun d => d.dst.all fun n => decide (n < 48)

/-- Discards what the unit has read ahead: a popped value is never older than the latest non-relaxed access (R184). What a
take has brought stays. -/
def Thread.dropAhead (t : Thread) : Thread :=
  { t with deferred := t.owed, streams := Vector.ofFn fun i => t.streams[i].map fun x => if x.entry.tagm = 2 then x else { x with ahead := [] } }

/-- Discards what the stream unit has read ahead for a thread, and withdraws its waiting elements (R184). -/
def State.dropReadAhead (s : State) (uid : Nat) : State :=
  { s with accesses := s.accesses.filter fun a => !(a.uid == uid && a.ahead) }.modThread uid Thread.dropAhead

/-- The waiting registers of withdrawn relaxed loads become full; their value is a free value (log entry 15). -/
def State.freeDests (s : State) (uid : Nat) : List Nat → State
  | [] => s
  | n :: ns => if n < 48 then (s.free.2.modThread uid fun t => t.write n s.free.1).freeDests uid ns else s.freeDests uid ns

/-- Where a trap of cause `c` goes (R251): user, runtime or curator level and its handler, or none for a double trap. -/
def Thread.route (t : Thread) (tenantVec curatorVec : Word) (c : BitVec 8) : Option (Level × Word) :=
  if t.level = .user ∧ t.inh = false ∧ t.deleg.toNat.testBit c.toNat = true ∧ t.utrapvec ≠ 0 then some (.user, t.utrapvec)
  else if (t.level = .user ∨ (t.level = .runtime ∧ t.inh = false)) ∧ tenantVec ≠ 0 ∧ c ≠ 0x31 then some (.runtime, tenantVec)
  else if (t.level = .curator ∧ t.inh = true) ∨ curatorVec = 0 then none
  else some (.curator, curatorVec)

/-- Bits 1:0 of a handler PC are ignored (R248). -/
def handlerPc (v : Word) : Word := v &&& ~~~(3 : Word)

/-- The context of a thread that enters a handler (R251). The resume point is the successor for TRAP and BRK. The partial result of a VRED stays
(R458). -/
def Thread.enter (t : Thread) (lvl : Level) (vec : Word) (cause : BitVec 8) (val : Word) (w : InstWord) (succ fackt : Bool) :
    Thread :=
  let p := if succ then t.successor else (t.pc, t.rep)
  { t.setStat .ready with
    fltcause := w64 (cause.toNat + bitNat fackt * 256), fltval := val, fltinst := w64 w.toNat, fltpc := p.1,
    plvl := t.level, inh := true, trep := (match p.2 with | some r => r.pack | none => 0), rep := none,
    vred := t.vred.map fun v => if t.atVred v then v else { v with depth := v.depth + 1 },
    level := lvl, pc := handlerPc vec, latch := none, replay := false, await := .nothing, hit := none, phase := 0, dueTrap := none, blockedAt := none }

/-- Enters a handler, or stops in a double trap. `raw` is the word as it was fetched, `w` the word as staggered. The firmware ends a tenant thread whose trap goes to the curator: it sends
a record of kind 2, whose sending ends the thread (R251). -/
def State.enterTrap (s : State) (t : Thread) (cause : BitVec 8) (val : Word) (raw w : InstWord) (succ fackt : Bool) : State :=
  match t.route (s.tenant t.tenant).trapvec (s.core t.core).ctrapvec cause with
  | none => s.hold t.uid cause val 0 raw w false false true
  | some (lvl, vec) =>
    let t' := t.enter lvl vec cause val w succ fackt
    let s := ((s.setThread t').dropReadAhead t.uid).count t.core 8 (some t)
    let s := if lvl = .curator ∧ t.tenant ≠ 0 then s.sendRecord t.tenant t cause 2 val t.pc w 0 else s
    if t.stepping && t.stepIssued then (s.modThread t.uid fun t => { t with stepping := false }).stopThread t.uid else s

/-- A deferred trap: the earliest access in program order reports, the others are withdrawn and report nothing (R78, R253).
Entry waits for the accesses outstanding, and one that meets a deferred trap meanwhile may be the earliest (R253). FLTPC is the present instruction, FLTINST the word of the access. -/
def State.takeDeferred (s : State) (t : Thread) (raw : InstWord) (d : Deferred) : State :=
  if !s.drained t.uid then
    s.setThread { ((s.thread? t.uid).getD t).block .accesses with
      dueTrap := some { cause := d.cause, val := d.val, word := raw, shown := raw, counted := true } }
  else
  let s := s.freeDests t.uid (t.deferred.flatMap (·.dst))
  let t := { (s.thread? t.uid).getD t with deferred := [], dueTrap := none }
  (s.setThread t).enterTrap t d.cause d.val raw (if d.word = 0 then raw else d.word) false false

/-- A thread that FACK.t has named takes the cause of its latch as a trap, at the latched instruction and with FACKT set (R258). The
entry waits for the accesses outstanding, and a deferred trap comes first (R253). -/
def State.trapHeld (s : State) (uid : Nat) : State :=
  match s.thread? uid with
  | none => s
  | some t =>
    match t.latch, t.owed with
    | none, _ => s
    | some l, d :: _ => s.takeDeferred t l.word d
    | some l, [] =>
      if s.drained uid then s.enterTrap t.wake l.cause l.val l.word l.shown false true
      else s.setThread { t.wake.block .accesses with latch := some { l with trapped := true } }

/-- TAKES A TRAP of cause `cause` at the present instruction of a thread (R251). Entry is an ordering point: it waits for the
accesses outstanding, and a deferred trap takes precedence (R253). `succ`: a TRAP or BRK, which completes. -/
def State.takeTrap (s : State) (uid : Nat) (cause : BitVec 8) (val : Word) (raw w : InstWord) (succ : Bool := false) : State :=
  match s.thread? uid with
  | none => s
  | some t =>
    match t.owed with
    | d :: _ => s.takeDeferred t raw d
    | [] =>
      if s.drained uid then s.enterTrap t cause val raw w succ false
      else s.setThread { t.block .accesses with dueTrap := some { cause := cause, val := val, word := raw, shown := w, counted := true } }

/-- A cause that a check found: held when it is replayable, else a trap (R256). -/
def State.raise (s : State) (uid : Nat) (cause : BitVec 8) (val : Word) (detail : Nat) (raw w : InstWord) :
    State :=
  if replayable cause then s.hold uid cause val detail raw w false false false else s.takeTrap uid cause val raw w

/-- ERET's new level, INH and PC (R254); the REP part is `Thread.resumeRep`. -/
def Thread.eret (t : Thread) : Thread := { t with level := t.plvl, inh := false, pc := t.fltpc, rep := none }

/-! Fields of TSTAT bits 44:5 (R249). -/
def Thread.ract (t : Thread) : Bool := t.trep.toNat.testBit 0
def Thread.ridx (t : Thread) : Nat := bits t.trep.toNat 1 4
def Thread.rpass (t : Thread) : Nat := bits t.trep.toNat 5 12
def Thread.rcnt (t : Thread) : Nat := bits t.trep.toNat 17 13
def Thread.rlen (t : Thread) : Nat := bits t.trep.toNat 30 4
def Thread.rstr (t : Thread) : BitVec 6 := BitVec.ofNat 6 (bits t.trep.toNat 34 6)

/-! ### PWARN and completion -/

/-- PWARN after an instruction completes in proving mode (R35). A PWARN that MTSR has left non-zero counts as set since it was last 0:
FBIDX is recorded while FALLB and FBIDX are 0, FIRSTW while no flag is set (log entry 59). -/
def pwarnAfter (old : Word) (w : InstWord) (rsvd hint : Bool) (row : Nat) : Word :=
  let set := bitNat rsvd + bitNat hint * 2 + bitNat (decide (row ≠ 0)) * 4
  if set = 0 then old
  else
    let v := old ||| w64 set
    let v := if row ≠ 0 ∧ fieldOf old 2 1 = 0 ∧ fieldOf old 8 8 = 0 then setField v 8 8 row else v
    if old &&& 7 = 0 then setField v 32 32 w.toNat else v

/-- A completed instruction leaves the latch and takes its PWARN flags (R35, R57). -/
def Thread.completed (t : Thread) (proving : Bool) (w : InstWord) (rsvd hint : Bool) (row : Nat) : Thread :=
  { t with latch := none, replay := false, phase := 0, await := .nothing, dueTrap := none, walked := [], blockedAt := none,
           pwarn := if proving then pwarnAfter t.pwarn w rsvd hint row else t.pwarn }

/-- After an instruction: a pending stop takes effect, and a debug step once the thread has issued in it (R311). -/
def State.boundary (s : State) (uid : Nat) : State :=
  match s.thread? uid with
  | none => s
  | some t =>
    if t.stopPending || (t.stepping && t.stepIssued) then
      (s.setThread { t with stopPending := false, stepping := false }).stopThread uid
    else s

/-- An instruction completes and the thread goes on to its successor; the thread is ready (R48). The execution mode is that in which it
issued (R32). -/
def State.retire (s : State) (uid : Nat) (w : InstWord) (rsvd hint : Bool) (row : Nat) : State :=
  match s.thread? uid with
  | none => s
  | some t =>
    (s.setThread (((t.completed t.proving w rsvd hint row).advance).setStat .ready)).boundary uid

/-! ### Comparators and watchpoints (R313-R315) -/

/-- Keeps a deferred trap, in the program order of the accesses (R78). -/
def Thread.defer (t : Thread) (d : Deferred) : Thread := { t with deferred := insertBy (·.id) d t.deferred }

/-- Applies an ACT to the thread that matched: 0 trap, 1 stop, else trace only. `now`: the thread still has to complete the
instruction that matched. -/
def State.applyAct (s : State) (uid act : Nat) (val : Word) (relaxed : Option Access) (pending : Bool) : State :=
  match act with
  | 0 =>
    match relaxed with
    | some a => s.modThread uid fun t => t.defer { id := a.id, cause := 0x2A, val := val, word := a.shown, dst := [] }
    | none => s.modThread uid fun t => if t.hit.isSome then t else { t with hit := some val }
  | 1 => if pending then s.modThread uid fun t => { t with stopPending := true } else s.stopThread uid
  | _ => s

/-- The ACT code of a comparator: 3 acts as 2 (R313). -/
def actOf (n : Nat) : Nat := if n = 3 then 2 else n

/-- The comparators of core `c` that match, with what they do: the test is given by `p`, applied to DBGC, DBGA and DBGB. -/
def State.matching (s : State) (c : Nat) (p : Nat → Nat → Nat → Bool) : List Nat :=
  let co := s.core c
  below 8 fun n => p ((co.dbgc[n]?).getD 0).toNat ((co.dbga[n]?).getD 0).toNat ((co.dbgb[n]?).getD 0).toNat

/-- Word 3 of the record of a hit: the comparator's number in bits 2:0, and the address that the thread used above them, to the word; the
code of a register stands from bit 3 on (R318; log entry 80). -/
def hitWord (ctl : Word) (n : Nat) (val : Word) : Word :=
  if fieldOf ctl 0 2 = 3 then w64 n ||| (val <<< 3) else setField val 0 3 n

/-- Every matching comparator sets HIT and writes its trace record; the thread stops if any of them stops it, and otherwise
traps once (R315). -/
def State.applyMatches (s : State) (c : Nat) (t : Thread) (ns : List Nat) (val : Word) (relaxed : Option Access)
    (pending : Bool) : State :=
  let acts := ns.map fun n => actOf (fieldOf (((s.core c).dbgc[n]?).getD 0) 2 2)
  let s := ns.foldl (fun s n =>
    let ctl := ((s.core c).dbgc[n]?).getD 0
    let s := s.modCore c fun co => { co with dbgc := co.dbgc.setIfInBounds n (ctl ||| 0x10000), hitAt := insert co.hitAt n s.now }
    if actOf (fieldOf ctl 2 2) = 2 then s.trace c 1 (some t) t.pc (hitWord ctl n val) else s) s
  if acts.contains 1 then s.applyAct t.uid 1 val relaxed pending
  else if acts.contains 0 then s.applyAct t.uid 0 val relaxed pending
  else s

/-- A type C comparator: a write of `v` to register `n` of the thread's slot (R314). -/
def regMatch (t : Thread) (n : Nat) (v : Word) (ctl a b : Nat) : Bool :=
  decide (bits ctl 0 2 = 3) && decide (bits ctl 8 8 = t.tenant) && decide (bits ctl 8 8 ≠ 0) &&
    decide (bits a 0 9 = t.slot) && decide (bits a 16 6 = n) && (!ctl.testBit 5 || decide (b = v.toNat))

/-- Writes general register `n` and sets it full; type C comparators test the write. `pending`: the instruction that writes
is not completed yet. -/
def State.writeReg (s : State) (uid n : Nat) (v : Word) (pending : Bool := true) : State :=
  match s.thread? uid with
  | none => s
  | some t =>
    let s := s.setThread (t.write n v)
    match s.matching t.core (regMatch t n v) with
    | [] => s
    | ns => s.applyMatches t.core t ns (w64 n) none pending

/-- Writes several registers in one step (R54). -/
def State.writeRegs (s : State) (uid : Nat) (pending : Bool) : List (Nat × Word) → State
  | [] => s
  | (n, v) :: rs => (s.writeReg uid n v pending).writeRegs uid pending rs

/-- A long-latency result is on its way to its registers (R53, R54). -/
def State.sendResult (s : State) (uid : Nat) (regs : List (Nat × Word)) : State :=
  if regs.isEmpty then s
  else
    let r : Result := { id := s.nextId, uid := uid, restores := [], regs := regs }
    { s with nextId := s.nextId + 1, results := s.results ++ [r] }.postNow (.longLatencyResult s.nextId)

/-- A result that sets the registers `ns` full again with their old values, beside its own registers (R361). -/
def State.sendRestore (s : State) (uid : Nat) (ns : List Nat) (regs : List (Nat × Word)) : State :=
  let r : Result := { id := s.nextId, uid := uid, restores := ns, regs := regs }
  { s with nextId := s.nextId + 1, results := s.results ++ [r] }.postNow (.longLatencyResult s.nextId)

/-! ### Mailboxes (R192-R195) -/

/-- The header that MWAIT writes (R194). -/
def Msg.header (m : Msg) : Word := w64 (m.kind + m.status * 2 ^ 8 + m.sender * 2 ^ 16)

/-- The messages of a thread, oldest first. -/
def State.mailbox (s : State) (t : Thread) : List Msg :=
  (s.core t.core).mail.filter fun m => m.bound == some t.uid

/-- The words a thread can still pop (R194). -/
def State.mailWords (s : State) (t : Thread) : List Word :=
  (s.mailbox t).flatMap fun m => if m.popped then [m.w1] else [m.w0, m.w1]

/-- A parked MWAIT completes when a message enters: its header goes to the destination, the message stays (R48). `phase`
holds 1 + the destination code. Another destination than a general register executes MWAIT again. -/
def State.completeMwait (s : State) (t : Thread) (m : Msg) : State :=
  let code := t.phase - 1
  if code < 48 then (s.writeReg t.uid code m.header).retire t.uid t.parked t.parkedRsvd false 0
  else if code = 56 then s.retire t.uid t.parked t.parkedRsvd false 0
  else s.setThread { t.wake with phase := 0 }

/-- The thread that a message is for: the placement it is bound to, or the one that holds the slot (R193). -/
def State.addressee (s : State) (c : Nat) (m : Msg) : Option Thread :=
  match m.bound with
  | some uid => (s.thread? uid).filter fun t => t.core == c
  | none => if m.device then none else s.holder? (c * 512 + m.slot)

/-- The words of a mailbox entry of a save area (R268). -/
def Msg.words (m : Msg) : List Word := [m.header, m.w0, m.w1, w64 (m.slot + bitNat m.popped * 2 ^ 16)]

/-- The base of the block of the i-th core of a save area (R268). -/
def blockBase (base i : Nat) : Nat := base + 0x10000 + i * 0x400000

/-- Where the count of mailbox entries stands in the core header of a save area's block (R486). -/
def mailCountAt (block : Nat) : Nat := block + 8 * 19

/-- The saved contexts of a core, and its reserve-bank entries. -/
def SaveImage.contexts (i : SaveImage) (c : Nat) : List Thread := i.threads.filter fun t => t.core == c && !t.banked
def SaveImage.bank (i : SaveImage) (c : Nat) : List Thread := i.threads.filter fun t => t.core == c && t.banked

/-- Where the record of a saved thread lies in the area at `base` (R268). -/
def SaveImage.recordPa (i : SaveImage) (base : Nat) (t : Thread) : Nat :=
  let n := (i.cores.findIdx? fun c => c == t.core).getD 0
  if t.banked then blockBase base n + 0x101000 + ((i.bank t.core).findIdx? fun x => x.uid == t.uid).getD 0 * 0x800
  else blockBase base n + 0x1000 + t.slot * 0x800

/-- The saved image that holds the switched-out placement with this serial number, and the block of core `c` in its area (R195). -/
def State.imageWith (s : State) (c uid : Nat) : Option Nat :=
  (s.images.find? fun i => i.live && i.cores.contains c && i.threads.any fun t => t.uid == uid && t.core == c && t.status != .free).map fun i =>
    blockBase i.base ((i.cores.findIdx? fun x => x == c).getD 0)

/-- A unit's store of a word of a save area: a plain store, which raises its watch event and clears poison (R82, R83, R87). -/
def State.areaStore (s : State) (pa : Nat) (v : Word) : State := if tagged pa then s.storePlain 0 pa v else s.storeWord pa v

/-- A word of a save area as a unit finds it, none when no data can be returned from it (R85). -/
def State.areaSeen (s : State) (pa : Nat) : Option Word := (s.storeDue pa).or (if s.unreadable pa then none else some (s.word pa))

/-- The entries of the mailbox image of a block; an image whose count cannot be read has no room. -/
def State.imageMail (s : State) (block : Nat) : Nat := ((s.areaSeen (mailCountAt block)).map (·.toNat)).getD Config.mailEntries

/-- A message enters the mailbox image of a save area (R195). -/
def State.imageEnter (s : State) (block : Nat) (m : Msg) : State :=
  let n := s.imageMail block
  let s := (List.range 4).foldl (fun s k => s.areaStore (block + 0x145000 + 32 * n + 8 * k) (m.words.getD k 0)) s
  s.areaStore (mailCountAt block) (w64 (n + 1))

/-- The mailbox image that a device message for core `c` would enter: its placement is switched out (R195). -/
def State.imageFor (s : State) (c : Nat) (m : Msg) : Option Nat :=
  match m.bound with
  | some uid => if (s.thread? uid).isSome then none else s.imageWith c uid
  | none => none

/-- A message that is discarded on its entry: its context holds no thread, or its placement has ended (R193, R194). -/
def State.discards (s : State) (c : Nat) (m : Msg) : Bool := (s.addressee c m).isNone && (s.imageFor c m).isNone

/-- The MSEND messages of a core's mailbox queue (R192). -/
def Core.sent (c : Core) : Nat := (c.mail.filter fun m => !m.device).length

/-- There is room for a device message among all 256 entries (R192), of the core's queue or of the mailbox image it enters (R195); an MSEND that a
switch-in has brought back waits among them until 224 entries admit it. -/
def State.deviceRoom (s : State) (c : Nat) (m : Msg) : Bool :=
  s.discards c m ||
    match s.imageFor c m with
    | some block => decide (s.imageMail block < Config.mailEntries)
    | none => decide ((s.core c).mail.length < Config.mailEntries) && (m.device || decide ((s.core c).sent < Config.mailSend))

/-- A message for a thread that is not resident: it enters the mailbox image of the save area that holds the placement it is bound
to (R195), or is discarded and counted. -/
def State.absentMessage (s : State) (c : Nat) (m : Msg) : State :=
  match s.imageFor c m with
  | some block => s.imageEnter block m
  | none => s.modCore c fun co => { co with mailDiscards := co.mailDiscards + 1 }

/-- A message enters the mailbox queue of core `c`, or is discarded and counted: when its context holds no thread, or its
placement has ended (R193, R194). -/
def State.enterMessage (s : State) (c : Nat) (m : Msg) : State :=
  match s.addressee c m with
  | none => s.absentMessage c m
  | some t =>
    let m := { m with bound := some t.uid, slot := t.slot, id := s.nextId }
    let s := { s with nextId := s.nextId + 1 }.modCore c fun co => { co with mail := co.mail ++ [m] }
    if t.stat = .parkedMessage then s.completeMwait t m else s

/-- A device message: it enters when there is room among all 256 entries, else it waits (R192). -/
def State.deviceMessage (s : State) (c : Nat) (m : Msg) : State :=
  if s.deviceRoom c m then s.enterMessage c m
  else
    { s with devMsgs := s.devMsgs ++ [(c, { m with id := s.nextId })], nextId := s.nextId + 1 }.postNow (.deviceMessageEntry s.nextId)

end Sys2Proof.Machine
end

