-- ==== Sys2Proof/Machine/Flags.lean ====
section
/-! DEFINITION. The floating-point flags and rounding modes (R154, R155, R158). -/

namespace Sys2Proof.Machine

/-- A set of the sticky flags of FPFLAGS, laid out as FPFLAGS bits 4:0 (R155). -/
abbrev Flags := BitVec 5

/-- Invalid. -/
def flNV : Flags := 1
/-- Divide by zero. -/
def flDZ : Flags := 2
/-- Overflow. -/
def flOF : Flags := 4
/-- Underflow. -/
def flUF : Flags := 8
/-- Inexact. -/
def flNX : Flags := 16

/-- The flags when a condition holds. -/
def flIf (b : Bool) (f : Flags) : Flags := if b then f else 0

/-- An instruction ORs its flags into FPFLAGS when it completes (R155). -/
def State.raiseFlags (s : State) (uid : Nat) (f : Flags) : State := s.modThread uid fun t => { t with fpflags := t.fpflags ||| f }

/-- The rounding modes (R154); stochastic rounding takes the bits U of its draw (R159). -/
inductive Rm where
  | rne | rtz | rup | rdn | rna
  | sr (u : Nat)
  deriving DecidableEq, Repr

/-- The mode of a code of FPRM; codes above 4 are stored as 0 (R154). -/
def Rm.ofCode : Nat → Rm
  | 1 => .rtz
  | 2 => .rup
  | 3 => .rdn
  | 4 => .rna
  | _ => .rne

/-- The dynamic mode. -/
def Thread.rm (t : Thread) : Rm := Rm.ofCode (fieldOf t.fprm 0 3)

/-- RNA is taken as RNE by the instructions that do not round so (R154). -/
def Rm.arith : Rm → Rm
  | .rna => .rne
  | m => m

/-- One step of the generator of stochastic rounding (R158). -/
def srStep (x : Word) : Word :=
  let x := if x = 0 then 0x9E3779B97F4A7C15 else x
  let x := x ^^^ (x <<< 13)
  let x := x ^^^ (x >>> 7)
  x ^^^ (x <<< 17)

end Sys2Proof.Machine
end

