-- ==== Sys2Proof/Machine/Float.lean ====
section
/-! DEFINITION. Floating-point formats and arithmetic (R148-R156, R159-R162): every operation is computed exactly and rounded once. -/

namespace Sys2Proof.Machine

/-! ### Formats -/

/-- What a format's top codes mean (R149): infinities and NaNs; one NaN and no infinity (E4M3); neither (E2M1). -/
inductive TopCodes where
  | ieee | oneNan | none
  deriving DecidableEq, Repr

/-- A binary floating-point format (R149). -/
structure FpFmt where
  ebits : Nat
  mbits : Nat
  bias : Nat
  top : TopCodes
  deriving DecidableEq, Repr

def fp64 : FpFmt := { ebits := 11, mbits := 52, bias := 1023, top := .ieee }
def fp32 : FpFmt := { ebits := 8, mbits := 23, bias := 127, top := .ieee }
def fp16 : FpFmt := { ebits := 5, mbits := 10, bias := 15, top := .ieee }
def bf16 : FpFmt := { ebits := 8, mbits := 7, bias := 127, top := .ieee }
def e4m3 : FpFmt := { ebits := 4, mbits := 3, bias := 7, top := .oneNan }
def e5m2 : FpFmt := { ebits := 5, mbits := 2, bias := 15, top := .ieee }
def e2m1 : FpFmt := { ebits := 2, mbits := 1, bias := 1, top := .none }

/-- The format of the `.d .s .h .b` modifiers (R366, R455). -/
def fmtOf (n : Nat) : FpFmt := if n = 0 then fp64 else if n = 1 then fp32 else if n = 2 then fp16 else bf16

/-- The bits of an encoding. -/
def FpFmt.width (f : FpFmt) : Nat := 1 + f.ebits + f.mbits

/-- The encoding of the greatest finite magnitude. -/
def FpFmt.maxEnc (f : FpFmt) : Nat :=
  match f.top with
  | .ieee => (2 ^ f.ebits - 1) * 2 ^ f.mbits - 1
  | .oneNan => 2 ^ (f.ebits + f.mbits) - 2
  | .none => 2 ^ (f.ebits + f.mbits) - 1

/-- The sign bit of an encoding. -/
def FpFmt.sign (f : FpFmt) (neg : Bool) : Nat := if neg then 2 ^ (f.ebits + f.mbits) else 0

/-- The canonical quiet NaN (R151); a format without NaNs takes +0 (R160). -/
def FpFmt.qnan (f : FpFmt) : Nat :=
  match f.top with
  | .ieee => (2 ^ f.ebits - 1) * 2 ^ f.mbits + 2 ^ (f.mbits - 1)
  | .oneNan => 2 ^ (f.ebits + f.mbits) - 1
  | .none => 0

/-- Infinity. -/
def FpFmt.inf (f : FpFmt) (neg : Bool) : Nat := f.sign neg + (2 ^ f.ebits - 1) * 2 ^ f.mbits

/-- The weight of the last place of a subnormal, as a power of 2. -/
def FpFmt.qmin (f : FpFmt) : Int := 1 - (f.bias : Int) - f.mbits

/-- A value: a NaN, an infinity, or the number `(-1)^neg * m * 2^e`. -/
inductive FpVal where
  | nan (signalling : Bool)
  | inf (neg : Bool)
  | fin (neg : Bool) (m : Nat) (e : Int)
  deriving DecidableEq, Repr

/-- The value of an encoding (R149). -/
def FpFmt.unpack (f : FpFmt) (x : Nat) : FpVal :=
  let neg := x.testBit (f.ebits + f.mbits)
  let ex := bits x f.mbits f.ebits
  let fr := bits x 0 f.mbits
  let top := decide (ex = 2 ^ f.ebits - 1)
  if top ∧ f.top = .ieee then (if fr = 0 then .inf neg else .nan (!fr.testBit (f.mbits - 1)))
  else if top ∧ f.top = .oneNan ∧ fr = 2 ^ f.mbits - 1 then .nan false
  else if ex = 0 then .fin neg fr f.qmin
  else .fin neg (2 ^ f.mbits + fr) (f.qmin + ex - 1)

/-! ### Rounding -/

/-- Rounds `m * 2^e` to a multiple of `2^(e + shift)`: the multiple, and whether it is inexact (R154, R159). -/
def roundAt (rm : Rm) (neg : Bool) (m : Nat) (shift : Int) : Nat × Bool :=
  if shift ≤ 0 then (m <<< (-shift).toNat, false)
  else
    let k := shift.toNat
    let sig := m >>> k
    let rem := m % 2 ^ k
    let up := match rm with
      | .rne => decide (2 ^ (k - 1) < rem) || (decide (rem = 2 ^ (k - 1)) && sig.testBit 0)
      | .rtz => false
      | .rup => !neg && decide (rem ≠ 0)
      | .rdn => neg && decide (rem ≠ 0)
      | .rna => decide (2 ^ (k - 1) ≤ rem)
      | .sr u => decide (u < rem * 2 ^ 32 / 2 ^ k)
    (sig + bitNat up, decide (rem ≠ 0))

/-- A magnitude rounded to a format whose exponent has no upper bound. -/
structure Rounded where
  enc : Nat
  inexact : Bool
  tiny : Bool
  deriving DecidableEq, Repr

/-- The value is below the least normal number after rounding with an unbounded exponent (R155). For stochastic rounding it is the
rounded magnitude that decides. -/
def FpFmt.tiny (f : FpFmt) (rm : Rm) (neg : Bool) (m : Nat) (e : Int) (enc : Nat) : Bool :=
  match rm with
  | .sr _ => decide (enc < 2 ^ f.mbits)
  | _ =>
    let top : Int := e + log2 m
    let least : Int := 1 - (f.bias : Int)
    if least ≤ top then false
    else !(decide (top + 1 = least) && decide ((roundAt rm neg m (top - f.mbits - e)).1 = 2 ^ (f.mbits + 1)))

/-- Rounds a magnitude `m * 2^e`, or with `sticky` one that lies strictly between it and `(m + 1) * 2^e`. -/
def FpFmt.roundMag (f : FpFmt) (rm : Rm) (neg : Bool) (m : Nat) (e : Int) (sticky : Bool) : Rounded :=
  let m' := if sticky then 2 * m + 1 else m
  let e' := if sticky then e - 1 else e
  if m' = 0 then { enc := 0, inexact := false, tiny := false }
  else
    let q := max (e' + log2 m' - f.mbits) f.qmin
    let r := roundAt rm neg m' (q - e')
    let enc := (q - f.qmin).toNat * 2 ^ f.mbits + r.1
    { enc := enc, inexact := r.2, tiny := f.tiny rm neg m' e' enc }

/-- A finite value beyond the greatest one after rounding (R160). -/
def FpFmt.overflow (f : FpFmt) (rm : Rm) (sat neg : Bool) : Nat :=
  match f.top with
  | .none => f.sign neg + f.maxEnc
  | .oneNan => if sat then f.sign neg + f.maxEnc else f.qnan
  | .ieee =>
    let toMax := sat || (match rm with
      | .rtz => true
      | .rup => neg
      | .rdn => !neg
      | _ => false)
    if toMax then f.sign neg + f.maxEnc else f.inf neg

/-- The rounded result and its flags (R155, R156, R160). -/
def FpFmt.round (f : FpFmt) (rm : Rm) (sat neg : Bool) (m : Nat) (e : Int) (sticky : Bool := false) : Nat × Flags :=
  let r := f.roundMag rm neg m e sticky
  if f.maxEnc < r.enc then (f.overflow rm sat neg, flOF ||| flNX)
  else (f.sign neg + r.enc, flIf r.inexact flNX ||| flIf (r.inexact && r.tiny) flUF)

/-! ### Arithmetic (R156, R161) -/

def FpVal.isNan : FpVal → Bool
  | .nan _ => true
  | _ => false
def FpVal.isSnan : FpVal → Bool
  | .nan q => q
  | _ => false

/-- The invalid operation: the canonical NaN with NV. -/
def FpFmt.invalid (f : FpFmt) : Nat × Flags := (f.qnan, flNV)

/-- A NaN result: NV for a signalling operand. -/
def FpFmt.nanOf (f : FpFmt) (xs : List FpVal) : Nat × Flags := (f.qnan, flIf (xs.any FpVal.isSnan) flNV)

/-- `±m` in units of `2^(e - lo)` above `2^lo`. -/
def scaled (neg : Bool) (m : Nat) (e lo : Int) : Int :=
  let x : Int := (m <<< (e - lo).toNat : Nat)
  if neg then -x else x

/-- The exact sum of two finite terms, rounded once; the sign of a zero is that of R156. -/
def FpFmt.sum (f : FpFmt) (rm : Rm) (n1 : Bool) (m1 : Nat) (e1 : Int) (n2 : Bool) (m2 : Nat) (e2 : Int) : Nat × Flags :=
  let lo := min e1 e2
  let x := scaled n1 m1 e1 lo + scaled n2 m2 e2 lo
  if x = 0 then (f.sign (if n1 = n2 then n1 else decide (rm = .rdn)), 0)
  else f.round rm false (decide (x < 0)) x.natAbs lo

/-- The opposite value. -/
def FpVal.neg : FpVal → FpVal
  | .nan q => .nan q
  | .inf n => .inf (!n)
  | .fin n m e => .fin (!n) m e

/-- `x + y`. -/
def FpFmt.add (f : FpFmt) (rm : Rm) (x y : FpVal) : Nat × Flags :=
  match x, y with
  | .fin n1 m1 e1, .fin n2 m2 e2 => f.sum rm n1 m1 e1 n2 m2 e2
  | .inf n1, .inf n2 => if n1 = n2 then (f.inf n1, 0) else f.invalid
  | .inf n, .fin _ _ _ => (f.inf n, 0)
  | .fin _ _ _, .inf n => (f.inf n, 0)
  | _, _ => f.nanOf [x, y]

/-- The product before rounding: a value, or none for 0 × ∞. -/
def mulExact (x y : FpVal) : Option FpVal :=
  match x, y with
  | .fin n1 m1 e1, .fin n2 m2 e2 => some (.fin (n1 ^^ n2) (m1 * m2) (e1 + e2))
  | .inf n1, .inf n2 => some (.inf (n1 ^^ n2))
  | .inf n1, .fin n2 m _ => if m = 0 then none else some (.inf (n1 ^^ n2))
  | .fin n1 m _, .inf n2 => if m = 0 then none else some (.inf (n1 ^^ n2))
  | _, _ => some (.nan (x.isSnan || y.isSnan))

/-- `x * y`. -/
def FpFmt.mul (f : FpFmt) (rm : Rm) (x y : FpVal) : Nat × Flags :=
  match mulExact x y with
  | none => f.invalid
  | some (.fin n m e) => f.round rm false n m e
  | some (.inf n) => (f.inf n, 0)
  | some (.nan q) => (f.qnan, flIf q flNV)

/-- `c + x * y`, or `c - x * y` when `sub` is set, rounded once. -/
def FpFmt.fma (f : FpFmt) (rm : Rm) (sub : Bool) (c x y : FpVal) : Nat × Flags :=
  match mulExact x y with
  | none => f.invalid
  | some p => f.add rm c (if sub then p.neg else p)

/-- The integer square root, by bits `fuel - 1` down to 0. -/
def isqrtBits (n : Nat) : (fuel r : Nat) → Nat
  | 0, r => r
  | i + 1, r => isqrtBits n i (if (r + 2 ^ i) * (r + 2 ^ i) ≤ n then r + 2 ^ i else r)

/-- The integer square root. -/
def isqrt (n : Nat) : Nat := isqrtBits n (log2 n / 2 + 1) 0

/-- `x / y`. -/
def FpFmt.div (f : FpFmt) (rm : Rm) (x y : FpVal) : Nat × Flags :=
  match x, y with
  | .fin n1 m1 e1, .fin n2 m2 e2 =>
    let n := n1 ^^ n2
    if m2 = 0 then (if m1 = 0 then f.invalid else (f.inf n, flDZ))
    else
      let k := f.mbits + 5 + log2 m2
      f.round rm false n ((m1 <<< k) / m2) (e1 - e2 - k) (decide ((m1 <<< k) % m2 ≠ 0))
  | .inf _, .inf _ => f.invalid
  | .inf n1, .fin n2 _ _ => (f.inf (n1 ^^ n2), 0)
  | .fin n1 _ _, .inf n2 => (f.sign (n1 ^^ n2), 0)
  | _, _ => f.nanOf [x, y]

/-- The square root. -/
def FpFmt.sqrt (f : FpFmt) (rm : Rm) (x : FpVal) : Nat × Flags :=
  match x with
  | .fin n m e =>
    if m = 0 then (f.sign n, 0)
    else if n then f.invalid
    else
      let odd := e % 2 = 1
      let k := f.mbits + 5
      let m' := (if odd then 2 * m else m) <<< (2 * k)
      let r := isqrt m'
      f.round rm false false r ((if odd then e - 1 else e) / 2 - k) (decide (r * r ≠ m'))
  | .inf n => if n then f.invalid else (f.inf false, 0)
  | .nan _ => f.nanOf [x]

/-- The value rounded to an integral value (R382). -/
def FpFmt.rint (f : FpFmt) (rm : Rm) (x : FpVal) : Nat × Flags :=
  match x with
  | .fin n m e =>
    let r := roundAt rm n m (-e)
    ((f.round rm false n r.1 0).1, flIf r.2 flNX)
  | .inf n => (f.inf n, 0)
  | .nan _ => f.nanOf [x]

/-! ### Order (R162) -/

/-- The sign of `x - y` for values that are no NaNs. -/
def FpVal.cmp (x y : FpVal) : Int :=
  match x, y with
  | .fin n1 m1 e1, .fin n2 m2 e2 =>
    let lo := min e1 e2
    (scaled n1 m1 e1 lo - scaled n2 m2 e2 lo).sign
  | .inf n1, .inf n2 => if n1 = n2 then 0 else if n1 then -1 else 1
  | .inf n, _ => if n then -1 else 1
  | _, .inf n => if n then 1 else -1
  | _, _ => 0

def FpVal.isNeg : FpVal → Bool
  | .inf n => n
  | .fin n _ _ => n
  | .nan _ => false

/-- `x` comes before `y`, with -0 before +0. -/
def FpVal.before (x y : FpVal) : Bool :=
  decide (x.cmp y < 0) || (decide (x.cmp y = 0) && x.isNeg && !y.isNeg)

/-- Minimum and maximum (R162). `num`: a single NaN gives way to the number. -/
def FpFmt.minmax (f : FpFmt) (max num : Bool) (a b : Nat) : Nat × Flags :=
  let x := f.unpack a
  let y := f.unpack b
  let nv := flIf (x.isSnan || y.isSnan) flNV
  if x.isNan then ((if num && !y.isNan then b else f.qnan), nv)
  else if y.isNan then ((if num then a else f.qnan), nv)
  else ((if max then (if x.before y then b else a) else (if y.before x then b else a)), 0)

/-- The comparisons eq, lt, le and un, with their flags. -/
def FpFmt.compare (f : FpFmt) (cond : Nat) (a b : Nat) : Bool × Flags :=
  let x := f.unpack a
  let y := f.unpack b
  let nan := x.isNan || y.isNan
  let snan := x.isSnan || y.isSnan
  match cond with
  | 0 => (!nan && decide (x.cmp y = 0), flIf snan flNV)
  | 1 => (!nan && decide (x.cmp y < 0), flIf nan flNV)
  | 2 => (!nan && decide (x.cmp y ≤ 0), flIf nan flNV)
  | _ => (nan, flIf snan flNV)

/-- FCLASS (R369). -/
def FpFmt.classify (f : FpFmt) (a : Nat) : Nat :=
  match f.unpack a with
  | .inf n => if n then 2 ^ 0 else 2 ^ 7
  | .nan q => if q then 2 ^ 8 else 2 ^ 9
  | .fin n m _ =>
    if m = 0 then (if n then 2 ^ 3 else 2 ^ 4)
    else if bits a f.mbits f.ebits = 0 then (if n then 2 ^ 2 else 2 ^ 5)
    else (if n then 2 ^ 1 else 2 ^ 6)

/-! ### Conversions (R160) -/

/-- A value converted to a format; `sat` is the `.sat` form. -/
def FpFmt.convert (f : FpFmt) (rm : Rm) (sat : Bool) (x : FpVal) : Nat × Flags :=
  match x with
  | .fin n m e => f.round rm sat n m e
  | .nan q => (f.qnan, flIf (q || decide (f.top = .none)) flNV)
  | .inf n =>
    match f.top with
    | .ieee => if sat then (f.sign n + f.maxEnc, flNX) else (f.inf n, 0)
    | .oneNan => if sat then (f.sign n + f.maxEnc, flNX) else (f.qnan, flNV)
    | .none => (f.sign n + f.maxEnc, flNX)

/-- A value converted to an integer of `lo .. hi`, saturated. -/
def FpVal.toInt (x : FpVal) (rm : Rm) (lo hi : Int) : Int × Flags :=
  match x with
  | .nan _ => (0, flNV)
  | .inf n => (if n then lo else hi, flNV)
  | .fin n m e =>
    let r := roundAt rm n m (-e)
    let v : Int := if n then -(r.1 : Int) else r.1
    if v < lo then (lo, flNV) else if hi < v then (hi, flNV) else (v, flIf r.2 flNX)

/-- An integer converted to a format. -/
def FpFmt.ofInt (f : FpFmt) (rm : Rm) (x : Int) : Nat × Flags := f.round rm false (decide (x < 0)) x.natAbs 0

end Sys2Proof.Machine
end

