-- ==== Sys2Proof/Decode.lean ====
section
/-! DEFINITION. Decoding (R21-R24, R323, R324): bytes to one instruction and the rest, total, each refusal by name; and the
encoder, from the same encoding tables. A word that the opcode map assigns and its `Instr` determine each other. -/

namespace Sys2Proof

open Sys2Proof.Machine

/-- Why bytes are no instruction. -/
inductive DecodeError where
  /-- Fewer than four bytes. -/
  | truncated
  /-- Major 0x00 (R323). -/
  | majorZero
  /-- A reserved major (R323). -/
  | reservedMajor
  /-- An unassigned function code of an assigned major (R324), or a name above xa7 in XACQ or XREL (R167). -/
  | unassignedFunction
  deriving DecidableEq, Repr

/-- The field of a word from bit `lo` on, `len` bits wide. -/
def fieldAt (n lo : Nat) (len : Nat) : BitVec len := BitVec.ofNat len (bits n lo len)

/-- Major 0x01. -/
def decodeIntR (n : Nat) : Except DecodeError Instr :=
  if bits n 0 6 = 0 then .ok (.add (fieldAt n 20 6) (fieldAt n 14 6) (fieldAt n 8 6) (fieldAt n 7 1) (fieldAt n 6 1))
  else if bits n 0 6 = 1 then .ok (.sub (fieldAt n 20 6) (fieldAt n 14 6) (fieldAt n 8 6) (fieldAt n 7 1) (fieldAt n 6 1))
  else if bits n 0 6 = 2 then .ok (.and (fieldAt n 20 6) (fieldAt n 14 6) (fieldAt n 8 6) (fieldAt n 7 1) (fieldAt n 6 1))
  else if bits n 0 6 = 3 then .ok (.or (fieldAt n 20 6) (fieldAt n 14 6) (fieldAt n 8 6) (fieldAt n 7 1) (fieldAt n 6 1))
  else if bits n 0 6 = 4 then .ok (.xor (fieldAt n 20 6) (fieldAt n 14 6) (fieldAt n 8 6) (fieldAt n 7 1) (fieldAt n 6 1))
  else if bits n 0 6 = 5 then .ok (.andn (fieldAt n 20 6) (fieldAt n 14 6) (fieldAt n 8 6) (fieldAt n 7 1) (fieldAt n 6 1))
  else if bits n 0 6 = 6 then .ok (.shl (fieldAt n 20 6) (fieldAt n 14 6) (fieldAt n 8 6) (fieldAt n 7 1) (fieldAt n 6 1))
  else if bits n 0 6 = 7 then .ok (.shr (fieldAt n 20 6) (fieldAt n 14 6) (fieldAt n 8 6) (fieldAt n 7 1) (fieldAt n 6 1))
  else if bits n 0 6 = 8 then .ok (.sra (fieldAt n 20 6) (fieldAt n 14 6) (fieldAt n 8 6) (fieldAt n 7 1) (fieldAt n 6 1))
  else if bits n 0 6 = 9 then .ok (.rot (fieldAt n 20 6) (fieldAt n 14 6) (fieldAt n 8 6) (fieldAt n 7 1) (fieldAt n 6 1))
  else if bits n 0 6 = 10 then .ok (.min (fieldAt n 20 6) (fieldAt n 14 6) (fieldAt n 8 6) (fieldAt n 7 1) (fieldAt n 6 1))
  else if bits n 0 6 = 11 then .ok (.minU (fieldAt n 20 6) (fieldAt n 14 6) (fieldAt n 8 6) (fieldAt n 7 1) (fieldAt n 6 1))
  else if bits n 0 6 = 12 then .ok (.max (fieldAt n 20 6) (fieldAt n 14 6) (fieldAt n 8 6) (fieldAt n 7 1) (fieldAt n 6 1))
  else if bits n 0 6 = 13 then .ok (.maxU (fieldAt n 20 6) (fieldAt n 14 6) (fieldAt n 8 6) (fieldAt n 7 1) (fieldAt n 6 1))
  else if bits n 0 6 = 14 then .ok (.sel (fieldAt n 20 6) (fieldAt n 14 6) (fieldAt n 8 6) (fieldAt n 7 1) (fieldAt n 6 1))
  else if bits n 3 3 = 2 ∧ bits n 0 3 < 6 then .ok (.cmp (fieldAt n 20 6) (fieldAt n 14 6) (fieldAt n 8 6) (fieldAt n 7 1) (fieldAt n 6 1) (fieldAt n 0 3))
  else if bits n 0 6 = 24 then .ok (.clz (fieldAt n 20 6) (fieldAt n 14 6) (fieldAt n 8 6) (fieldAt n 7 1) (fieldAt n 6 1))
  else if bits n 0 6 = 25 then .ok (.ctz (fieldAt n 20 6) (fieldAt n 14 6) (fieldAt n 8 6) (fieldAt n 7 1) (fieldAt n 6 1))
  else if bits n 0 6 = 26 then .ok (.popc (fieldAt n 20 6) (fieldAt n 14 6) (fieldAt n 8 6) (fieldAt n 7 1) (fieldAt n 6 1))
  else if bits n 0 6 = 28 then .ok (.ext (fieldAt n 20 6) (fieldAt n 14 6) (fieldAt n 8 6) (fieldAt n 7 1) (fieldAt n 6 1))
  else if bits n 0 6 = 29 then .ok (.ins (fieldAt n 20 6) (fieldAt n 14 6) (fieldAt n 8 6) (fieldAt n 7 1) (fieldAt n 6 1))
  else if bits n 0 6 = 32 then .ok (.addW (fieldAt n 20 6) (fieldAt n 14 6) (fieldAt n 8 6) (fieldAt n 7 1) (fieldAt n 6 1))
  else if bits n 0 6 = 33 then .ok (.subW (fieldAt n 20 6) (fieldAt n 14 6) (fieldAt n 8 6) (fieldAt n 7 1) (fieldAt n 6 1))
  else if bits n 0 6 = 38 then .ok (.shlW (fieldAt n 20 6) (fieldAt n 14 6) (fieldAt n 8 6) (fieldAt n 7 1) (fieldAt n 6 1))
  else if bits n 0 6 = 39 then .ok (.shrW (fieldAt n 20 6) (fieldAt n 14 6) (fieldAt n 8 6) (fieldAt n 7 1) (fieldAt n 6 1))
  else if bits n 0 6 = 40 then .ok (.sraW (fieldAt n 20 6) (fieldAt n 14 6) (fieldAt n 8 6) (fieldAt n 7 1) (fieldAt n 6 1))
  else .error .unassignedFunction

/-- Major 0x02. -/
def decodeMulDiv (n : Nat) : Except DecodeError Instr :=
  if bits n 0 6 = 0 then .ok (.mul (fieldAt n 20 6) (fieldAt n 14 6) (fieldAt n 8 6) (fieldAt n 7 1) (fieldAt n 6 1))
  else if bits n 0 6 = 1 then .ok (.mulh (fieldAt n 20 6) (fieldAt n 14 6) (fieldAt n 8 6) (fieldAt n 7 1) (fieldAt n 6 1))
  else if bits n 0 6 = 2 then .ok (.mulhU (fieldAt n 20 6) (fieldAt n 14 6) (fieldAt n 8 6) (fieldAt n 7 1) (fieldAt n 6 1))
  else if bits n 0 6 = 3 then .ok (.mulhSu (fieldAt n 20 6) (fieldAt n 14 6) (fieldAt n 8 6) (fieldAt n 7 1) (fieldAt n 6 1))
  else if bits n 0 6 = 4 then .ok (.div (fieldAt n 20 6) (fieldAt n 14 6) (fieldAt n 8 6) (fieldAt n 7 1) (fieldAt n 6 1))
  else if bits n 0 6 = 5 then .ok (.divU (fieldAt n 20 6) (fieldAt n 14 6) (fieldAt n 8 6) (fieldAt n 7 1) (fieldAt n 6 1))
  else if bits n 0 6 = 6 then .ok (.rem (fieldAt n 20 6) (fieldAt n 14 6) (fieldAt n 8 6) (fieldAt n 7 1) (fieldAt n 6 1))
  else if bits n 0 6 = 7 then .ok (.remU (fieldAt n 20 6) (fieldAt n 14 6) (fieldAt n 8 6) (fieldAt n 7 1) (fieldAt n 6 1))
  else if bits n 0 6 = 8 then .ok (.mulW (fieldAt n 20 6) (fieldAt n 14 6) (fieldAt n 8 6) (fieldAt n 7 1) (fieldAt n 6 1))
  else .error .unassignedFunction

/-- Major 0x07. -/
def decodeShiftImm (n : Nat) : Except DecodeError Instr :=
  if bits n 11 2 = 0 then .ok (.shlImm (fieldAt n 20 6) (fieldAt n 14 6) (fieldAt n 13 1) (fieldAt n 6 5) (fieldAt n 0 6))
  else if bits n 11 2 = 1 then .ok (.shrImm (fieldAt n 20 6) (fieldAt n 14 6) (fieldAt n 13 1) (fieldAt n 6 5) (fieldAt n 0 6))
  else if bits n 11 2 = 2 then .ok (.sraImm (fieldAt n 20 6) (fieldAt n 14 6) (fieldAt n 13 1) (fieldAt n 6 5) (fieldAt n 0 6))
  else if bits n 11 2 = 3 then .ok (.rotImm (fieldAt n 20 6) (fieldAt n 14 6) (fieldAt n 13 1) (fieldAt n 6 5) (fieldAt n 0 6))
  else .error .unassignedFunction

/-- Major 0x14. -/
def decodeAmo (n : Nat) : Except DecodeError Instr :=
  if bits n 0 4 < 9 then .ok (.amo (fieldAt n 20 6) (fieldAt n 14 6) (fieldAt n 8 6) (fieldAt n 7 1) (fieldAt n 6 1) (fieldAt n 5 1) (fieldAt n 4 1) (fieldAt n 0 4))
  else .error .unassignedFunction

/-- Major 0x15. -/
def decodeCas (n : Nat) : Except DecodeError Instr :=
  if bits n 1 4 = 0 then .ok (.cas (fieldAt n 20 6) (fieldAt n 14 6) (fieldAt n 8 6) (fieldAt n 7 1) (fieldAt n 6 1) (fieldAt n 5 1) (fieldAt n 0 1))
  else .error .unassignedFunction

/-- Major 0x16. -/
def decodeTag (n : Nat) : Except DecodeError Instr :=
  if bits n 0 6 = 0 then .ok (.tagrd (fieldAt n 20 6) (fieldAt n 14 6) (fieldAt n 8 6) (fieldAt n 7 1) (fieldAt n 6 1))
  else if bits n 0 6 = 1 then .ok (.tagset (fieldAt n 20 6) (fieldAt n 14 6) (fieldAt n 8 6) (fieldAt n 7 1) (fieldAt n 6 1))
  else if bits n 0 6 = 2 then .ok (.watch (fieldAt n 20 6) (fieldAt n 14 6) (fieldAt n 8 6) (fieldAt n 7 1) (fieldAt n 6 1))
  else if bits n 0 6 = 3 then .ok (.unwatch (fieldAt n 20 6) (fieldAt n 14 6) (fieldAt n 8 6) (fieldAt n 7 1) (fieldAt n 6 1))
  else .error .unassignedFunction

/-- Major 0x17. -/
def decodeFenceHeap (n : Nat) : Except DecodeError Instr :=
  if bits n 0 6 = 0 then .ok (.fenceT (fieldAt n 20 6) (fieldAt n 14 6) (fieldAt n 8 6) (fieldAt n 7 1) (fieldAt n 6 1))
  else if bits n 0 6 = 1 then .ok (.fenceD (fieldAt n 20 6) (fieldAt n 14 6) (fieldAt n 8 6) (fieldAt n 7 1) (fieldAt n 6 1))
  else if bits n 0 6 = 2 then .ok (.fenceS (fieldAt n 20 6) (fieldAt n 14 6) (fieldAt n 8 6) (fieldAt n 7 1) (fieldAt n 6 1))
  else if bits n 0 6 = 4 then .ok (.halloc (fieldAt n 20 6) (fieldAt n 14 6) (fieldAt n 8 6) (fieldAt n 7 1) (fieldAt n 6 1))
  else if bits n 0 6 = 5 then .ok (.hallocNf (fieldAt n 20 6) (fieldAt n 14 6) (fieldAt n 8 6) (fieldAt n 7 1) (fieldAt n 6 1))
  else if bits n 0 6 = 6 then .ok (.hfree (fieldAt n 20 6) (fieldAt n 14 6) (fieldAt n 8 6) (fieldAt n 7 1) (fieldAt n 6 1))
  else .error .unassignedFunction

/-- Major 0x1D. -/
def decodeFpA (n : Nat) : Except DecodeError Instr :=
  if bits n 2 4 = 0 then .ok (.fadd (fieldAt n 20 6) (fieldAt n 14 6) (fieldAt n 8 6) (fieldAt n 7 1) (fieldAt n 6 1) (fieldAt n 0 2))
  else if bits n 2 4 = 1 then .ok (.fsub (fieldAt n 20 6) (fieldAt n 14 6) (fieldAt n 8 6) (fieldAt n 7 1) (fieldAt n 6 1) (fieldAt n 0 2))
  else if bits n 2 4 = 2 then .ok (.fmul (fieldAt n 20 6) (fieldAt n 14 6) (fieldAt n 8 6) (fieldAt n 7 1) (fieldAt n 6 1) (fieldAt n 0 2))
  else if bits n 2 4 = 3 then .ok (.fma (fieldAt n 20 6) (fieldAt n 14 6) (fieldAt n 8 6) (fieldAt n 7 1) (fieldAt n 6 1) (fieldAt n 0 2))
  else if bits n 2 4 = 4 then .ok (.fmaN (fieldAt n 20 6) (fieldAt n 14 6) (fieldAt n 8 6) (fieldAt n 7 1) (fieldAt n 6 1) (fieldAt n 0 2))
  else if bits n 2 4 = 5 then .ok (.fdiv (fieldAt n 20 6) (fieldAt n 14 6) (fieldAt n 8 6) (fieldAt n 7 1) (fieldAt n 6 1) (fieldAt n 0 2))
  else if bits n 2 4 = 6 then .ok (.fsqrt (fieldAt n 20 6) (fieldAt n 14 6) (fieldAt n 8 6) (fieldAt n 7 1) (fieldAt n 6 1) (fieldAt n 0 2))
  else if bits n 2 4 = 7 then .ok (.fmin (fieldAt n 20 6) (fieldAt n 14 6) (fieldAt n 8 6) (fieldAt n 7 1) (fieldAt n 6 1) (fieldAt n 0 2))
  else if bits n 2 4 = 8 then .ok (.fmax (fieldAt n 20 6) (fieldAt n 14 6) (fieldAt n 8 6) (fieldAt n 7 1) (fieldAt n 6 1) (fieldAt n 0 2))
  else if bits n 2 4 = 9 then .ok (.fminn (fieldAt n 20 6) (fieldAt n 14 6) (fieldAt n 8 6) (fieldAt n 7 1) (fieldAt n 6 1) (fieldAt n 0 2))
  else if bits n 2 4 = 10 then .ok (.fmaxn (fieldAt n 20 6) (fieldAt n 14 6) (fieldAt n 8 6) (fieldAt n 7 1) (fieldAt n 6 1) (fieldAt n 0 2))
  else if bits n 2 4 = 11 then .ok (.fsgnJ (fieldAt n 20 6) (fieldAt n 14 6) (fieldAt n 8 6) (fieldAt n 7 1) (fieldAt n 6 1) (fieldAt n 0 2))
  else if bits n 2 4 = 12 then .ok (.fsgnN (fieldAt n 20 6) (fieldAt n 14 6) (fieldAt n 8 6) (fieldAt n 7 1) (fieldAt n 6 1) (fieldAt n 0 2))
  else if bits n 2 4 = 13 then .ok (.fsgnX (fieldAt n 20 6) (fieldAt n 14 6) (fieldAt n 8 6) (fieldAt n 7 1) (fieldAt n 6 1) (fieldAt n 0 2))
  else if bits n 2 4 = 14 then .ok (.fclass (fieldAt n 20 6) (fieldAt n 14 6) (fieldAt n 8 6) (fieldAt n 7 1) (fieldAt n 6 1) (fieldAt n 0 2))
  else if bits n 2 4 = 15 then .ok (.frnd (fieldAt n 20 6) (fieldAt n 14 6) (fieldAt n 8 6) (fieldAt n 7 1) (fieldAt n 6 1) (fieldAt n 0 2))
  else .error .unassignedFunction

/-- Major 0x1E. -/
def decodeFpC (n : Nat) : Except DecodeError Instr :=
  if bits n 4 2 = 0 then .ok (.fcmp (fieldAt n 20 6) (fieldAt n 14 6) (fieldAt n 8 6) (fieldAt n 7 1) (fieldAt n 6 1) (fieldAt n 2 2) (fieldAt n 0 2))
  else if bits n 2 4 = 4 then .ok (.fcvt (fieldAt n 20 6) (fieldAt n 14 6) (fieldAt n 13 1) (fieldAt n 10 3) (fieldAt n 8 2) (fieldAt n 7 1) (fieldAt n 6 1) (fieldAt n 0 2))
  else if bits n 2 4 = 5 then .ok (.fcvti (fieldAt n 20 6) (fieldAt n 14 6) (fieldAt n 8 6) (fieldAt n 7 1) (fieldAt n 6 1) (fieldAt n 0 2))
  else if bits n 2 4 = 6 then .ok (.fcvtiU (fieldAt n 20 6) (fieldAt n 14 6) (fieldAt n 8 6) (fieldAt n 7 1) (fieldAt n 6 1) (fieldAt n 0 2))
  else if bits n 2 4 = 8 then .ok (.icvtf (fieldAt n 20 6) (fieldAt n 14 6) (fieldAt n 8 6) (fieldAt n 7 1) (fieldAt n 6 1) (fieldAt n 0 2))
  else if bits n 2 4 = 9 then .ok (.icvtfU (fieldAt n 20 6) (fieldAt n 14 6) (fieldAt n 8 6) (fieldAt n 7 1) (fieldAt n 6 1) (fieldAt n 0 2))
  else .error .unassignedFunction

/-- Major 0x20. -/
def decodeVecF (n : Nat) : Except DecodeError Instr :=
  if bits n 2 4 = 0 then .ok (.vaddF (fieldAt n 20 6) (fieldAt n 14 6) (fieldAt n 8 6) (fieldAt n 7 1) (fieldAt n 6 1) (fieldAt n 0 2))
  else if bits n 2 4 = 1 then .ok (.vsubF (fieldAt n 20 6) (fieldAt n 14 6) (fieldAt n 8 6) (fieldAt n 7 1) (fieldAt n 6 1) (fieldAt n 0 2))
  else if bits n 2 4 = 2 then .ok (.vmulF (fieldAt n 20 6) (fieldAt n 14 6) (fieldAt n 8 6) (fieldAt n 7 1) (fieldAt n 6 1) (fieldAt n 0 2))
  else if bits n 2 4 = 3 then .ok (.vfma (fieldAt n 20 6) (fieldAt n 14 6) (fieldAt n 8 6) (fieldAt n 7 1) (fieldAt n 6 1) (fieldAt n 0 2))
  else if bits n 2 4 = 4 then .ok (.vfmaN (fieldAt n 20 6) (fieldAt n 14 6) (fieldAt n 8 6) (fieldAt n 7 1) (fieldAt n 6 1) (fieldAt n 0 2))
  else if bits n 2 4 = 5 then .ok (.vminF (fieldAt n 20 6) (fieldAt n 14 6) (fieldAt n 8 6) (fieldAt n 7 1) (fieldAt n 6 1) (fieldAt n 0 2))
  else if bits n 2 4 = 6 then .ok (.vmaxF (fieldAt n 20 6) (fieldAt n 14 6) (fieldAt n 8 6) (fieldAt n 7 1) (fieldAt n 6 1) (fieldAt n 0 2))
  else if bits n 2 4 = 7 then .ok (.vminn (fieldAt n 20 6) (fieldAt n 14 6) (fieldAt n 8 6) (fieldAt n 7 1) (fieldAt n 6 1) (fieldAt n 0 2))
  else if bits n 2 4 = 8 then .ok (.vmaxn (fieldAt n 20 6) (fieldAt n 14 6) (fieldAt n 8 6) (fieldAt n 7 1) (fieldAt n 6 1) (fieldAt n 0 2))
  else if bits n 2 4 = 9 then .ok (.vcmpEqF (fieldAt n 20 6) (fieldAt n 14 6) (fieldAt n 8 6) (fieldAt n 7 1) (fieldAt n 6 1) (fieldAt n 0 2))
  else if bits n 2 4 = 10 then .ok (.vcmpLtF (fieldAt n 20 6) (fieldAt n 14 6) (fieldAt n 8 6) (fieldAt n 7 1) (fieldAt n 6 1) (fieldAt n 0 2))
  else if bits n 2 4 = 11 then .ok (.vcmpLeF (fieldAt n 20 6) (fieldAt n 14 6) (fieldAt n 8 6) (fieldAt n 7 1) (fieldAt n 6 1) (fieldAt n 0 2))
  else if bits n 2 4 = 12 then .ok (.vselF (fieldAt n 20 6) (fieldAt n 14 6) (fieldAt n 8 6) (fieldAt n 7 1) (fieldAt n 6 1) (fieldAt n 0 2))
  else if bits n 2 4 = 13 then .ok (.vred (fieldAt n 20 6) (fieldAt n 14 6) (fieldAt n 8 6) (fieldAt n 7 1) (fieldAt n 6 1) (fieldAt n 0 2))
  else if bits n 2 4 = 14 then .ok (.vredMax (fieldAt n 20 6) (fieldAt n 14 6) (fieldAt n 8 6) (fieldAt n 7 1) (fieldAt n 6 1) (fieldAt n 0 2))
  else if bits n 2 4 = 15 then .ok (.vredMin (fieldAt n 20 6) (fieldAt n 14 6) (fieldAt n 8 6) (fieldAt n 7 1) (fieldAt n 6 1) (fieldAt n 0 2))
  else .error .unassignedFunction

/-- Major 0x21. -/
def decodeVecI (n : Nat) : Except DecodeError Instr :=
  if bits n 2 4 = 0 then .ok (.vaddI (fieldAt n 20 6) (fieldAt n 14 6) (fieldAt n 8 6) (fieldAt n 7 1) (fieldAt n 6 1) (fieldAt n 0 2))
  else if bits n 2 4 = 1 then .ok (.vsubI (fieldAt n 20 6) (fieldAt n 14 6) (fieldAt n 8 6) (fieldAt n 7 1) (fieldAt n 6 1) (fieldAt n 0 2))
  else if bits n 2 4 = 2 then .ok (.vmulI (fieldAt n 20 6) (fieldAt n 14 6) (fieldAt n 8 6) (fieldAt n 7 1) (fieldAt n 6 1) (fieldAt n 0 2))
  else if bits n 2 4 = 3 then .ok (.vminI (fieldAt n 20 6) (fieldAt n 14 6) (fieldAt n 8 6) (fieldAt n 7 1) (fieldAt n 6 1) (fieldAt n 0 2))
  else if bits n 2 4 = 4 then .ok (.vmaxI (fieldAt n 20 6) (fieldAt n 14 6) (fieldAt n 8 6) (fieldAt n 7 1) (fieldAt n 6 1) (fieldAt n 0 2))
  else if bits n 2 4 = 5 then .ok (.vand (fieldAt n 20 6) (fieldAt n 14 6) (fieldAt n 8 6) (fieldAt n 7 1) (fieldAt n 6 1) (fieldAt n 0 2))
  else if bits n 2 4 = 6 then .ok (.vor (fieldAt n 20 6) (fieldAt n 14 6) (fieldAt n 8 6) (fieldAt n 7 1) (fieldAt n 6 1) (fieldAt n 0 2))
  else if bits n 2 4 = 7 then .ok (.vxor (fieldAt n 20 6) (fieldAt n 14 6) (fieldAt n 8 6) (fieldAt n 7 1) (fieldAt n 6 1) (fieldAt n 0 2))
  else if bits n 2 4 = 8 then .ok (.vshl (fieldAt n 20 6) (fieldAt n 14 6) (fieldAt n 8 6) (fieldAt n 7 1) (fieldAt n 6 1) (fieldAt n 0 2))
  else if bits n 2 4 = 9 then .ok (.vshr (fieldAt n 20 6) (fieldAt n 14 6) (fieldAt n 8 6) (fieldAt n 7 1) (fieldAt n 6 1) (fieldAt n 0 2))
  else if bits n 2 4 = 10 then .ok (.vshrA (fieldAt n 20 6) (fieldAt n 14 6) (fieldAt n 8 6) (fieldAt n 7 1) (fieldAt n 6 1) (fieldAt n 0 2))
  else if bits n 2 4 = 11 then .ok (.vcmpEqI (fieldAt n 20 6) (fieldAt n 14 6) (fieldAt n 8 6) (fieldAt n 7 1) (fieldAt n 6 1) (fieldAt n 0 2))
  else if bits n 2 4 = 12 then .ok (.vcmpLtI (fieldAt n 20 6) (fieldAt n 14 6) (fieldAt n 8 6) (fieldAt n 7 1) (fieldAt n 6 1) (fieldAt n 0 2))
  else if bits n 2 4 = 13 then .ok (.vselI (fieldAt n 20 6) (fieldAt n 14 6) (fieldAt n 8 6) (fieldAt n 7 1) (fieldAt n 6 1) (fieldAt n 0 2))
  else if bits n 2 4 = 14 then .ok (.vredW (fieldAt n 20 6) (fieldAt n 14 6) (fieldAt n 8 6) (fieldAt n 7 1) (fieldAt n 6 1) (fieldAt n 0 2))
  else .error .unassignedFunction

/-- Major 0x22. -/
def decodeVecX (n : Nat) : Except DecodeError Instr :=
  if bits n 4 2 = 0 then .ok (.vcvt (fieldAt n 20 6) (fieldAt n 14 6) (fieldAt n 12 2) (fieldAt n 8 4) (fieldAt n 7 1) (fieldAt n 6 1) (fieldAt n 0 4))
  else if bits n 4 2 = 3 then .ok (.vcvtSat (fieldAt n 20 6) (fieldAt n 14 6) (fieldAt n 12 2) (fieldAt n 8 4) (fieldAt n 7 1) (fieldAt n 6 1) (fieldAt n 0 4))
  else if bits n 4 2 = 1 ∧ bits n 0 4 < 6 then .ok (.vperm (fieldAt n 20 6) (fieldAt n 14 6) (fieldAt n 8 6) (fieldAt n 7 1) (fieldAt n 6 1) (fieldAt n 0 4))
  else if bits n 4 2 = 2 ∧ bits n 0 4 < 8 then .ok (.vsf (fieldAt n 20 6) (fieldAt n 14 6) (fieldAt n 10 4) (fieldAt n 8 2) (fieldAt n 7 1) (fieldAt n 6 1) (fieldAt n 0 4))
  else .error .unassignedFunction

/-- Major 0x24. -/
def decodeExact (n : Nat) : Except DecodeError Instr :=
  if bits n 0 3 = 0 then .ok (.xclr (fieldAt n 20 6) (fieldAt n 14 6) (fieldAt n 8 6) (fieldAt n 7 1) (fieldAt n 6 1) (fieldAt n 3 3))
  else if bits n 0 3 = 1 then .ok (.xfma (fieldAt n 20 6) (fieldAt n 14 6) (fieldAt n 8 6) (fieldAt n 7 1) (fieldAt n 6 1) (fieldAt n 3 3))
  else if bits n 0 3 = 2 then .ok (.xfmaN (fieldAt n 20 6) (fieldAt n 14 6) (fieldAt n 8 6) (fieldAt n 7 1) (fieldAt n 6 1) (fieldAt n 3 3))
  else if bits n 0 3 = 3 then .ok (.xadd (fieldAt n 20 6) (fieldAt n 14 6) (fieldAt n 8 6) (fieldAt n 7 1) (fieldAt n 6 1) (fieldAt n 3 3))
  else if bits n 0 3 = 4 then .ok (.xrnd (fieldAt n 20 6) (fieldAt n 14 6) (fieldAt n 8 6) (fieldAt n 7 1) (fieldAt n 6 1) (fieldAt n 3 3))
  else if bits n 0 3 = 5 then .ok (.xsgn (fieldAt n 20 6) (fieldAt n 14 6) (fieldAt n 8 6) (fieldAt n 7 1) (fieldAt n 6 1) (fieldAt n 3 3))
  else if bits n 0 3 = 6 then .ok (.xrdw (fieldAt n 20 6) (fieldAt n 14 6) (fieldAt n 8 6) (fieldAt n 7 1) (fieldAt n 6 1) (fieldAt n 3 3))
  else if bits n 0 3 = 7 then .ok (.xwrw (fieldAt n 20 6) (fieldAt n 14 6) (fieldAt n 8 6) (fieldAt n 7 1) (fieldAt n 6 1) (fieldAt n 3 3))
  else .error .unassignedFunction

/-- Major 0x25. -/
def decodeAcquire (n : Nat) : Except DecodeError Instr :=
  if bits n 0 6 = 0 ∧ bits n 20 6 < 8 then .ok (.xacq (fieldAt n 20 6) (fieldAt n 14 6) (fieldAt n 8 6) (fieldAt n 7 1) (fieldAt n 6 1))
  else if bits n 0 6 = 1 ∧ bits n 20 6 < 8 then .ok (.xrel (fieldAt n 20 6) (fieldAt n 14 6) (fieldAt n 8 6) (fieldAt n 7 1) (fieldAt n 6 1))
  else .error .unassignedFunction

/-- Major 0x28. -/
def decodeThread (n : Nat) : Except DecodeError Instr :=
  if bits n 0 6 = 0 then .ok (.spawn (fieldAt n 20 6) (fieldAt n 14 6) (fieldAt n 8 6) (fieldAt n 7 1) (fieldAt n 6 1))
  else if bits n 0 6 = 1 then .ok (.spawnF (fieldAt n 20 6) (fieldAt n 14 6) (fieldAt n 8 6) (fieldAt n 7 1) (fieldAt n 6 1))
  else if bits n 0 6 = 2 then .ok (.quit (fieldAt n 20 6) (fieldAt n 14 6) (fieldAt n 8 6) (fieldAt n 7 1) (fieldAt n 6 1))
  else if bits n 0 6 = 3 then .ok (.quitF (fieldAt n 20 6) (fieldAt n 14 6) (fieldAt n 8 6) (fieldAt n 7 1) (fieldAt n 6 1))
  else if bits n 0 6 = 4 then .ok (.quitD (fieldAt n 20 6) (fieldAt n 14 6) (fieldAt n 8 6) (fieldAt n 7 1) (fieldAt n 6 1))
  else if bits n 0 6 = 5 then .ok (.dqpush (fieldAt n 20 6) (fieldAt n 14 6) (fieldAt n 8 6) (fieldAt n 7 1) (fieldAt n 6 1))
  else if bits n 0 6 = 6 then .ok (.dqpop (fieldAt n 20 6) (fieldAt n 14 6) (fieldAt n 8 6) (fieldAt n 7 1) (fieldAt n 6 1))
  else if bits n 0 6 = 7 then .ok (.yield (fieldAt n 20 6) (fieldAt n 14 6) (fieldAt n 8 6) (fieldAt n 7 1) (fieldAt n 6 1))
  else if bits n 0 6 = 8 then .ok (.gnew (fieldAt n 20 6) (fieldAt n 14 6) (fieldAt n 8 6) (fieldAt n 7 1) (fieldAt n 6 1))
  else if bits n 0 6 = 9 then .ok (.gjoin (fieldAt n 20 6) (fieldAt n 14 6) (fieldAt n 8 6) (fieldAt n 7 1) (fieldAt n 6 1))
  else if bits n 0 6 = 10 then .ok (.gleave (fieldAt n 20 6) (fieldAt n 14 6) (fieldAt n 8 6) (fieldAt n 7 1) (fieldAt n 6 1))
  else if bits n 0 6 = 11 then .ok (.gbar (fieldAt n 20 6) (fieldAt n 14 6) (fieldAt n 8 6) (fieldAt n 7 1) (fieldAt n 6 1))
  else if bits n 0 6 = 12 then .ok (.gend (fieldAt n 20 6) (fieldAt n 14 6) (fieldAt n 8 6) (fieldAt n 7 1) (fieldAt n 6 1))
  else .error .unassignedFunction

/-- Major 0x29. -/
def decodeStream (n : Nat) : Except DecodeError Instr :=
  if bits n 0 6 = 0 then .ok (.msend (fieldAt n 20 6) (fieldAt n 14 6) (fieldAt n 8 6) (fieldAt n 7 1) (fieldAt n 6 1))
  else if bits n 0 6 = 1 then .ok (.mwait (fieldAt n 20 6) (fieldAt n 14 6) (fieldAt n 8 6) (fieldAt n 7 1) (fieldAt n 6 1))
  else if bits n 0 6 = 2 then .ok (.lcfg (fieldAt n 20 6) (fieldAt n 14 6) (fieldAt n 8 6) (fieldAt n 7 1) (fieldAt n 6 1))
  else if bits n 0 6 = 3 then .ok (.stab (fieldAt n 20 6) (fieldAt n 14 6) (fieldAt n 8 6) (fieldAt n 7 1) (fieldAt n 6 1))
  else if bits n 0 6 = 4 then .ok (.sbind (fieldAt n 20 6) (fieldAt n 14 6) (fieldAt n 8 6) (fieldAt n 7 1) (fieldAt n 6 1))
  else if bits n 0 6 = 5 then .ok (.sskip (fieldAt n 20 6) (fieldAt n 14 6) (fieldAt n 8 6) (fieldAt n 7 1) (fieldAt n 6 1))
  else if bits n 0 6 = 6 then .ok (.spos (fieldAt n 20 6) (fieldAt n 14 6) (fieldAt n 8 6) (fieldAt n 7 1) (fieldAt n 6 1))
  else .error .unassignedFunction

/-- Major 0x2A. -/
def decodeEngine (n : Nat) : Except DecodeError Instr :=
  if bits n 0 6 = 0 then .ok (.cpygo (fieldAt n 20 6) (fieldAt n 14 6) (fieldAt n 8 6) (fieldAt n 7 1) (fieldAt n 6 1))
  else if bits n 0 6 = 1 then .ok (.cpygoNc (fieldAt n 20 6) (fieldAt n 14 6) (fieldAt n 8 6) (fieldAt n 7 1) (fieldAt n 6 1))
  else if bits n 0 6 = 2 then .ok (.cpyst (fieldAt n 20 6) (fieldAt n 14 6) (fieldAt n 8 6) (fieldAt n 7 1) (fieldAt n 6 1))
  else if bits n 0 6 = 3 then .ok (.cpycan (fieldAt n 20 6) (fieldAt n 14 6) (fieldAt n 8 6) (fieldAt n 7 1) (fieldAt n 6 1))
  else if bits n 0 6 = 4 then .ok (.subs (fieldAt n 20 6) (fieldAt n 14 6) (fieldAt n 8 6) (fieldAt n 7 1) (fieldAt n 6 1))
  else if bits n 0 6 = 5 then .ok (.unsubs (fieldAt n 20 6) (fieldAt n 14 6) (fieldAt n 8 6) (fieldAt n 7 1) (fieldAt n 6 1))
  else if bits n 0 6 = 8 then .ok (.gath (fieldAt n 20 6) (fieldAt n 14 6) (fieldAt n 8 6) (fieldAt n 7 1) (fieldAt n 6 1))
  else if bits n 0 6 = 9 then .ok (.gathSum (fieldAt n 20 6) (fieldAt n 14 6) (fieldAt n 8 6) (fieldAt n 7 1) (fieldAt n 6 1))
  else if bits n 0 6 = 10 then .ok (.tbsw (fieldAt n 20 6) (fieldAt n 14 6) (fieldAt n 8 6) (fieldAt n 7 1) (fieldAt n 6 1))
  else if bits n 0 6 = 11 then .ok (.tbdrn (fieldAt n 20 6) (fieldAt n 14 6) (fieldAt n 8 6) (fieldAt n 7 1) (fieldAt n 6 1))
  else if bits n 0 6 = 12 then .ok (.ksend (fieldAt n 20 6) (fieldAt n 14 6) (fieldAt n 8 6) (fieldAt n 7 1) (fieldAt n 6 1))
  else if bits n 0 6 = 13 then .ok (.kbin (fieldAt n 20 6) (fieldAt n 14 6) (fieldAt n 8 6) (fieldAt n 7 1) (fieldAt n 6 1))
  else if bits n 0 6 = 14 then .ok (.kflush (fieldAt n 20 6) (fieldAt n 14 6) (fieldAt n 8 6) (fieldAt n 7 1) (fieldAt n 6 1))
  else if bits n 0 6 = 16 then .ok (.rcopy (fieldAt n 20 6) (fieldAt n 14 6) (fieldAt n 8 6) (fieldAt n 7 1) (fieldAt n 6 1))
  else if bits n 0 6 = 17 then .ok (.rzero (fieldAt n 20 6) (fieldAt n 14 6) (fieldAt n 8 6) (fieldAt n 7 1) (fieldAt n 6 1))
  else .error .unassignedFunction

/-- Major 0x2C. -/
def decodeMatrix (n : Nat) : Except DecodeError Instr :=
  if bits n 0 6 = 0 then .ok (.mxcfg (fieldAt n 20 6) (fieldAt n 14 6) (fieldAt n 8 6) (fieldAt n 7 1) (fieldAt n 6 1))
  else if bits n 0 6 = 1 then .ok (.mxgo (fieldAt n 20 6) (fieldAt n 14 6) (fieldAt n 8 6) (fieldAt n 7 1) (fieldAt n 6 1))
  else if bits n 0 6 = 2 then .ok (.mxhnd (fieldAt n 20 6) (fieldAt n 14 6) (fieldAt n 8 6) (fieldAt n 7 1) (fieldAt n 6 1))
  else if bits n 0 6 = 3 then .ok (.mxstat (fieldAt n 20 6) (fieldAt n 14 6) (fieldAt n 8 6) (fieldAt n 7 1) (fieldAt n 6 1))
  else if bits n 0 6 = 4 then .ok (.aclr (fieldAt n 20 6) (fieldAt n 14 6) (fieldAt n 8 6) (fieldAt n 7 1) (fieldAt n 6 1))
  else if bits n 0 6 = 8 then .ok (.fpin (fieldAt n 20 6) (fieldAt n 14 6) (fieldAt n 8 6) (fieldAt n 7 1) (fieldAt n 6 1))
  else if bits n 0 6 = 9 then .ok (.funp (fieldAt n 20 6) (fieldAt n 14 6) (fieldAt n 8 6) (fieldAt n 7 1) (fieldAt n 6 1))
  else if bits n 0 6 = 10 then .ok (.fref (fieldAt n 20 6) (fieldAt n 14 6) (fieldAt n 8 6) (fieldAt n 7 1) (fieldAt n 6 1))
  else if bits n 0 6 = 11 then .ok (.frev (fieldAt n 20 6) (fieldAt n 14 6) (fieldAt n 8 6) (fieldAt n 7 1) (fieldAt n 6 1))
  else if bits n 0 6 = 12 then .ok (.fqry (fieldAt n 20 6) (fieldAt n 14 6) (fieldAt n 8 6) (fieldAt n 7 1) (fieldAt n 6 1))
  else .error .unassignedFunction

/-- Major 0x3C. -/
def decodeSystem (n : Nat) : Except DecodeError Instr :=
  if bits n 0 6 = 0 then .ok (.trap (fieldAt n 20 6) (fieldAt n 14 6) (fieldAt n 8 6) (fieldAt n 7 1) (fieldAt n 6 1))
  else if bits n 0 6 = 1 then .ok (.eret (fieldAt n 20 6) (fieldAt n 14 6) (fieldAt n 8 6) (fieldAt n 7 1) (fieldAt n 6 1))
  else if bits n 0 6 = 2 then .ok (.brk (fieldAt n 20 6) (fieldAt n 14 6) (fieldAt n 8 6) (fieldAt n 7 1) (fieldAt n 6 1))
  else if bits n 0 6 = 3 then .ok (.rpart (fieldAt n 20 6) (fieldAt n 14 6) (fieldAt n 8 6) (fieldAt n 7 1) (fieldAt n 6 1))
  else if bits n 0 6 = 4 then .ok (.xlinv (fieldAt n 20 6) (fieldAt n 14 6) (fieldAt n 8 6) (fieldAt n 7 1) (fieldAt n 6 1))
  else if bits n 0 6 = 5 then .ok (.swat (fieldAt n 20 6) (fieldAt n 14 6) (fieldAt n 8 6) (fieldAt n 7 1) (fieldAt n 6 1))
  else if bits n 0 6 = 6 then .ok (.lend (fieldAt n 20 6) (fieldAt n 14 6) (fieldAt n 8 6) (fieldAt n 7 1) (fieldAt n 6 1))
  else if bits n 0 6 = 7 then .ok (.recall (fieldAt n 20 6) (fieldAt n 14 6) (fieldAt n 8 6) (fieldAt n 7 1) (fieldAt n 6 1))
  else if bits n 0 6 = 8 then .ok (.fack (fieldAt n 20 6) (fieldAt n 14 6) (fieldAt n 8 6) (fieldAt n 7 1) (fieldAt n 6 1))
  else if bits n 0 6 = 9 then .ok (.fackT (fieldAt n 20 6) (fieldAt n 14 6) (fieldAt n 8 6) (fieldAt n 7 1) (fieldAt n 6 1))
  else .error .unassignedFunction

/-- The instruction of a 32-bit word, by its major opcode (R323). -/
def decodeNat (n : Nat) : Except DecodeError Instr :=
  match bits n 26 6 with
  | 0x00 => .error .majorZero
  | 0x01 => decodeIntR n
  | 0x02 => decodeMulDiv n
  | 0x03 => .ok (.addImm (fieldAt n 20 6) (fieldAt n 14 6) (fieldAt n 13 1) (fieldAt n 0 13))
  | 0x04 => .ok (.andImm (fieldAt n 20 6) (fieldAt n 14 6) (fieldAt n 13 1) (fieldAt n 0 13))
  | 0x05 => .ok (.orImm (fieldAt n 20 6) (fieldAt n 14 6) (fieldAt n 13 1) (fieldAt n 0 13))
  | 0x06 => .ok (.xorImm (fieldAt n 20 6) (fieldAt n 14 6) (fieldAt n 13 1) (fieldAt n 0 13))
  | 0x07 => decodeShiftImm n
  | 0x08 => .ok (.cmpImm (fieldAt n 20 6) (fieldAt n 14 6) (fieldAt n 13 1) (fieldAt n 10 3) (fieldAt n 0 10))
  | 0x09 => .ok (.lih (fieldAt n 20 6) (fieldAt n 0 20))
  | 0x0A => .ok (.addpc (fieldAt n 20 6) (fieldAt n 0 20))
  | 0x10 => .ok (.ld (fieldAt n 20 6) (fieldAt n 14 6) (fieldAt n 13 1) (fieldAt n 11 2) (fieldAt n 10 1) (fieldAt n 8 2) (fieldAt n 7 1) (fieldAt n 0 7))
  | 0x11 => .ok (.st (fieldAt n 20 6) (fieldAt n 14 6) (fieldAt n 13 1) (fieldAt n 11 2) (fieldAt n 10 1) (fieldAt n 8 2) (fieldAt n 7 1) (fieldAt n 0 7))
  | 0x12 => .ok (.ldp (fieldAt n 20 6) (fieldAt n 14 6) (fieldAt n 13 1) (fieldAt n 11 2) (fieldAt n 10 1) (fieldAt n 8 2) (fieldAt n 7 1) (fieldAt n 0 7))
  | 0x13 => .ok (.stp (fieldAt n 20 6) (fieldAt n 14 6) (fieldAt n 13 1) (fieldAt n 11 2) (fieldAt n 10 1) (fieldAt n 8 2) (fieldAt n 7 1) (fieldAt n 0 7))
  | 0x14 => decodeAmo n
  | 0x15 => decodeCas n
  | 0x16 => decodeTag n
  | 0x17 => decodeFenceHeap n
  | 0x18 => .ok (.b (fieldAt n 20 6) (fieldAt n 14 6) (fieldAt n 11 3) (fieldAt n 0 11))
  | 0x19 => .ok (.j (fieldAt n 0 26))
  | 0x1A => .ok (.jal (fieldAt n 20 6) (fieldAt n 0 20))
  | 0x1B => .ok (.jalr (fieldAt n 20 6) (fieldAt n 14 6) (fieldAt n 13 1) (fieldAt n 0 13))
  | 0x1C => .ok (.rep (fieldAt n 20 6) (fieldAt n 14 6) (fieldAt n 13 1) (fieldAt n 4 9) (fieldAt n 0 4))
  | 0x1D => decodeFpA n
  | 0x1E => decodeFpC n
  | 0x20 => decodeVecF n
  | 0x21 => decodeVecI n
  | 0x22 => decodeVecX n
  | 0x24 => decodeExact n
  | 0x25 => decodeAcquire n
  | 0x28 => decodeThread n
  | 0x29 => decodeStream n
  | 0x2A => decodeEngine n
  | 0x2C => decodeMatrix n
  | 0x3C => decodeSystem n
  | 0x3D => .ok (.mfsr (fieldAt n 20 6) (fieldAt n 14 6) (fieldAt n 13 1) (fieldAt n 0 13))
  | 0x3E => .ok (.mtsr (fieldAt n 20 6) (fieldAt n 14 6) (fieldAt n 13 1) (fieldAt n 0 13))
  | 0x3F => .ok (.hint (fieldAt n 0 26))
  | _ => .error .reservedMajor

/-- The instruction of a word. -/
def decodeWord (w : InstWord) : Except DecodeError Instr := decodeNat w.toNat

/-- The first instruction of a list of bytes, and the rest; a word is stored little-endian (R21). -/
def decode : List Byte → Except DecodeError (Instr × List Byte)
  | b0 :: b1 :: b2 :: b3 :: rest =>
    match decodeNat (ofBytes [b0, b1, b2, b3]) with
    | .ok i => .ok (i, rest)
    | .error e => .error e
  | _ => .error .truncated

/-- The number of a word: its fixed bits and its fields, each with its low bit. -/
def packNat (base : Nat) : List (Nat × Nat) → Nat
  | [] => base
  | (v, lo) :: rest => v * 2 ^ lo + packNat base rest

/-- A word from its fixed bits and its fields. -/
def packWord (base : Nat) (fields : List (Nat × Nat)) : InstWord := BitVec.ofNat 32 (packNat base fields)

/-- The word of an instruction. The steps of units, firmware and host have no word; they stand here as 0. -/
def encodeWord : Instr → InstWord
  | .add d a b e f => packWord 0x04000000 [(d.toNat, 20), (a.toNat, 14), (b.toNat, 8), (e.toNat, 7), (f.toNat, 6)]
  | .sub d a b e f => packWord 0x04000001 [(d.toNat, 20), (a.toNat, 14), (b.toNat, 8), (e.toNat, 7), (f.toNat, 6)]
  | .and d a b e f => packWord 0x04000002 [(d.toNat, 20), (a.toNat, 14), (b.toNat, 8), (e.toNat, 7), (f.toNat, 6)]
  | .or d a b e f => packWord 0x04000003 [(d.toNat, 20), (a.toNat, 14), (b.toNat, 8), (e.toNat, 7), (f.toNat, 6)]
  | .xor d a b e f => packWord 0x04000004 [(d.toNat, 20), (a.toNat, 14), (b.toNat, 8), (e.toNat, 7), (f.toNat, 6)]
  | .andn d a b e f => packWord 0x04000005 [(d.toNat, 20), (a.toNat, 14), (b.toNat, 8), (e.toNat, 7), (f.toNat, 6)]
  | .shl d a b e f => packWord 0x04000006 [(d.toNat, 20), (a.toNat, 14), (b.toNat, 8), (e.toNat, 7), (f.toNat, 6)]
  | .shr d a b e f => packWord 0x04000007 [(d.toNat, 20), (a.toNat, 14), (b.toNat, 8), (e.toNat, 7), (f.toNat, 6)]
  | .sra d a b e f => packWord 0x04000008 [(d.toNat, 20), (a.toNat, 14), (b.toNat, 8), (e.toNat, 7), (f.toNat, 6)]
  | .rot d a b e f => packWord 0x04000009 [(d.toNat, 20), (a.toNat, 14), (b.toNat, 8), (e.toNat, 7), (f.toNat, 6)]
  | .min d a b e f => packWord 0x0400000A [(d.toNat, 20), (a.toNat, 14), (b.toNat, 8), (e.toNat, 7), (f.toNat, 6)]
  | .minU d a b e f => packWord 0x0400000B [(d.toNat, 20), (a.toNat, 14), (b.toNat, 8), (e.toNat, 7), (f.toNat, 6)]
  | .max d a b e f => packWord 0x0400000C [(d.toNat, 20), (a.toNat, 14), (b.toNat, 8), (e.toNat, 7), (f.toNat, 6)]
  | .maxU d a b e f => packWord 0x0400000D [(d.toNat, 20), (a.toNat, 14), (b.toNat, 8), (e.toNat, 7), (f.toNat, 6)]
  | .sel d a b e f => packWord 0x0400000E [(d.toNat, 20), (a.toNat, 14), (b.toNat, 8), (e.toNat, 7), (f.toNat, 6)]
  | .cmp d a b e f c => packWord 0x04000010 [(d.toNat, 20), (a.toNat, 14), (b.toNat, 8), (e.toNat, 7), (f.toNat, 6), (c.toNat, 0)]
  | .clz d a b e f => packWord 0x04000018 [(d.toNat, 20), (a.toNat, 14), (b.toNat, 8), (e.toNat, 7), (f.toNat, 6)]
  | .ctz d a b e f => packWord 0x04000019 [(d.toNat, 20), (a.toNat, 14), (b.toNat, 8), (e.toNat, 7), (f.toNat, 6)]
  | .popc d a b e f => packWord 0x0400001A [(d.toNat, 20), (a.toNat, 14), (b.toNat, 8), (e.toNat, 7), (f.toNat, 6)]
  | .ext d a b e f => packWord 0x0400001C [(d.toNat, 20), (a.toNat, 14), (b.toNat, 8), (e.toNat, 7), (f.toNat, 6)]
  | .ins d a b e f => packWord 0x0400001D [(d.toNat, 20), (a.toNat, 14), (b.toNat, 8), (e.toNat, 7), (f.toNat, 6)]
  | .addW d a b e f => packWord 0x04000020 [(d.toNat, 20), (a.toNat, 14), (b.toNat, 8), (e.toNat, 7), (f.toNat, 6)]
  | .subW d a b e f => packWord 0x04000021 [(d.toNat, 20), (a.toNat, 14), (b.toNat, 8), (e.toNat, 7), (f.toNat, 6)]
  | .shlW d a b e f => packWord 0x04000026 [(d.toNat, 20), (a.toNat, 14), (b.toNat, 8), (e.toNat, 7), (f.toNat, 6)]
  | .shrW d a b e f => packWord 0x04000027 [(d.toNat, 20), (a.toNat, 14), (b.toNat, 8), (e.toNat, 7), (f.toNat, 6)]
  | .sraW d a b e f => packWord 0x04000028 [(d.toNat, 20), (a.toNat, 14), (b.toNat, 8), (e.toNat, 7), (f.toNat, 6)]
  | .mul d a b e f => packWord 0x08000000 [(d.toNat, 20), (a.toNat, 14), (b.toNat, 8), (e.toNat, 7), (f.toNat, 6)]
  | .mulh d a b e f => packWord 0x08000001 [(d.toNat, 20), (a.toNat, 14), (b.toNat, 8), (e.toNat, 7), (f.toNat, 6)]
  | .mulhU d a b e f => packWord 0x08000002 [(d.toNat, 20), (a.toNat, 14), (b.toNat, 8), (e.toNat, 7), (f.toNat, 6)]
  | .mulhSu d a b e f => packWord 0x08000003 [(d.toNat, 20), (a.toNat, 14), (b.toNat, 8), (e.toNat, 7), (f.toNat, 6)]
  | .div d a b e f => packWord 0x08000004 [(d.toNat, 20), (a.toNat, 14), (b.toNat, 8), (e.toNat, 7), (f.toNat, 6)]
  | .divU d a b e f => packWord 0x08000005 [(d.toNat, 20), (a.toNat, 14), (b.toNat, 8), (e.toNat, 7), (f.toNat, 6)]
  | .rem d a b e f => packWord 0x08000006 [(d.toNat, 20), (a.toNat, 14), (b.toNat, 8), (e.toNat, 7), (f.toNat, 6)]
  | .remU d a b e f => packWord 0x08000007 [(d.toNat, 20), (a.toNat, 14), (b.toNat, 8), (e.toNat, 7), (f.toNat, 6)]
  | .mulW d a b e f => packWord 0x08000008 [(d.toNat, 20), (a.toNat, 14), (b.toNat, 8), (e.toNat, 7), (f.toNat, 6)]
  | .addImm d a e i => packWord 0x0C000000 [(d.toNat, 20), (a.toNat, 14), (e.toNat, 13), (i.toNat, 0)]
  | .andImm d a e i => packWord 0x10000000 [(d.toNat, 20), (a.toNat, 14), (e.toNat, 13), (i.toNat, 0)]
  | .orImm d a e i => packWord 0x14000000 [(d.toNat, 20), (a.toNat, 14), (e.toNat, 13), (i.toNat, 0)]
  | .xorImm d a e i => packWord 0x18000000 [(d.toNat, 20), (a.toNat, 14), (e.toNat, 13), (i.toNat, 0)]
  | .shlImm d a e r s => packWord 0x1C000000 [(d.toNat, 20), (a.toNat, 14), (e.toNat, 13), (r.toNat, 6), (s.toNat, 0)]
  | .shrImm d a e r s => packWord 0x1C000800 [(d.toNat, 20), (a.toNat, 14), (e.toNat, 13), (r.toNat, 6), (s.toNat, 0)]
  | .sraImm d a e r s => packWord 0x1C001000 [(d.toNat, 20), (a.toNat, 14), (e.toNat, 13), (r.toNat, 6), (s.toNat, 0)]
  | .rotImm d a e r s => packWord 0x1C001800 [(d.toNat, 20), (a.toNat, 14), (e.toNat, 13), (r.toNat, 6), (s.toNat, 0)]
  | .cmpImm d a e c i => packWord 0x20000000 [(d.toNat, 20), (a.toNat, 14), (e.toNat, 13), (c.toNat, 10), (i.toNat, 0)]
  | .lih d i => packWord 0x24000000 [(d.toNat, 20), (i.toNat, 0)]
  | .addpc d i => packWord 0x28000000 [(d.toNat, 20), (i.toNat, 0)]
  | .ld t b e m r s x o => packWord 0x40000000 [(t.toNat, 20), (b.toNat, 14), (e.toNat, 13), (m.toNat, 11), (r.toNat, 10), (s.toNat, 8), (x.toNat, 7), (o.toNat, 0)]
  | .st t b e m r s x o => packWord 0x44000000 [(t.toNat, 20), (b.toNat, 14), (e.toNat, 13), (m.toNat, 11), (r.toNat, 10), (s.toNat, 8), (x.toNat, 7), (o.toNat, 0)]
  | .ldp t b e m r s x o => packWord 0x48000000 [(t.toNat, 20), (b.toNat, 14), (e.toNat, 13), (m.toNat, 11), (r.toNat, 10), (s.toNat, 8), (x.toNat, 7), (o.toNat, 0)]
  | .stp t b e m r s x o => packWord 0x4C000000 [(t.toNat, 20), (b.toNat, 14), (e.toNat, 13), (m.toNat, 11), (r.toNat, 10), (s.toNat, 8), (x.toNat, 7), (o.toNat, 0)]
  | .amo d a b e f r g o => packWord 0x50000000 [(d.toNat, 20), (a.toNat, 14), (b.toNat, 8), (e.toNat, 7), (f.toNat, 6), (r.toNat, 5), (g.toNat, 4), (o.toNat, 0)]
  | .cas d a b e f r g => packWord 0x54000000 [(d.toNat, 20), (a.toNat, 14), (b.toNat, 8), (e.toNat, 7), (f.toNat, 6), (r.toNat, 5), (g.toNat, 0)]
  | .tagrd d a b e f => packWord 0x58000000 [(d.toNat, 20), (a.toNat, 14), (b.toNat, 8), (e.toNat, 7), (f.toNat, 6)]
  | .tagset d a b e f => packWord 0x58000001 [(d.toNat, 20), (a.toNat, 14), (b.toNat, 8), (e.toNat, 7), (f.toNat, 6)]
  | .watch d a b e f => packWord 0x58000002 [(d.toNat, 20), (a.toNat, 14), (b.toNat, 8), (e.toNat, 7), (f.toNat, 6)]
  | .unwatch d a b e f => packWord 0x58000003 [(d.toNat, 20), (a.toNat, 14), (b.toNat, 8), (e.toNat, 7), (f.toNat, 6)]
  | .fenceT d a b e f => packWord 0x5C000000 [(d.toNat, 20), (a.toNat, 14), (b.toNat, 8), (e.toNat, 7), (f.toNat, 6)]
  | .fenceD d a b e f => packWord 0x5C000001 [(d.toNat, 20), (a.toNat, 14), (b.toNat, 8), (e.toNat, 7), (f.toNat, 6)]
  | .fenceS d a b e f => packWord 0x5C000002 [(d.toNat, 20), (a.toNat, 14), (b.toNat, 8), (e.toNat, 7), (f.toNat, 6)]
  | .halloc d a b e f => packWord 0x5C000004 [(d.toNat, 20), (a.toNat, 14), (b.toNat, 8), (e.toNat, 7), (f.toNat, 6)]
  | .hallocNf d a b e f => packWord 0x5C000005 [(d.toNat, 20), (a.toNat, 14), (b.toNat, 8), (e.toNat, 7), (f.toNat, 6)]
  | .hfree d a b e f => packWord 0x5C000006 [(d.toNat, 20), (a.toNat, 14), (b.toNat, 8), (e.toNat, 7), (f.toNat, 6)]
  | .b a b c o => packWord 0x60000000 [(a.toNat, 20), (b.toNat, 14), (c.toNat, 11), (o.toNat, 0)]
  | .j o => packWord 0x64000000 [(o.toNat, 0)]
  | .jal d o => packWord 0x68000000 [(d.toNat, 20), (o.toNat, 0)]
  | .jalr d a e i => packWord 0x6C000000 [(d.toNat, 20), (a.toNat, 14), (e.toNat, 13), (i.toNat, 0)]
  | .rep s a e r l => packWord 0x70000000 [(s.toNat, 20), (a.toNat, 14), (e.toNat, 13), (r.toNat, 4), (l.toNat, 0)]
  | .fadd d a b e f t => packWord 0x74000000 [(d.toNat, 20), (a.toNat, 14), (b.toNat, 8), (e.toNat, 7), (f.toNat, 6), (t.toNat, 0)]
  | .fsub d a b e f t => packWord 0x74000004 [(d.toNat, 20), (a.toNat, 14), (b.toNat, 8), (e.toNat, 7), (f.toNat, 6), (t.toNat, 0)]
  | .fmul d a b e f t => packWord 0x74000008 [(d.toNat, 20), (a.toNat, 14), (b.toNat, 8), (e.toNat, 7), (f.toNat, 6), (t.toNat, 0)]
  | .fma d a b e f t => packWord 0x7400000C [(d.toNat, 20), (a.toNat, 14), (b.toNat, 8), (e.toNat, 7), (f.toNat, 6), (t.toNat, 0)]
  | .fmaN d a b e f t => packWord 0x74000010 [(d.toNat, 20), (a.toNat, 14), (b.toNat, 8), (e.toNat, 7), (f.toNat, 6), (t.toNat, 0)]
  | .fdiv d a b e f t => packWord 0x74000014 [(d.toNat, 20), (a.toNat, 14), (b.toNat, 8), (e.toNat, 7), (f.toNat, 6), (t.toNat, 0)]
  | .fsqrt d a b e f t => packWord 0x74000018 [(d.toNat, 20), (a.toNat, 14), (b.toNat, 8), (e.toNat, 7), (f.toNat, 6), (t.toNat, 0)]
  | .fmin d a b e f t => packWord 0x7400001C [(d.toNat, 20), (a.toNat, 14), (b.toNat, 8), (e.toNat, 7), (f.toNat, 6), (t.toNat, 0)]
  | .fmax d a b e f t => packWord 0x74000020 [(d.toNat, 20), (a.toNat, 14), (b.toNat, 8), (e.toNat, 7), (f.toNat, 6), (t.toNat, 0)]
  | .fminn d a b e f t => packWord 0x74000024 [(d.toNat, 20), (a.toNat, 14), (b.toNat, 8), (e.toNat, 7), (f.toNat, 6), (t.toNat, 0)]
  | .fmaxn d a b e f t => packWord 0x74000028 [(d.toNat, 20), (a.toNat, 14), (b.toNat, 8), (e.toNat, 7), (f.toNat, 6), (t.toNat, 0)]
  | .fsgnJ d a b e f t => packWord 0x7400002C [(d.toNat, 20), (a.toNat, 14), (b.toNat, 8), (e.toNat, 7), (f.toNat, 6), (t.toNat, 0)]
  | .fsgnN d a b e f t => packWord 0x74000030 [(d.toNat, 20), (a.toNat, 14), (b.toNat, 8), (e.toNat, 7), (f.toNat, 6), (t.toNat, 0)]
  | .fsgnX d a b e f t => packWord 0x74000034 [(d.toNat, 20), (a.toNat, 14), (b.toNat, 8), (e.toNat, 7), (f.toNat, 6), (t.toNat, 0)]
  | .fclass d a b e f t => packWord 0x74000038 [(d.toNat, 20), (a.toNat, 14), (b.toNat, 8), (e.toNat, 7), (f.toNat, 6), (t.toNat, 0)]
  | .frnd d a b e f t => packWord 0x7400003C [(d.toNat, 20), (a.toNat, 14), (b.toNat, 8), (e.toNat, 7), (f.toNat, 6), (t.toNat, 0)]
  | .fcmp d a b e f c t => packWord 0x78000000 [(d.toNat, 20), (a.toNat, 14), (b.toNat, 8), (e.toNat, 7), (f.toNat, 6), (c.toNat, 2), (t.toNat, 0)]
  | .fcvt d a r m o e f t => packWord 0x78000010 [(d.toNat, 20), (a.toNat, 14), (r.toNat, 13), (m.toNat, 10), (o.toNat, 8), (e.toNat, 7), (f.toNat, 6), (t.toNat, 0)]
  | .fcvti d a b e f t => packWord 0x78000014 [(d.toNat, 20), (a.toNat, 14), (b.toNat, 8), (e.toNat, 7), (f.toNat, 6), (t.toNat, 0)]
  | .fcvtiU d a b e f t => packWord 0x78000018 [(d.toNat, 20), (a.toNat, 14), (b.toNat, 8), (e.toNat, 7), (f.toNat, 6), (t.toNat, 0)]
  | .icvtf d a b e f t => packWord 0x78000020 [(d.toNat, 20), (a.toNat, 14), (b.toNat, 8), (e.toNat, 7), (f.toNat, 6), (t.toNat, 0)]
  | .icvtfU d a b e f t => packWord 0x78000024 [(d.toNat, 20), (a.toNat, 14), (b.toNat, 8), (e.toNat, 7), (f.toNat, 6), (t.toNat, 0)]
  | .vaddF d a b e f t => packWord 0x80000000 [(d.toNat, 20), (a.toNat, 14), (b.toNat, 8), (e.toNat, 7), (f.toNat, 6), (t.toNat, 0)]
  | .vsubF d a b e f t => packWord 0x80000004 [(d.toNat, 20), (a.toNat, 14), (b.toNat, 8), (e.toNat, 7), (f.toNat, 6), (t.toNat, 0)]
  | .vmulF d a b e f t => packWord 0x80000008 [(d.toNat, 20), (a.toNat, 14), (b.toNat, 8), (e.toNat, 7), (f.toNat, 6), (t.toNat, 0)]
  | .vfma d a b e f t => packWord 0x8000000C [(d.toNat, 20), (a.toNat, 14), (b.toNat, 8), (e.toNat, 7), (f.toNat, 6), (t.toNat, 0)]
  | .vfmaN d a b e f t => packWord 0x80000010 [(d.toNat, 20), (a.toNat, 14), (b.toNat, 8), (e.toNat, 7), (f.toNat, 6), (t.toNat, 0)]
  | .vminF d a b e f t => packWord 0x80000014 [(d.toNat, 20), (a.toNat, 14), (b.toNat, 8), (e.toNat, 7), (f.toNat, 6), (t.toNat, 0)]
  | .vmaxF d a b e f t => packWord 0x80000018 [(d.toNat, 20), (a.toNat, 14), (b.toNat, 8), (e.toNat, 7), (f.toNat, 6), (t.toNat, 0)]
  | .vminn d a b e f t => packWord 0x8000001C [(d.toNat, 20), (a.toNat, 14), (b.toNat, 8), (e.toNat, 7), (f.toNat, 6), (t.toNat, 0)]
  | .vmaxn d a b e f t => packWord 0x80000020 [(d.toNat, 20), (a.toNat, 14), (b.toNat, 8), (e.toNat, 7), (f.toNat, 6), (t.toNat, 0)]
  | .vcmpEqF d a b e f t => packWord 0x80000024 [(d.toNat, 20), (a.toNat, 14), (b.toNat, 8), (e.toNat, 7), (f.toNat, 6), (t.toNat, 0)]
  | .vcmpLtF d a b e f t => packWord 0x80000028 [(d.toNat, 20), (a.toNat, 14), (b.toNat, 8), (e.toNat, 7), (f.toNat, 6), (t.toNat, 0)]
  | .vcmpLeF d a b e f t => packWord 0x8000002C [(d.toNat, 20), (a.toNat, 14), (b.toNat, 8), (e.toNat, 7), (f.toNat, 6), (t.toNat, 0)]
  | .vselF d a b e f t => packWord 0x80000030 [(d.toNat, 20), (a.toNat, 14), (b.toNat, 8), (e.toNat, 7), (f.toNat, 6), (t.toNat, 0)]
  | .vred d a b e f t => packWord 0x80000034 [(d.toNat, 20), (a.toNat, 14), (b.toNat, 8), (e.toNat, 7), (f.toNat, 6), (t.toNat, 0)]
  | .vredMax d a b e f t => packWord 0x80000038 [(d.toNat, 20), (a.toNat, 14), (b.toNat, 8), (e.toNat, 7), (f.toNat, 6), (t.toNat, 0)]
  | .vredMin d a b e f t => packWord 0x8000003C [(d.toNat, 20), (a.toNat, 14), (b.toNat, 8), (e.toNat, 7), (f.toNat, 6), (t.toNat, 0)]
  | .vaddI d a b e f w => packWord 0x84000000 [(d.toNat, 20), (a.toNat, 14), (b.toNat, 8), (e.toNat, 7), (f.toNat, 6), (w.toNat, 0)]
  | .vsubI d a b e f w => packWord 0x84000004 [(d.toNat, 20), (a.toNat, 14), (b.toNat, 8), (e.toNat, 7), (f.toNat, 6), (w.toNat, 0)]
  | .vmulI d a b e f w => packWord 0x84000008 [(d.toNat, 20), (a.toNat, 14), (b.toNat, 8), (e.toNat, 7), (f.toNat, 6), (w.toNat, 0)]
  | .vminI d a b e f w => packWord 0x8400000C [(d.toNat, 20), (a.toNat, 14), (b.toNat, 8), (e.toNat, 7), (f.toNat, 6), (w.toNat, 0)]
  | .vmaxI d a b e f w => packWord 0x84000010 [(d.toNat, 20), (a.toNat, 14), (b.toNat, 8), (e.toNat, 7), (f.toNat, 6), (w.toNat, 0)]
  | .vand d a b e f w => packWord 0x84000014 [(d.toNat, 20), (a.toNat, 14), (b.toNat, 8), (e.toNat, 7), (f.toNat, 6), (w.toNat, 0)]
  | .vor d a b e f w => packWord 0x84000018 [(d.toNat, 20), (a.toNat, 14), (b.toNat, 8), (e.toNat, 7), (f.toNat, 6), (w.toNat, 0)]
  | .vxor d a b e f w => packWord 0x8400001C [(d.toNat, 20), (a.toNat, 14), (b.toNat, 8), (e.toNat, 7), (f.toNat, 6), (w.toNat, 0)]
  | .vshl d a b e f w => packWord 0x84000020 [(d.toNat, 20), (a.toNat, 14), (b.toNat, 8), (e.toNat, 7), (f.toNat, 6), (w.toNat, 0)]
  | .vshr d a b e f w => packWord 0x84000024 [(d.toNat, 20), (a.toNat, 14), (b.toNat, 8), (e.toNat, 7), (f.toNat, 6), (w.toNat, 0)]
  | .vshrA d a b e f w => packWord 0x84000028 [(d.toNat, 20), (a.toNat, 14), (b.toNat, 8), (e.toNat, 7), (f.toNat, 6), (w.toNat, 0)]
  | .vcmpEqI d a b e f w => packWord 0x8400002C [(d.toNat, 20), (a.toNat, 14), (b.toNat, 8), (e.toNat, 7), (f.toNat, 6), (w.toNat, 0)]
  | .vcmpLtI d a b e f w => packWord 0x84000030 [(d.toNat, 20), (a.toNat, 14), (b.toNat, 8), (e.toNat, 7), (f.toNat, 6), (w.toNat, 0)]
  | .vselI d a b e f w => packWord 0x84000034 [(d.toNat, 20), (a.toNat, 14), (b.toNat, 8), (e.toNat, 7), (f.toNat, 6), (w.toNat, 0)]
  | .vredW d a b e f w => packWord 0x84000038 [(d.toNat, 20), (a.toNat, 14), (b.toNat, 8), (e.toNat, 7), (f.toNat, 6), (w.toNat, 0)]
  | .vcvt d a m s e f c => packWord 0x88000000 [(d.toNat, 20), (a.toNat, 14), (m.toNat, 12), (s.toNat, 8), (e.toNat, 7), (f.toNat, 6), (c.toNat, 0)]
  | .vcvtSat d a m s e f c => packWord 0x88000030 [(d.toNat, 20), (a.toNat, 14), (m.toNat, 12), (s.toNat, 8), (e.toNat, 7), (f.toNat, 6), (c.toNat, 0)]
  | .vperm d a b e f p => packWord 0x88000010 [(d.toNat, 20), (a.toNat, 14), (b.toNat, 8), (e.toNat, 7), (f.toNat, 6), (p.toNat, 0)]
  | .vsf d a r t e f u => packWord 0x88000020 [(d.toNat, 20), (a.toNat, 14), (r.toNat, 10), (t.toNat, 8), (e.toNat, 7), (f.toNat, 6), (u.toNat, 0)]
  | .xclr d a b e f n => packWord 0x90000000 [(d.toNat, 20), (a.toNat, 14), (b.toNat, 8), (e.toNat, 7), (f.toNat, 6), (n.toNat, 3)]
  | .xfma d a b e f n => packWord 0x90000001 [(d.toNat, 20), (a.toNat, 14), (b.toNat, 8), (e.toNat, 7), (f.toNat, 6), (n.toNat, 3)]
  | .xfmaN d a b e f n => packWord 0x90000002 [(d.toNat, 20), (a.toNat, 14), (b.toNat, 8), (e.toNat, 7), (f.toNat, 6), (n.toNat, 3)]
  | .xadd d a b e f n => packWord 0x90000003 [(d.toNat, 20), (a.toNat, 14), (b.toNat, 8), (e.toNat, 7), (f.toNat, 6), (n.toNat, 3)]
  | .xrnd d a b e f n => packWord 0x90000004 [(d.toNat, 20), (a.toNat, 14), (b.toNat, 8), (e.toNat, 7), (f.toNat, 6), (n.toNat, 3)]
  | .xsgn d a b e f n => packWord 0x90000005 [(d.toNat, 20), (a.toNat, 14), (b.toNat, 8), (e.toNat, 7), (f.toNat, 6), (n.toNat, 3)]
  | .xrdw d a b e f n => packWord 0x90000006 [(d.toNat, 20), (a.toNat, 14), (b.toNat, 8), (e.toNat, 7), (f.toNat, 6), (n.toNat, 3)]
  | .xwrw d a b e f n => packWord 0x90000007 [(d.toNat, 20), (a.toNat, 14), (b.toNat, 8), (e.toNat, 7), (f.toNat, 6), (n.toNat, 3)]
  | .xacq n a b e f => packWord 0x94000000 [(n.toNat, 20), (a.toNat, 14), (b.toNat, 8), (e.toNat, 7), (f.toNat, 6)]
  | .xrel n a b e f => packWord 0x94000001 [(n.toNat, 20), (a.toNat, 14), (b.toNat, 8), (e.toNat, 7), (f.toNat, 6)]
  | .spawn d a b e f => packWord 0xA0000000 [(d.toNat, 20), (a.toNat, 14), (b.toNat, 8), (e.toNat, 7), (f.toNat, 6)]
  | .spawnF d a b e f => packWord 0xA0000001 [(d.toNat, 20), (a.toNat, 14), (b.toNat, 8), (e.toNat, 7), (f.toNat, 6)]
  | .quit d a b e f => packWord 0xA0000002 [(d.toNat, 20), (a.toNat, 14), (b.toNat, 8), (e.toNat, 7), (f.toNat, 6)]
  | .quitF d a b e f => packWord 0xA0000003 [(d.toNat, 20), (a.toNat, 14), (b.toNat, 8), (e.toNat, 7), (f.toNat, 6)]
  | .quitD d a b e f => packWord 0xA0000004 [(d.toNat, 20), (a.toNat, 14), (b.toNat, 8), (e.toNat, 7), (f.toNat, 6)]
  | .dqpush d a b e f => packWord 0xA0000005 [(d.toNat, 20), (a.toNat, 14), (b.toNat, 8), (e.toNat, 7), (f.toNat, 6)]
  | .dqpop d a b e f => packWord 0xA0000006 [(d.toNat, 20), (a.toNat, 14), (b.toNat, 8), (e.toNat, 7), (f.toNat, 6)]
  | .yield d a b e f => packWord 0xA0000007 [(d.toNat, 20), (a.toNat, 14), (b.toNat, 8), (e.toNat, 7), (f.toNat, 6)]
  | .gnew d a b e f => packWord 0xA0000008 [(d.toNat, 20), (a.toNat, 14), (b.toNat, 8), (e.toNat, 7), (f.toNat, 6)]
  | .gjoin d a b e f => packWord 0xA0000009 [(d.toNat, 20), (a.toNat, 14), (b.toNat, 8), (e.toNat, 7), (f.toNat, 6)]
  | .gleave d a b e f => packWord 0xA000000A [(d.toNat, 20), (a.toNat, 14), (b.toNat, 8), (e.toNat, 7), (f.toNat, 6)]
  | .gbar d a b e f => packWord 0xA000000B [(d.toNat, 20), (a.toNat, 14), (b.toNat, 8), (e.toNat, 7), (f.toNat, 6)]
  | .gend d a b e f => packWord 0xA000000C [(d.toNat, 20), (a.toNat, 14), (b.toNat, 8), (e.toNat, 7), (f.toNat, 6)]
  | .msend d a b e f => packWord 0xA4000000 [(d.toNat, 20), (a.toNat, 14), (b.toNat, 8), (e.toNat, 7), (f.toNat, 6)]
  | .mwait d a b e f => packWord 0xA4000001 [(d.toNat, 20), (a.toNat, 14), (b.toNat, 8), (e.toNat, 7), (f.toNat, 6)]
  | .lcfg d a b e f => packWord 0xA4000002 [(d.toNat, 20), (a.toNat, 14), (b.toNat, 8), (e.toNat, 7), (f.toNat, 6)]
  | .stab d a b e f => packWord 0xA4000003 [(d.toNat, 20), (a.toNat, 14), (b.toNat, 8), (e.toNat, 7), (f.toNat, 6)]
  | .sbind d a b e f => packWord 0xA4000004 [(d.toNat, 20), (a.toNat, 14), (b.toNat, 8), (e.toNat, 7), (f.toNat, 6)]
  | .sskip d a b e f => packWord 0xA4000005 [(d.toNat, 20), (a.toNat, 14), (b.toNat, 8), (e.toNat, 7), (f.toNat, 6)]
  | .spos d a b e f => packWord 0xA4000006 [(d.toNat, 20), (a.toNat, 14), (b.toNat, 8), (e.toNat, 7), (f.toNat, 6)]
  | .cpygo d a b e f => packWord 0xA8000000 [(d.toNat, 20), (a.toNat, 14), (b.toNat, 8), (e.toNat, 7), (f.toNat, 6)]
  | .cpygoNc d a b e f => packWord 0xA8000001 [(d.toNat, 20), (a.toNat, 14), (b.toNat, 8), (e.toNat, 7), (f.toNat, 6)]
  | .cpyst d a b e f => packWord 0xA8000002 [(d.toNat, 20), (a.toNat, 14), (b.toNat, 8), (e.toNat, 7), (f.toNat, 6)]
  | .cpycan d a b e f => packWord 0xA8000003 [(d.toNat, 20), (a.toNat, 14), (b.toNat, 8), (e.toNat, 7), (f.toNat, 6)]
  | .subs d a b e f => packWord 0xA8000004 [(d.toNat, 20), (a.toNat, 14), (b.toNat, 8), (e.toNat, 7), (f.toNat, 6)]
  | .unsubs d a b e f => packWord 0xA8000005 [(d.toNat, 20), (a.toNat, 14), (b.toNat, 8), (e.toNat, 7), (f.toNat, 6)]
  | .gath d a b e f => packWord 0xA8000008 [(d.toNat, 20), (a.toNat, 14), (b.toNat, 8), (e.toNat, 7), (f.toNat, 6)]
  | .gathSum d a b e f => packWord 0xA8000009 [(d.toNat, 20), (a.toNat, 14), (b.toNat, 8), (e.toNat, 7), (f.toNat, 6)]
  | .tbsw d a b e f => packWord 0xA800000A [(d.toNat, 20), (a.toNat, 14), (b.toNat, 8), (e.toNat, 7), (f.toNat, 6)]
  | .tbdrn d a b e f => packWord 0xA800000B [(d.toNat, 20), (a.toNat, 14), (b.toNat, 8), (e.toNat, 7), (f.toNat, 6)]
  | .ksend n a b e f => packWord 0xA800000C [(n.toNat, 20), (a.toNat, 14), (b.toNat, 8), (e.toNat, 7), (f.toNat, 6)]
  | .kbin d a b e f => packWord 0xA800000D [(d.toNat, 20), (a.toNat, 14), (b.toNat, 8), (e.toNat, 7), (f.toNat, 6)]
  | .kflush d a b e f => packWord 0xA800000E [(d.toNat, 20), (a.toNat, 14), (b.toNat, 8), (e.toNat, 7), (f.toNat, 6)]
  | .rcopy d a b e f => packWord 0xA8000010 [(d.toNat, 20), (a.toNat, 14), (b.toNat, 8), (e.toNat, 7), (f.toNat, 6)]
  | .rzero d a b e f => packWord 0xA8000011 [(d.toNat, 20), (a.toNat, 14), (b.toNat, 8), (e.toNat, 7), (f.toNat, 6)]
  | .mxcfg d a b e f => packWord 0xB0000000 [(d.toNat, 20), (a.toNat, 14), (b.toNat, 8), (e.toNat, 7), (f.toNat, 6)]
  | .mxgo d a b e f => packWord 0xB0000001 [(d.toNat, 20), (a.toNat, 14), (b.toNat, 8), (e.toNat, 7), (f.toNat, 6)]
  | .mxhnd d a b e f => packWord 0xB0000002 [(d.toNat, 20), (a.toNat, 14), (b.toNat, 8), (e.toNat, 7), (f.toNat, 6)]
  | .mxstat d a b e f => packWord 0xB0000003 [(d.toNat, 20), (a.toNat, 14), (b.toNat, 8), (e.toNat, 7), (f.toNat, 6)]
  | .aclr d a b e f => packWord 0xB0000004 [(d.toNat, 20), (a.toNat, 14), (b.toNat, 8), (e.toNat, 7), (f.toNat, 6)]
  | .fpin d a b e f => packWord 0xB0000008 [(d.toNat, 20), (a.toNat, 14), (b.toNat, 8), (e.toNat, 7), (f.toNat, 6)]
  | .funp d a b e f => packWord 0xB0000009 [(d.toNat, 20), (a.toNat, 14), (b.toNat, 8), (e.toNat, 7), (f.toNat, 6)]
  | .fref d a b e f => packWord 0xB000000A [(d.toNat, 20), (a.toNat, 14), (b.toNat, 8), (e.toNat, 7), (f.toNat, 6)]
  | .frev d a b e f => packWord 0xB000000B [(d.toNat, 20), (a.toNat, 14), (b.toNat, 8), (e.toNat, 7), (f.toNat, 6)]
  | .fqry d a b e f => packWord 0xB000000C [(d.toNat, 20), (a.toNat, 14), (b.toNat, 8), (e.toNat, 7), (f.toNat, 6)]
  | .trap d a b e f => packWord 0xF0000000 [(d.toNat, 20), (a.toNat, 14), (b.toNat, 8), (e.toNat, 7), (f.toNat, 6)]
  | .eret d a b e f => packWord 0xF0000001 [(d.toNat, 20), (a.toNat, 14), (b.toNat, 8), (e.toNat, 7), (f.toNat, 6)]
  | .brk d a b e f => packWord 0xF0000002 [(d.toNat, 20), (a.toNat, 14), (b.toNat, 8), (e.toNat, 7), (f.toNat, 6)]
  | .rpart d a b e f => packWord 0xF0000003 [(d.toNat, 20), (a.toNat, 14), (b.toNat, 8), (e.toNat, 7), (f.toNat, 6)]
  | .xlinv d a b e f => packWord 0xF0000004 [(d.toNat, 20), (a.toNat, 14), (b.toNat, 8), (e.toNat, 7), (f.toNat, 6)]
  | .swat d a b e f => packWord 0xF0000005 [(d.toNat, 20), (a.toNat, 14), (b.toNat, 8), (e.toNat, 7), (f.toNat, 6)]
  | .lend d a b e f => packWord 0xF0000006 [(d.toNat, 20), (a.toNat, 14), (b.toNat, 8), (e.toNat, 7), (f.toNat, 6)]
  | .recall d a b e f => packWord 0xF0000007 [(d.toNat, 20), (a.toNat, 14), (b.toNat, 8), (e.toNat, 7), (f.toNat, 6)]
  | .fack d a b e f => packWord 0xF0000008 [(d.toNat, 20), (a.toNat, 14), (b.toNat, 8), (e.toNat, 7), (f.toNat, 6)]
  | .fackT d a b e f => packWord 0xF0000009 [(d.toNat, 20), (a.toNat, 14), (b.toNat, 8), (e.toNat, 7), (f.toNat, 6)]
  | .mfsr d a e n => packWord 0xF4000000 [(d.toNat, 20), (a.toNat, 14), (e.toNat, 13), (n.toNat, 0)]
  | .mtsr s a e n => packWord 0xF8000000 [(s.toNat, 20), (a.toNat, 14), (e.toNat, 13), (n.toNat, 0)]
  | .hint h => packWord 0xFC000000 [(h.toNat, 0)]
  | .modeWrite _ _ => 0
  | .classWrite _ _ => 0
  | .trapvecWrite _ _ => 0
  | .heapdescWrite _ _ => 0
  | .tstatWrite _ _ => 0
  | .dbgcWrite _ _ _ => 0
  | .pmselWrite _ _ _ => 0
  | .pmcWrite _ _ _ => 0
  | .trcctlWrite _ _ => 0
  | .fwctlWrite _ _ => 0
  | .pwrlimWrite _ _ => 0
  | .debugStop _ => 0
  | .debugResume _ => 0
  | .debugStep _ => 0
  | .brkstop _ _ => 0
  | .contextRecordAccess _ _ _ _ => 0
  | .repairTableWrite _ _ _ => 0
  | .eyeMarginWrite _ _ _ => 0
  | .pgidleWrite _ _ => 0
  | .accessPerformed _ => 0
  | .controllerAnswer _ => 0
  | .longLatencyResult _ => 0
  | .waitTimeOut _ => 0
  | .translationWalkEnd _ => 0
  | .faultRecordSend _ => 0
  | .deviceMessageEntry _ => 0
  | .revocation _ => 0
  | .restoreContext _ => 0
  | .stealRequest _ _ => 0
  | .stealServe _ _ _ => 0
  | .stealBackoffExpiry _ _ => 0
  | .slotReassign _ => 0
  | .yieldTimeout _ => 0
  | .linkStall _ => 0
  | .streamReadAhead _ _ => 0
  | .copyCompletion _ _ => 0
  | .gatherRowWrite _ => 0
  | .hotRowCountHalving _ => 0
  | .binUpdate _ => 0
  | .combiningEntryTimeout _ => 0
  | .binRoundOut _ => 0
  | .folioLoadEnd _ => 0
  | .folioStoreError _ => 0
  | .feederTake _ => 0
  | .accumulatorUpdate _ _ => 0
  | .drainDispatch _ => 0
  | .rowOperationComplete _ => 0
  | .rowOperationWrite _ => 0
  | .curfewStop _ => 0
  | .curfewSave _ => 0
  | .switchIn _ => 0
  | .getFeatures _ => 0
  | .loadFirmware _ _ => 0
  | .loadConfig _ _ => 0
  | .createTenant _ _ => 0
  | .destroyTenant _ _ => 0
  | .createQueue _ _ _ => 0
  | .destroyQueue _ _ => 0
  | .setOwner _ _ _ _ _ => 0
  | .wakeWrite _ _ => 0
  | .progWrite _ _ _ => 0
  | .statusWrite _ _ => 0
  | .queueHandlerDispatch _ => 0
  | .launch _ _ => 0
  | .wait _ _ => 0
  | .waitPoll _ _ => 0
  | .signal _ _ => 0
  | .copy _ _ => 0
  | .folio _ _ => 0
  | .nop _ _ => 0
  | .recordSkip _ _ => 0
  | .seqWaitTimeout _ _ => 0
  | .hostMemRead _ => 0
  | .hostMemWrite _ _ => 0
  | .peerRequest _ _ _ _ => 0
  | .bankIdlePrecharge _ => 0
  | .bankRefresh _ => 0
  | .backgroundScrub _ => 0
  | .zeroOnTouchScrub _ => 0
  | .laneMarginBelow _ _ _ _ => 0
  | .powerFailWarning => 0
  | .thermalTrip _ => 0
  | .powerGoodReset => 0
  | .traceSample _ => 0
  | .hostSnoop _ => 0
  | .coherencePointReached _ => 0
  | .laneRetrainingEnd _ _ => 0
  | .pwrlimIssueSuppression _ _ => 0

/-- The instruction is one of the 192 that have a word. -/
def hasWord : Instr → Bool
  | .add _ _ _ _ _ => true
  | .sub _ _ _ _ _ => true
  | .and _ _ _ _ _ => true
  | .or _ _ _ _ _ => true
  | .xor _ _ _ _ _ => true
  | .andn _ _ _ _ _ => true
  | .shl _ _ _ _ _ => true
  | .shr _ _ _ _ _ => true
  | .sra _ _ _ _ _ => true
  | .rot _ _ _ _ _ => true
  | .min _ _ _ _ _ => true
  | .minU _ _ _ _ _ => true
  | .max _ _ _ _ _ => true
  | .maxU _ _ _ _ _ => true
  | .sel _ _ _ _ _ => true
  | .cmp _ _ _ _ _ _ => true
  | .clz _ _ _ _ _ => true
  | .ctz _ _ _ _ _ => true
  | .popc _ _ _ _ _ => true
  | .ext _ _ _ _ _ => true
  | .ins _ _ _ _ _ => true
  | .addW _ _ _ _ _ => true
  | .subW _ _ _ _ _ => true
  | .shlW _ _ _ _ _ => true
  | .shrW _ _ _ _ _ => true
  | .sraW _ _ _ _ _ => true
  | .mul _ _ _ _ _ => true
  | .mulh _ _ _ _ _ => true
  | .mulhU _ _ _ _ _ => true
  | .mulhSu _ _ _ _ _ => true
  | .div _ _ _ _ _ => true
  | .divU _ _ _ _ _ => true
  | .rem _ _ _ _ _ => true
  | .remU _ _ _ _ _ => true
  | .mulW _ _ _ _ _ => true
  | .addImm _ _ _ _ => true
  | .andImm _ _ _ _ => true
  | .orImm _ _ _ _ => true
  | .xorImm _ _ _ _ => true
  | .shlImm _ _ _ _ _ => true
  | .shrImm _ _ _ _ _ => true
  | .sraImm _ _ _ _ _ => true
  | .rotImm _ _ _ _ _ => true
  | .cmpImm _ _ _ _ _ => true
  | .lih _ _ => true
  | .addpc _ _ => true
  | .ld _ _ _ _ _ _ _ _ => true
  | .st _ _ _ _ _ _ _ _ => true
  | .ldp _ _ _ _ _ _ _ _ => true
  | .stp _ _ _ _ _ _ _ _ => true
  | .amo _ _ _ _ _ _ _ _ => true
  | .cas _ _ _ _ _ _ _ => true
  | .tagrd _ _ _ _ _ => true
  | .tagset _ _ _ _ _ => true
  | .watch _ _ _ _ _ => true
  | .unwatch _ _ _ _ _ => true
  | .fenceT _ _ _ _ _ => true
  | .fenceD _ _ _ _ _ => true
  | .fenceS _ _ _ _ _ => true
  | .halloc _ _ _ _ _ => true
  | .hallocNf _ _ _ _ _ => true
  | .hfree _ _ _ _ _ => true
  | .b _ _ _ _ => true
  | .j _ => true
  | .jal _ _ => true
  | .jalr _ _ _ _ => true
  | .rep _ _ _ _ _ => true
  | .fadd _ _ _ _ _ _ => true
  | .fsub _ _ _ _ _ _ => true
  | .fmul _ _ _ _ _ _ => true
  | .fma _ _ _ _ _ _ => true
  | .fmaN _ _ _ _ _ _ => true
  | .fdiv _ _ _ _ _ _ => true
  | .fsqrt _ _ _ _ _ _ => true
  | .fmin _ _ _ _ _ _ => true
  | .fmax _ _ _ _ _ _ => true
  | .fminn _ _ _ _ _ _ => true
  | .fmaxn _ _ _ _ _ _ => true
  | .fsgnJ _ _ _ _ _ _ => true
  | .fsgnN _ _ _ _ _ _ => true
  | .fsgnX _ _ _ _ _ _ => true
  | .fclass _ _ _ _ _ _ => true
  | .frnd _ _ _ _ _ _ => true
  | .fcmp _ _ _ _ _ _ _ => true
  | .fcvt _ _ _ _ _ _ _ _ => true
  | .fcvti _ _ _ _ _ _ => true
  | .fcvtiU _ _ _ _ _ _ => true
  | .icvtf _ _ _ _ _ _ => true
  | .icvtfU _ _ _ _ _ _ => true
  | .vaddF _ _ _ _ _ _ => true
  | .vsubF _ _ _ _ _ _ => true
  | .vmulF _ _ _ _ _ _ => true
  | .vfma _ _ _ _ _ _ => true
  | .vfmaN _ _ _ _ _ _ => true
  | .vminF _ _ _ _ _ _ => true
  | .vmaxF _ _ _ _ _ _ => true
  | .vminn _ _ _ _ _ _ => true
  | .vmaxn _ _ _ _ _ _ => true
  | .vcmpEqF _ _ _ _ _ _ => true
  | .vcmpLtF _ _ _ _ _ _ => true
  | .vcmpLeF _ _ _ _ _ _ => true
  | .vselF _ _ _ _ _ _ => true
  | .vred _ _ _ _ _ _ => true
  | .vredMax _ _ _ _ _ _ => true
  | .vredMin _ _ _ _ _ _ => true
  | .vaddI _ _ _ _ _ _ => true
  | .vsubI _ _ _ _ _ _ => true
  | .vmulI _ _ _ _ _ _ => true
  | .vminI _ _ _ _ _ _ => true
  | .vmaxI _ _ _ _ _ _ => true
  | .vand _ _ _ _ _ _ => true
  | .vor _ _ _ _ _ _ => true
  | .vxor _ _ _ _ _ _ => true
  | .vshl _ _ _ _ _ _ => true
  | .vshr _ _ _ _ _ _ => true
  | .vshrA _ _ _ _ _ _ => true
  | .vcmpEqI _ _ _ _ _ _ => true
  | .vcmpLtI _ _ _ _ _ _ => true
  | .vselI _ _ _ _ _ _ => true
  | .vredW _ _ _ _ _ _ => true
  | .vcvt _ _ _ _ _ _ _ => true
  | .vcvtSat _ _ _ _ _ _ _ => true
  | .vperm _ _ _ _ _ _ => true
  | .vsf _ _ _ _ _ _ _ => true
  | .xclr _ _ _ _ _ _ => true
  | .xfma _ _ _ _ _ _ => true
  | .xfmaN _ _ _ _ _ _ => true
  | .xadd _ _ _ _ _ _ => true
  | .xrnd _ _ _ _ _ _ => true
  | .xsgn _ _ _ _ _ _ => true
  | .xrdw _ _ _ _ _ _ => true
  | .xwrw _ _ _ _ _ _ => true
  | .xacq _ _ _ _ _ => true
  | .xrel _ _ _ _ _ => true
  | .spawn _ _ _ _ _ => true
  | .spawnF _ _ _ _ _ => true
  | .quit _ _ _ _ _ => true
  | .quitF _ _ _ _ _ => true
  | .quitD _ _ _ _ _ => true
  | .dqpush _ _ _ _ _ => true
  | .dqpop _ _ _ _ _ => true
  | .yield _ _ _ _ _ => true
  | .gnew _ _ _ _ _ => true
  | .gjoin _ _ _ _ _ => true
  | .gleave _ _ _ _ _ => true
  | .gbar _ _ _ _ _ => true
  | .gend _ _ _ _ _ => true
  | .msend _ _ _ _ _ => true
  | .mwait _ _ _ _ _ => true
  | .lcfg _ _ _ _ _ => true
  | .stab _ _ _ _ _ => true
  | .sbind _ _ _ _ _ => true
  | .sskip _ _ _ _ _ => true
  | .spos _ _ _ _ _ => true
  | .cpygo _ _ _ _ _ => true
  | .cpygoNc _ _ _ _ _ => true
  | .cpyst _ _ _ _ _ => true
  | .cpycan _ _ _ _ _ => true
  | .subs _ _ _ _ _ => true
  | .unsubs _ _ _ _ _ => true
  | .gath _ _ _ _ _ => true
  | .gathSum _ _ _ _ _ => true
  | .tbsw _ _ _ _ _ => true
  | .tbdrn _ _ _ _ _ => true
  | .ksend _ _ _ _ _ => true
  | .kbin _ _ _ _ _ => true
  | .kflush _ _ _ _ _ => true
  | .rcopy _ _ _ _ _ => true
  | .rzero _ _ _ _ _ => true
  | .mxcfg _ _ _ _ _ => true
  | .mxgo _ _ _ _ _ => true
  | .mxhnd _ _ _ _ _ => true
  | .mxstat _ _ _ _ _ => true
  | .aclr _ _ _ _ _ => true
  | .fpin _ _ _ _ _ => true
  | .funp _ _ _ _ _ => true
  | .fref _ _ _ _ _ => true
  | .frev _ _ _ _ _ => true
  | .fqry _ _ _ _ _ => true
  | .trap _ _ _ _ _ => true
  | .eret _ _ _ _ _ => true
  | .brk _ _ _ _ _ => true
  | .rpart _ _ _ _ _ => true
  | .xlinv _ _ _ _ _ => true
  | .swat _ _ _ _ _ => true
  | .lend _ _ _ _ _ => true
  | .recall _ _ _ _ _ => true
  | .fack _ _ _ _ _ => true
  | .fackT _ _ _ _ _ => true
  | .mfsr _ _ _ _ => true
  | .mtsr _ _ _ _ => true
  | .hint _ => true
  | .modeWrite _ _ => false
  | .classWrite _ _ => false
  | .trapvecWrite _ _ => false
  | .heapdescWrite _ _ => false
  | .tstatWrite _ _ => false
  | .dbgcWrite _ _ _ => false
  | .pmselWrite _ _ _ => false
  | .pmcWrite _ _ _ => false
  | .trcctlWrite _ _ => false
  | .fwctlWrite _ _ => false
  | .pwrlimWrite _ _ => false
  | .debugStop _ => false
  | .debugResume _ => false
  | .debugStep _ => false
  | .brkstop _ _ => false
  | .contextRecordAccess _ _ _ _ => false
  | .repairTableWrite _ _ _ => false
  | .eyeMarginWrite _ _ _ => false
  | .pgidleWrite _ _ => false
  | .accessPerformed _ => false
  | .controllerAnswer _ => false
  | .longLatencyResult _ => false
  | .waitTimeOut _ => false
  | .translationWalkEnd _ => false
  | .faultRecordSend _ => false
  | .deviceMessageEntry _ => false
  | .revocation _ => false
  | .restoreContext _ => false
  | .stealRequest _ _ => false
  | .stealServe _ _ _ => false
  | .stealBackoffExpiry _ _ => false
  | .slotReassign _ => false
  | .yieldTimeout _ => false
  | .linkStall _ => false
  | .streamReadAhead _ _ => false
  | .copyCompletion _ _ => false
  | .gatherRowWrite _ => false
  | .hotRowCountHalving _ => false
  | .binUpdate _ => false
  | .combiningEntryTimeout _ => false
  | .binRoundOut _ => false
  | .folioLoadEnd _ => false
  | .folioStoreError _ => false
  | .feederTake _ => false
  | .accumulatorUpdate _ _ => false
  | .drainDispatch _ => false
  | .rowOperationComplete _ => false
  | .rowOperationWrite _ => false
  | .curfewStop _ => false
  | .curfewSave _ => false
  | .switchIn _ => false
  | .getFeatures _ => false
  | .loadFirmware _ _ => false
  | .loadConfig _ _ => false
  | .createTenant _ _ => false
  | .destroyTenant _ _ => false
  | .createQueue _ _ _ => false
  | .destroyQueue _ _ => false
  | .setOwner _ _ _ _ _ => false
  | .wakeWrite _ _ => false
  | .progWrite _ _ _ => false
  | .statusWrite _ _ => false
  | .queueHandlerDispatch _ => false
  | .launch _ _ => false
  | .wait _ _ => false
  | .waitPoll _ _ => false
  | .signal _ _ => false
  | .copy _ _ => false
  | .folio _ _ => false
  | .nop _ _ => false
  | .recordSkip _ _ => false
  | .seqWaitTimeout _ _ => false
  | .hostMemRead _ => false
  | .hostMemWrite _ _ => false
  | .peerRequest _ _ _ _ => false
  | .bankIdlePrecharge _ => false
  | .bankRefresh _ => false
  | .backgroundScrub _ => false
  | .zeroOnTouchScrub _ => false
  | .laneMarginBelow _ _ _ _ => false
  | .powerFailWarning => false
  | .thermalTrip _ => false
  | .powerGoodReset => false
  | .traceSample _ => false
  | .hostSnoop _ => false
  | .coherencePointReached _ => false
  | .laneRetrainingEnd _ _ => false
  | .pwrlimIssueSuppression _ _ => false

/-- The bytes of an instruction in memory order (R21). -/
def encode (i : Instr) : List Byte := toBytes 4 (encodeWord i).toNat

/-- The table's words: an instruction of `nbits` bits `w`, laid out as the part stores it, given to the decoder. -/
def decodeTableWord (nbits w : Nat) : Option Instr :=
  match decode (toBytes (max 4 (nbits / 8)) (w % 2 ^ nbits)) with
  | .ok (i, _) => some i
  | .error _ => none

end Sys2Proof
end

