-- ==== Sys2Proof/Machine/Alloc.lean ====
section
/-! DEFINITION. The heap allocator unit (R97-R101): size classes, arenas, free blocks, and the block that a request gets. -/

namespace Sys2Proof.Machine

/-- The log2 of the class of a request (R99). -/
def heapClass (n : Nat) : Nat := max 5 (ceilLog2 (max n 1))

/-- The blocks of arena `i` that can be handed out: from the end of the metadata head to the end of the arena (R98). -/
def Tenant.arena (t : Tenant) (i : Nat) : Nat × Nat :=
  let lo := t.heapBase + i * t.arenaSize
  (lo + t.arenaSize / 32, lo + t.arenaSize)

/-- Every live block, of the present heap and of earlier ones (R97). -/
def Tenant.blocks (t : Tenant) : List (Nat × Nat) := t.live ++ t.oldLive

/-- A live block meets the `2 ^ k` bytes at `a`. -/
def Tenant.occupied (t : Tenant) (a k : Nat) : Bool :=
  t.blocks.any fun b => decide (b.1 < a + 2 ^ k) && decide (a < b.1 + 2 ^ b.2)

/-- The buddy of a block. -/
def buddy (a k : Nat) : Nat := if a / 2 ^ k % 2 = 0 then a + 2 ^ k else a - 2 ^ k

/-- The free blocks of class `k < 16` of an arena, lowest first: the free buddies on the way from a live block to its 64 KiB block.
Buddies that are both free are merged (R100). -/
def Tenant.freeOf (t : Tenant) (i k : Nat) : List Nat :=
  let (lo, hi) := t.arena i
  sortBy id ((t.blocks.filterMap fun b =>
    let a := buddy (b.1 / 2 ^ k * 2 ^ k) k
    if b.2 ≤ k ∧ lo ≤ a ∧ a + 2 ^ k ≤ hi ∧ t.occupied a k = false then some a else none).eraseDups)

/-- The first free 64 KiB block from `a` on, within an arena. -/
def Tenant.freeBig (t : Tenant) (hi : Nat) : (fuel a : Nat) → Option Nat
  | 0, _ => none
  | fuel + 1, a => if hi < a + 2 ^ 16 then none else if t.occupied a 16 then t.freeBig hi fuel (a + 2 ^ 16) else some a

/-- A free block of class `k`, else of the smallest larger class that has one; `pick` chooses among those of the class. -/
def Tenant.takeFree (t : Tenant) (i pick : Nat) : (fuel k : Nat) → Option Nat
  | 0, _ => none
  | fuel + 1, k =>
    if k < 16 then
      match t.freeOf i k with
      | [] => t.takeFree i pick fuel (k + 1)
      | l => l[pick % l.length]?
    else
      let (lo, hi) := t.arena i
      let lo := ceilDiv lo (2 ^ 16) * 2 ^ 16
      let n := (hi - lo) / 2 ^ 16
      let start := lo + pick % max 1 n * 2 ^ 16
      (t.freeBig hi (t.blocks.length + 1) start).or (t.freeBig hi (t.blocks.length + 1) lo)

/-- The block that a request gets: the home stack's arena first, then the nearest (R99). A larger block is split, and its lowest
part is taken. -/
def Tenant.allocate (t : Tenant) (home k pick : Nat) : Option Nat :=
  (homeOrder home).findSome? fun i => t.takeFree i pick 12 k

/-- The live block that a request gets although it is not free, after the tenant has stored into the metadata head of an arena: one of
them, or none (R98). -/
def State.wrongBlock (s : State) (tenant : Nat) : Option Nat × State :=
  let t := s.tenant tenant
  if t.headHit then
    let (k, s) := s.pick (t.live.length + 1)
    (if k = 0 then none else (t.live[k - 1]?).map (·.1), s)
  else (none, s)

/-- A valid HFREE is refused, after the tenant has stored into the metadata head of an arena (R98). -/
def State.wrongFree (s : State) (tenant : Nat) : Bool × State :=
  if (s.tenant tenant).headHit then
    let (k, s) := s.pick 2
    (k == 1, s)
  else (false, s)

/-- The allocator unit performs a request of `n` bytes for a tenant, from a core: the block that it hands out, none when it has none
(R98, R99, R101). `desc` is HEAPDESC as the request was issued under; a block of a heap that has been replaced meanwhile is one of an
earlier heap (R97). -/
def State.allocBlock (s : State) (tenant core n : Nat) (desc : Word) : Option Nat × State :=
  if ({ s.tenant tenant with heapdesc := desc } : Tenant).arenaSize = 0 ∨ 65536 < n then (none, s)
  else
    match s.wrongBlock tenant with
    | (some va, s) => (some va, s)
    | (none, s) =>
      let (k, s) := s.pick (2 ^ 64)
      match ({ s.tenant tenant with heapdesc := desc } : Tenant).allocate (homeStack core) (heapClass n) k with
      | none => (none, s)
      | some va => (some va, s.modTenant tenant fun t =>
          if t.heapdesc = desc then { t with live := insert t.live va (heapClass n) } else { t with oldLive := (va, heapClass n) :: t.oldLive })

end Sys2Proof.Machine
end

