-- ==== Sys2Proof/Machine/Record.lean ====
section
/-! DEFINITION. The 2 KiB context record of R269, as the curator sees it at 0x01F0_0100_0000 (R312) and as a save area holds
it: word by word, and back. The packing inside the words that R269 names without bit positions is the model's (log entry 20). -/

namespace Sys2Proof.Machine

/-- TSTAT as read (R249). -/
def Thread.tstat (t : Thread) : Word :=
  w64 (t.level.num + t.plvl.num * 4 + bitNat t.inh * 16 + (if t.ract then t.trep.toNat * 32 else 0))

/-- A write to TSTAT: LVL stays, a PLVL above LVL is stored as LVL, and the REP fields are zero while RACT is 0 (R249). -/
def Thread.setTstat (t : Thread) (v : Word) : Thread :=
  let p := fieldOf v 2 2
  let r : BitVec 40 := if v.toNat.testBit 5 then BitVec.ofNat 40 (fieldOf v 5 40) else 0
  { t with plvl := Level.ofNum (min p t.level.num), inh := v.toNat.testBit 4, trep := r }

/-- The bits of DELEG that name a delegable cause (R256); the others read 0 (R248). -/
def delegMask : Word :=
  w64 (([1, 2, 3, 4, 5, 6, 9, 0x0A, 0x0C, 0x0E, 0x10, 0x11, 0x12, 0x14, 0x18, 0x1A, 0x1B, 0x1C, 0x1D, 0x20, 0x21, 0x22, 0x23,
    0x28, 0x29, 0x2A].map (2 ^ ·)).foldl (· + ·) 0)

/-- The full/empty bits of the general registers. -/
def Thread.fullBits (t : Thread) : Word := w64 ((List.range 48).foldl (fun x n => x + bitNat (t.reg n).full * 2 ^ n) 0)

/-- The exact-accumulator bindings, 4 bits a name: bound in bit 3, physical accumulator in bits 2:0. -/
def Thread.bindings (t : Thread) : Word :=
  w64 ((List.range 8).foldl (fun x n => x + (match (t.xa[n]?).getD none with | some j => (8 + j) * 16 ^ n | none => 0)) 0)

/-- Word `k` (0-3 the entry, 4 the position with bit 63 set when bound) of stream register `n`. -/
def Thread.streamWord (t : Thread) (n k : Nat) : Word :=
  match (t.streams[n]?).getD none with
  | none => 0
  | some x => [x.entry.w0, x.entry.w1, x.entry.w2, x.entry.w3, w64 (x.pos + 2 ^ 63)].getD k 0

/-- The words of the retry latch: word, PC, cause, address, pass and index, record-sent flag (log entry 20: with the flags of
the hold in bits 5:1 and the detail in bits 63:32 of the last, and the held set of a row in bits 63:32 of the fifth). -/
def Latch.words (l : Latch) : List Word :=
  [w64 l.word.toNat, l.pc, w64 l.cause.toNat, l.val, w64 (l.idx + l.pass * 16 + l.barrier % 2 ^ 32 * 2 ^ 32),
    w64 (bitNat l.sent + bitNat l.walk * 2 + bitNat l.double * 4 + bitNat l.fetch * 8 + bitNat l.trapped * 32 + l.detail * 2 ^ 32)]

/-- Word 0 of a context record. -/
def Thread.recordHead (t : Thread) (st : Status) : Word :=
  w64 (t.tid + st.num * 2 ^ 20 + t.cls.num * 2 ^ 24 + t.tenant * 2 ^ 26 + t.level.num * 2 ^ 34 +
    bitNat t.future.isSome * 2 ^ 36 + 2 ^ 63)

/-- A re-issue record of a withdrawn relaxed waiter: address, data, word (R264). The word stands with the REP stagger applied; bits 35:32 beside
it hold 1 + n for a write of stream n (log entry 20). -/
def Access.reissue (a : Access) : List Word :=
  [w64 a.va, a.val, w64 (a.shown.toNat + (match a.kind with | .streamPut n => n + 1 | _ => 0) * 2 ^ 32)]

/-- The words of a context record (R269): `regs` general registers, the state `st`, and the re-issue records. -/
def Thread.recordWords (t : Thread) (regs : Nat) (st : Status) (reissue : List Access) : List Word :=
  [t.recordHead st, t.pc, t.future.getD 0, t.fullBits] ++
  ((List.range 48).map fun n => if n < regs then (t.reg n).val else 0) ++
  [t.tstat, t.fltcause, t.fltval, t.fltpc, t.fltinst,
    w64 ((match t.rep with | some r => r.pack | none => 0).toNat * 32)] ++
  (match t.latch with | some l => l.words | none => [0, 0, 0, 0, 0, 0]) ++
  [t.fprm, w64 t.fpflags.toNat, t.srseed, t.waitlim, t.pwarn, t.deleg, t.utrapvec, t.tscr0, t.tscr1, t.rscr0, t.rscr1,
    t.cpysrc, t.cpydst, t.cpylen, t.cpystr, t.cpyrows, t.cpyflg, t.bindings] ++
  ((List.range 40).map fun i => t.streamWord (i / 5) (i % 5)) ++
  [(match t.vred with | some v => v.val | none => 0),
    (match t.vred with | some v => w64 (v.beats + v.flags.toNat * 2 ^ 32 + v.depth % 2 ^ 16 * 2 ^ 40 + 2 ^ 63) | none => 0)] ++
  ((List.range 24).map fun i => match reissue[i / 3]? with | some a => a.reissue.getD (i % 3) 0 | none => 0) ++
  [w64 t.placement.toNat]

/-- Word `i` of a context record; the words from 1192 on are reserved. -/
def Thread.recordWord (t : Thread) (regs : Nat) (st : Status) (reissue : List Access) (i : Nat) : Word :=
  (t.recordWords regs st reissue).getD i 0

/-- Rebuilds a live REP position from TSTAT bits 44:5 (R254, R269); the body words are fetched by the caller. -/
def unpackRep (x : Nat) (pc : Word) (body : List InstWord) : Option Rep :=
  if x.testBit 0 then
    some { start := pc - w64 (4 * bits x 1 4), len := bits x 30 4 + 1, cnt := bits x 17 13,
           stride := BitVec.ofNat 6 (bits x 34 6), pass := bits x 5 12, idx := bits x 1 4, body := body }
  else none

/-- Rebuilds a retry latch. -/
def unpackLatch (w pc cause val pos flags : Word) : Latch :=
  { word := w.setWidth 32, shown := w.setWidth 32, pc := pc, pass := fieldOf pos 4 12, idx := fieldOf pos 0 4, cause := cause.setWidth 8, val := val,
    detail := fieldOf flags 32 32, sent := flags.toNat.testBit 0, walk := flags.toNat.testBit 1,
    double := flags.toNat.testBit 2, fetch := flags.toNat.testBit 3, barrier := fieldOf pos 32 32,
    trapped := flags.toNat.testBit 5 }

/-- The bits of word 0 of a stream table entry that are not reserved; the others read as zero (R8, R177). -/
def streamMask : Word := 0xFFFFF0037F1FFFFF

/-- A write of word `i` of a stopped thread's record (R312): the state, valid and thread ID fields keep their values. -/
def Thread.setRecordWord (t : Thread) (i : Nat) (v : Word) : Thread :=
  if i = 0 then
    { t with cls := (Cls.ofNum (fieldOf v 24 2)).getD t.cls, tenant := fieldOf v 26 8,
             level := Level.ofNum (fieldOf v 34 2),
             future := if v.toNat.testBit 36 then some (t.future.getD 0) else none }
  else if i = 1 then { t with pc := handlerPc v, dueTrap := none }
  else if i = 2 then { t with future := t.future.map fun _ => v }
  else if i = 3 then
    (List.range 48).foldl (fun t n => t.setReg n { t.reg n with full := v.toNat.testBit n }) t
  else if i < 52 then t.setReg (i - 4) { t.reg (i - 4) with val := v, ecc := .ok }
  else match i with
  | 52 => t.setTstat v
  | 53 => { t with fltcause := v &&& 0x1FF }
  | 54 => { t with fltval := v }
  | 55 => { t with fltpc := v }
  | 56 => { t with fltinst := v &&& 0xFFFFFFFF }
  | 57 => { t with rep := unpackRep (fieldOf v 5 40) t.pc ((t.rep.map (·.body)).getD []) }
  | 58 => { t with latch := t.latch.map fun l => { l with word := v.setWidth 32, shown := v.setWidth 32 } }
  | 59 => { t with latch := t.latch.map fun l => { l with pc := v } }
  | 60 => { t with latch := t.latch.map fun l => { l with cause := v.setWidth 8 } }
  | 61 => { t with latch := t.latch.map fun l => { l with val := v } }
  | 62 => { t with latch := t.latch.map fun l => { l with idx := fieldOf v 0 4, pass := fieldOf v 4 12 } }
  | 63 => { t with latch := t.latch.map fun l => { l with sent := v.toNat.testBit 0 } }
  | 64 => { t with fprm := if fieldOf v 0 3 ≤ 4 then v &&& 7 else 0 }
  | 65 => { t with fpflags := v.setWidth 5 }
  | 66 => { t with srseed := v }
  | 67 => { t with waitlim := v }
  | 68 => { t with pwarn := v &&& 0xFFFFFFFF0000FF07 }
  | 69 => { t with deleg := v &&& delegMask }
  | 70 => { t with utrapvec := v }
  | 71 => { t with tscr0 := v }
  | 72 => { t with tscr1 := v }
  | 73 => { t with rscr0 := v }
  | 74 => { t with rscr1 := v }
  | 75 => { t with cpysrc := v &&& 0xFFFFFFFFFFFFF }
  | 76 => { t with cpydst := v &&& 0xFFFFFFFFFFFFF }
  | 77 => { t with cpylen := v &&& 0xFFFFFFFF }
  | 78 => { t with cpystr := v }
  | 79 => { t with cpyrows := v &&& 0xFFFFFFFF }
  | 80 => { t with cpyflg := v &&& 0xFFFF0003 }
  | 81 => { t with xa := Vector.ofFn fun n : Fin 8 =>
              let x := fieldOf v (4 * n.val) 4
              if 8 ≤ x then some (x - 8) else none }
  | 122 => { t with vred := t.vred.map fun x => { x with val := v } }
  | 123 =>
    let part : VredPart :=
      { val := (t.vred.map (·.val)).getD 0, beats := fieldOf v 0 32, flags := BitVec.ofNat 5 (fieldOf v 32 5), depth := fieldOf v 40 16,
        pc := (t.vred.map (·.pc)).getD (if t.inh then t.fltpc else t.pc), rep := (t.vred.map (·.rep)).getD (if t.inh then t.trep else t.repPos) }
    { t with vred := if v.toNat.testBit 63 then some part else none }
  | 148 => { t with placement := v.setWidth 16 }
  | _ =>
    if 82 ≤ i ∧ i < 122 then
      let n := (i - 82) / 5
      match (t.streams[n]?).getD none with
      | none => t
      | some x =>
        let e := x.entry
        let x := match (i - 82) % 5 with
          | 0 => { x with entry := { e with w0 := v &&& streamMask } }
          | 1 => { x with entry := { e with w1 := v } }
          | 2 => { x with entry := { e with w2 := v } }
          | 3 => { x with entry := { e with w3 := v } }
          | _ => { x with pos := fieldOf v 0 63 }
        { t with streams := t.streams.setIfInBounds n (some x) }
    else t

end Sys2Proof.Machine
end

