-- ==== Sys2Proof/Machine/Watch.lean ====
section
/-! DEFINITION. The placement of DRAM addresses (R90, R91) and the watch tables: which entries match a word, and the watch
event with its actions (R81-R84, R316). -/

namespace Sys2Proof.Machine

/-! ### Where a DRAM address lies (log entry 6) -/

/-- A cell: stack, channel, bank and row. -/
structure Cell where
  stack : Nat
  channel : Nat
  bank : Nat
  row : Nat
  deriving DecidableEq, Repr

/-- The parity of a number's bits below `n`. -/
def parity (x : Nat) : Nat → Bool
  | 0 => false
  | n + 1 => (x.testBit n) ^^ parity x n

/-- The address bits of a group: 33 in the spread class, 30 within a frame (R90). -/
def classWidth (cls : Nat) : Nat := if cls = 0 then 33 else 30

/-- The lowest address bit that row `i` of a class's matrix may select, so that the placement properties of R90 and R91 hold whatever
the matrix: a 256-byte block lies in one row, an 8 KiB block of class 3 is one row, an aligned 32 MiB of class 2 lies in one
channel. -/
def hashLow (cls i : Nat) : Nat := if cls = 3 then 13 else if cls = 2 ∧ 25 ≤ i then 25 else 8

/-- Row `i` of a class's matrix, restricted to the address bits that it may select. -/
def hashRow (m : List Word) (cls i : Nat) : Nat :=
  (m.getD i 0).toNat % 2 ^ classWidth cls / 2 ^ hashLow cls i * 2 ^ hashLow cls i

/-- The hash of R91: bit i is the parity of the address bits that row i of the class's matrix selects. -/
def hashAddr (m : List Word) (cls x : Nat) : Nat :=
  (List.range (classWidth cls)).foldl (fun h i => h + bitNat (parity (hashRow m cls i &&& x) (classWidth cls)) * 2 ^ i) 0

/-- The stack, channel, bank and row of a DRAM address. -/
def State.cellOf (s : State) (pa : Nat) : Cell :=
  let cls := s.classAt pa
  let h := hashAddr (s.front.matrices.getD cls []) cls (pa % 2 ^ classWidth cls)
  let group := pa / 2 ^ 33
  let frame := pa / 2 ^ 30 % 8
  match cls with
  | 0 => { stack := bits h 8 3, channel := bits h 11 5, bank := bits h 16 6, row := 64 * group + bits h 27 6 }
  | 1 => { stack := frame, channel := bits h 8 5, bank := bits h 13 6, row := 64 * group + bits h 24 6 }
  | 2 => { stack := frame, channel := bits h 25 5, bank := bits h 8 6, row := 64 * group + bits h 19 6 }
  | _ => { stack := frame, channel := bits h 13 5, bank := bits h 18 6, row := 64 * group + bits h 24 6 }

/-- The die whose watch table owns a word (R81); for a word of the curator fault queue, which no table owns, see log entry 60. -/
def State.dieOfWord (s : State) (pa : Nat) : Nat :=
  match regionOf pa with
  | .spad c _ => dieOf c
  | _ => (s.cellOf pa).stack

/-- The controller that performs the accesses to a word: a DRAM bank controller (one per channel) or a scratchpad (R75). The words of the
curator fault queue have one of their own, with the list of a bank controller (log entry 61). -/
def State.controller (s : State) (pa : Nat) : Nat :=
  match regionOf pa with
  | .dram => (s.cellOf pa).stack * 32 + (s.cellOf pa).channel
  | .spad c _ => 1000 + c
  | _ => 5000

/-! ### The watch event -/

/-- Who raised a watch event: a thread's access, or a unit's write for a tenant (R84; a host write counts for tenant 0). -/
inductive By where
  | thread (uid : Nat) (access : Option Access)
  | unit (tenant : Nat)
  deriving DecidableEq, Repr

def State.byTenant (s : State) : By → Nat
  | .thread uid _ => ((s.thread? uid).map (·.tenant)).getD 0
  | .unit t => t

/-- The entries of the table that owns the word and hold it. -/
def State.watchMatches (s : State) (pa : Nat) : List WatchEntry :=
  s.watch.filter fun e => e.die == s.dieOfWord pa && decide (e.lo ≤ pa) && decide (pa < e.hi)

/-- A watch event on a folio's source (R215): CHG is set, and a ready folio becomes stale. -/
def Folio.watched (f : Folio) : Folio :=
  match f.state with
  | .ready => { f with state := .stale, chg := true }
  | .loading | .stale | .absent => { f with chg := true }
  | .revoked => f

/-- The row of a table that holds byte `off` of it (R228). -/
def TableSlot.rowAt (t : TableSlot) (off : Nat) : Nat := off / (64 * max 1 (fieldOf (t.words.getD 1 0) 0 9))

/-- The installed version with this serial number, current or old. -/
def Tenant.version? (t : Tenant) (slot serial : Nat) : Option TableSlot :=
  match (lookup? t.tables slot).filter fun v => v.serial == serial with
  | some v => some v
  | none => ((t.oldTables.filter fun e => e.1 == slot && e.2.serial == serial).head?).map (·.2)

/-- Drops the hot-row store rows that hold a word of a watched table (R237). -/
def State.dropHotRow (s : State) (e : WatchEntry) (pa : Nat) : State :=
  match e.installer with
  | .hot tenant slot serial =>
    match (s.tenant tenant).version? slot serial with
    | some v =>
      let r := v.rowAt (e.offset + (pa - e.lo))
      { s with hotRows := s.hotRows.filter fun h => !(h.tenant == tenant && h.slot == slot && h.serial == serial && h.idx == r) }
    | none => s
  | _ => { s with hotRows := s.hotRows.filter fun h => !(h.tenant == e.tenant && h.slot == e.arg.toNat) }

/-- The core whose trace ring takes the record of a watch event on a word (R316). -/
def State.watchCore (s : State) (pa : Nat) : Nat :=
  match regionOf pa with
  | .spad c _ => c
  | _ => 64 * (s.cellOf pa).stack

/-- The instruction of a non-relaxed access is not completed yet: its thread waits for the access, or the instruction makes it itself (`id`
0) and goes on. -/
def Access.unfinished (a : Access) (t : Thread) : Bool := !a.relaxed && (if a.id = 0 then !a.answered else t.await != .nothing)

/-- A watchpoint hit (R316): ACT on the thread whose access raised the event, when it is of tenant TEN, a record of kind 1 for ACT 2 (R315);
a unit's write only writes a record of kind 2. The two go to the same ring (log entry 80). -/
def State.watchpoint (s : State) (e : WatchEntry) (pa : Nat) (by_ : By) : State :=
  let act := actOf (fieldOf (e.arg.setWidth 64) 0 2)
  let ten := fieldOf (e.arg.setWidth 64) 8 8
  match by_ with
  | .thread uid a =>
    match s.thread? uid with
    | none => s
    | some t =>
      if t.tenant ≠ ten then s
      else
        let va := match a with | some a => w64 a.va | none => w64 pa
        if act = 2 then s.trace (s.watchCore pa) 1 (some t) t.pc (hitWord 0 0 va)
        else s.applyAct uid act va (a.filter (·.relaxed)) (a.any (·.unfinished t))
  | .unit u => s.trace (s.watchCore pa) 2 none 0 (w64 pa) u

/-- The message of an action-3 entry (R82, R193, R194): its sender is the thread whose access raised the event, 0 for a unit
(R466). -/
def WatchEntry.message (e : WatchEntry) (pa sender : Nat) : Msg :=
  { id := 0, slot := tidSlot (e.arg.toNat % 2 ^ 20), bound := e.bound, kind := 3, status := 0, sender := sender,
    w0 := e.arg.setWidth 64, w1 := w64 (e.offset + (wordAddr pa - e.lo)), popped := false, device := true }

/-- Applies the action of one matching entry (R82). -/
def State.watchAction (s : State) (e : WatchEntry) (pa : Nat) (by_ : By) : State :=
  match e.action with
  | 0 =>
    match s.folio? e.arg.toNat with
    | some f => s.setFolio e.arg.toNat f.watched
    | none => s
  | 1 => s.dropHotRow e pa
  | 2 => s.watchpoint e pa by_
  | _ =>
    let sender := match by_ with
      | .thread uid _ => ((s.thread? uid).map (·.tid)).getD 0
      | .unit _ => 0
    s.deviceMessage (tidCore (e.arg.toNat % 2 ^ 20)) (e.message pa sender)

/-- A WATCH EVENT on a word: every matching entry's action is applied; an event that matches no entry clears W and is
counted (R82, R84). -/
def State.watchEvent (s : State) (pa : Nat) (by_ : By) : State :=
  let s := match by_ with
    | .thread uid _ =>
      match s.thread? uid with
      | some t => s.count t.core 0x0D (some t)
      | none => s
    | .unit _ => s
  match s.watchMatches pa with
  | [] => (s.setTag pa { s.tag pa with w := false }).countUnmatched (s.dieOfWord pa) (s.byTenant by_)
  | es => es.foldl (fun s e => s.watchAction e pa by_) s

/-- A write to a word with W = 1 raises a watch event. -/
def State.written (s : State) (pa : Nat) (by_ : By) : State :=
  if tagged pa && (s.tag pa).w then s.watchEvent pa by_ else s

/-- The messages that the watch events of a write to each of the words `ws` would send, with the cores they go to (R82). -/
def State.watchMessages (s : State) (ws : List Nat) : List (Nat × Msg) :=
  ws.flatMap fun w =>
    if tagged w && (s.tag w).w then
      (s.watchMatches w).filterMap fun e => if e.action = 3 then some (tidCore (e.arg.toNat % 2 ^ 20), e.message w 0) else none
    else []

/-- The mailbox that a device message would enter: a core's queue, or the mailbox image of a save area. -/
def State.mailPlace (s : State) (e : Nat × Msg) : Nat × Option Nat := (e.1, s.imageFor e.1 e.2)

/-- The entries of a mailbox. -/
def State.mailUsed (s : State) (k : Nat × Option Nat) : Nat :=
  match k.2 with
  | some block => s.imageMail block
  | none => (s.core k.1).mail.length

/-- Every message that a write to the words `ws` raises has room, all of them together (R83, R192). -/
def State.watchRoom (s : State) (ws : List Nat) : Bool :=
  let ks := ((s.watchMessages ws).filter fun e => !s.discards e.1 e.2).map s.mailPlace
  ks.all fun k => decide (s.mailUsed k + ks.count k ≤ Config.mailEntries)

/-! ### Installing and removing entries (R81) -/

/-- The maximal runs of granules of resolved pages that are consecutive as the range has them: (offset in the range, physical base, bytes). -/
def runsOf (lo : Nat) : List (Nat × Nat × Nat) → List (Nat × Nat × Nat) → List (Nat × Nat × Nat)
  | acc, [] => acc.reverse
  | [], (va, pa, n) :: rest => runsOf lo [(va - lo, pa, n)] rest
  | (o, p, m) :: acc, (va, pa, n) :: rest =>
    if p + m = pa ∧ lo + o + m = va then runsOf lo ((o, p, m + n) :: acc) rest else runsOf lo ((va - lo, pa, n) :: (o, p, m) :: acc) rest

/-- The dies whose tables own a granule of the `n` bytes at `pa`, which lie in one aligned 64 KiB. -/
def State.diesOfPiece (s : State) (pa n : Nat) : List Nat :=
  match regionOf pa with
  | .spad c _ => [dieOf c]
  | .dram =>
    if s.classAt pa ≠ 0 then [(s.cellOf pa).stack]
    else (List.range (n / 256 + 2)).filterMap fun i =>
      let a := pa / 256 * 256 + 256 * i
      if a < pa + n then some (s.cellOf a).stack else none
  | _ => []

/-- The dies whose tables own a granule of a physical run (R81). -/
def State.diesOfRun (s : State) (pa n : Nat) : List Nat :=
  let ds := (List.range (n / 65536 + 2)).flatMap fun i =>
    let lo := max pa (pa / 65536 * 65536 + 65536 * i)
    let hi := min (pa + n) (pa / 65536 * 65536 + 65536 * (i + 1))
    if lo < hi then s.diesOfPiece lo (hi - lo) else []
  (List.range 12).filter fun d => ds.contains d

/-- The entries that a range needs: one for each run and die. -/
def State.entriesFor (s : State) (runs : List (Nat × Nat × Nat)) : List (Nat × Nat × Nat × Nat) :=
  runs.flatMap fun r => (s.diesOfRun r.2.1 r.2.2).map fun d => (d, r)

/-- Every table concerned has room for the entries (R81). -/
def State.tablesHold (s : State) (es : List (Nat × Nat × Nat × Nat)) : Bool :=
  (List.range 12).all fun d =>
    decide ((s.watch.filter fun e => e.die == d).length + (es.filter fun e => e.1 == d).length ≤ Config.watchEntries)

/-- Sets W on every word of a physical range. -/
def State.setW (s : State) (pa n : Nat) : State :=
  iterate (n / 8) 0 (fun i s => if tagged (pa + 8 * i) then s.setTag (pa + 8 * i) { s.tag (pa + 8 * i) with w := true } else s) s

/-- Installs the entries and sets W on every word of the range (R81). -/
def State.installWatch (s : State) (es : List (Nat × Nat × Nat × Nat)) (runs : List (Nat × Nat × Nat)) (tenant action : Nat)
    (arg : BitVec 32) (by_ : Installer) (bound : Option Nat) : State :=
  let s := { s with watch := s.watch ++ es.map fun e =>
    { die := e.1, lo := e.2.2.1, hi := e.2.2.1 + e.2.2.2, tenant := tenant, action := action, arg := arg, installer := by_,
      offset := e.2.1, bound := bound } }
  runs.foldl (fun s r => s.setW r.2.1 r.2.2) s

end Sys2Proof.Machine
end

