-- ==== Sys2Proof/Machine/Wake.lean ====
section
/-! DEFINITION. Wake registers (R286-R288), the curator's registers in system space (R298, R303, R312, R322), and accesses
to accumulator memory, the host window and the peer windows (R111, R297). -/

namespace Sys2Proof.Machine

/-! ### Wake registers -/

/-- Consumers of a queue (R279: NCONS + 1, with the handler consumer the last when HND is 1). -/
def Queue.last (q : Queue) : Nat := fieldOf (q.words.getD 1 0) 5 2
def Queue.hnd (q : Queue) : Bool := (q.words.getD 1 0).toNat.testBit 7
def Queue.ring (q : Queue) : Nat := fieldOf (q.words.getD 0 0) 0 52
def Queue.len (q : Queue) : Nat := 2 ^ fieldOf (q.words.getD 1 0) 0 5
def Queue.version (q : Queue) : Nat := fieldOf (q.words.getD 1 0) 8 8
def Queue.vector (q : Queue) : Nat := fieldOf (q.words.getD 7 0) 0 3
def Queue.consumer (q : Queue) (i : Nat) : Consumer := (q.cons[i]?).getD Consumer.start
def Queue.progress (q : Queue) (i : Nat) : Word := (q.prog[i]?).getD 0
def Queue.setConsumer (q : Queue) (i : Nat) (c : Consumer) : Queue := { q with cons := q.cons.setIfInBounds i c }
def Queue.setProgress (q : Queue) (i : Nat) (v : Word) : Queue := { q with prog := q.prog.setIfInBounds i v }

/-- STATUS: the stopped consumers, and the error code, cause and SEQ of the record that failed last (R286). -/
def Queue.status (q : Queue) : Word :=
  let stopped := below 4 fun i => (q.consumer i).wait == .stopped
  let last := stopped.foldl (fun (b : Option Consumer) i =>
    match b with
    | some c => if c.order < (q.consumer i).order then some (q.consumer i) else some c
    | none => some (q.consumer i)) none
  w64 ((stopped.map (2 ^ ·)).foldl (· + ·) 0 +
    (match last with | some c => c.err * 2 ^ 8 + c.cause * 2 ^ 16 + c.seq % 65536 * 2 ^ 24 | none => 0))

/-- Where word `i` of the descriptor lies; rings and descriptors may lie in host-owned pages (R295). -/
def State.descPa (s : State) (q : Queue) (i : Nat) : Option Nat :=
  match s.resolve { tenant := q.tenant, curator := false, core := none, ignoreH := true } (q.descVa + 8 * i) 8 .write with
  | .ok pa => some pa
  | _ => none

/-- Where the descriptor's WAKEM lies. -/
def State.wakemPa (s : State) (q : Queue) : Option Nat := s.descPa q 2

/-- The wake value: WAKE, or WAKEM while the queue is switched out (R288). A WAKEM that is poisoned returns no data (R85): the value that
the wake unit holds stands (log entry 62). -/
def State.wakeValue (s : State) (q : Queue) : Word :=
  if q.out then (match s.wakemPa q with | some pa => (s.storeDue pa).getD (if s.unreadable pa then q.wake else s.word pa) | none => q.wake) else q.wake

/-- A read of a wake register (R286, R287). A queue that does not exist reads as 0. -/
def State.wakeRead (s : State) (q off : Nat) : Word :=
  match s.queue? q with
  | none => 0
  | some x =>
    match off / 8 with
    | 0 => s.wakeValue x
    | 5 => x.status
    | 6 | 7 => 0
    | i => x.progress (i - 1)

/-- The greater of two words, unsigned. -/
def umax (a b : Word) : Word := if a.toNat ≤ b.toNat then b else a

/-- The consumers that a write of WAKE sets going again (R281, R284): those that wait for the wake value, on a mismatched
SEQ or in a mode-1 WAIT. -/
def Queue.kick (q : Queue) : Queue :=
  { q with cons := Vector.ofFn fun i =>
    match q.cons[i].wait with
    | .wake | .seq | .poll => { q.cons[i] with wait := .running }
    | _ => q.cons[i] }

/-- A write of WAKE: the larger value stays (R286); a raise with HND = 1 calls for the handler (R289). -/
def State.writeWake (s : State) (q : Nat) (v : Word) : State :=
  match s.queue? q with
  | none => s
  | some x =>
    if x.out then
      let s := s.setQueue q x.kick
      match s.wakemPa x with
      | some pa => s.storePlain x.tenant pa (umax (s.wakeValue x) v)
      | none => s.setQueue q { x.kick with wake := umax x.wake v }
    else
      let raised := decide (x.wake.toNat < v.toNat)
      let s := s.setQueue q { x.kick with wake := umax x.wake v, due := x.due || (raised && x.hnd) }
      if raised && x.hnd then s.postNow (.queueHandlerDispatch q) else s

/-- Consumer `i` of a queue has committed up to `v`: the progress stands in the wake register and in the descriptor (R279, R286; log
entry 27). -/
def State.setProg (s : State) (q i : Nat) (v : Word) : State :=
  match s.queue? q with
  | none => s
  | some x =>
    let s := s.setQueue q (x.setProgress i v)
    match s.descPa x (3 + i) with
    | some pa => s.storePlain x.tenant pa v
    | none => s

/-- Changes a consumer. -/
def State.modConsumer (s : State) (q i : Nat) (f : Consumer → Consumer) : State :=
  match s.queue? q with
  | none => s
  | some x => s.setQueue q (x.setConsumer i (f (x.consumer i)))

/-- The record commits (R281). -/
def State.commit (s : State) (q i : Nat) : State :=
  match s.queue? q with
  | none => s
  | some x =>
    let c := x.consumer i
    (s.setQueue q (x.setConsumer i { c with cur := c.cur + 1, wait := .running, step := 0, accepted := c.accepted.tail })).setProg q i (w64 (c.cur + 1))

/-- The MSI-X entry of a tenant's vector (R296) is masked: its message waits, with the pending bit set. -/
def Front.masked (f : Front) (e : Nat) : Bool := (lookupD f.msixTable (2 * e + 1) (w64 (2 ^ 32))).toNat.testBit 32

/-- Sends a tenant's MSI-X vector. -/
def State.interrupt (s : State) (tenant vector : Nat) : State :=
  s.modFront fun f =>
    let e := 8 * tenant + vector
    { f with irqs := (tenant, vector) :: f.irqs,
             msixPending := if f.masked e && !f.msixPending.contains e then e :: f.msixPending else f.msixPending }

/-- The record fails: its consumer stops, and the record is not committed (R285). -/
def State.failRecord (s : State) (q i err : Nat) (cause : BitVec 8) : State :=
  match s.queue? q with
  | none => s
  | some x =>
    ({ s with nextId := s.nextId + 1 }.modConsumer q i fun c =>
      { c with wait := .stopped, err := err, cause := cause.toNat, seq := c.cur, order := s.nextId, step := 0, accepted := [] }).interrupt x.tenant x.vector

/-- A write of PROGi counts only for the handler consumer (R286). -/
def State.writeProg (s : State) (q i : Nat) (v : Word) : State :=
  match s.queue? q with
  | none => s
  | some x => if x.hnd && i == x.last then s.setProg q i (umax (x.progress i) v) else s

/-- A write of STATUS restarts the stopped consumers that it names; with bit 8 the failed record is skipped and committed
(R285). -/
def State.writeStatus (s : State) (q : Nat) (v : Word) : State :=
  match s.queue? q with
  | none => s
  | some x =>
    (List.range 4).foldl (fun s i =>
      let c := x.consumer i
      if v.toNat.testBit i && c.wait == .stopped then
        let c := { c with wait := .running, err := 0, cause := 0, step := 0, accepted := [] }
        let skip := v.toNat.testBit 8
        let s := s.setQueue q (((s.queue? q).getD x).setConsumer i (if skip then { c with cur := c.cur + 1 } else c))
        if skip then s.setProg q i (w64 (c.cur + 1)) else s
      else s) s

/-- A write of a wake register (R286). -/
def State.wakeWrite (s : State) (q off : Nat) (v : Word) : State :=
  match off / 8 with
  | 0 => s.writeWake q v
  | 5 => s.writeStatus q v
  | 6 | 7 => s
  | i => s.writeProg q (i - 1) v

/-! ### System space -/

/-- A PGIDLE entry; 0x040 after reset (R298). -/
def State.pgidle (s : State) (bank : Nat) : BitVec 12 := lookupD s.front.pgidle bank 0x040

def State.writePgidle (s : State) (bank : Nat) (v : Word) : State :=
  s.modFront fun f => { f with pgidle := if v.setWidth 12 = 0x040 then erase f.pgidle bank else insert f.pgidle bank (v.setWidth 12) }

/-- The kind of a link that is no port: which are die-to-die links and which stack links is open, but the fabric joins the dies by die-to-die
links, and every DRAM stack stands on a base die (R10), so there is one of each kind (log entry 56). -/
def linkKind (l : Nat) : Nat :=
  let some_ (k : Nat) : Bool := (List.range 246).any fun i => (Config.linkKind (10 + i)).val == k
  if l = 10 ∧ some_ 1 = false then 1 else if l = 11 ∧ some_ 2 = false then 2 else (Config.linkKind l).val

/-- The lanes of a link: a CXL port has 16 and a Bynus port 8 (R10); of the others the manual gives no count (log entry 56). -/
def linkLaneCount (l : Nat) : Nat := if l < 2 then 16 else if l < 10 then 8 else (Config.linkLanes l).val

/-- An entry of the link directory (R303): what the manual fixes of a port, and what it leaves open (log entry 56). -/
def State.linkEntry (s : State) (l : Nat) : Word :=
  let lanes := w64 (linkLaneCount l * 2 ^ 24)
  match lookup? s.front.directory l with
  | some v => v ||| w64 ((Config.linkDies l).1.val * 2 ^ 8) ||| lanes
  | none => w64 (linkKind l + (Config.linkDies l).1.val * 2 ^ 8 + (Config.linkDies l).2.val * 2 ^ 16) ||| lanes

/-- The lane of a link. -/
def State.lane (s : State) (link lane : Nat) : Lane :=
  lookupD s.front.margins (link * 512 + lane) { reg := 0, retraining := false, spare := false }

def State.setLane (s : State) (link lane : Nat) (l : Lane) : State :=
  s.modFront fun f => { f with margins := insert f.margins (link * 512 + lane) l }

/-- A write of an eye-margin register: BELOW is cleared by writing 1, the other fields take the value (R303). -/
def State.writeMargin (s : State) (link lane : Nat) (v : Word) : State :=
  let l := s.lane link lane
  let below := l.reg.toNat.testBit 32 && !v.toNat.testBit 32
  s.setLane link lane { l with reg := BitVec.ofNat 33 (v.toNat % 2 ^ 32 + bitNat below * 2 ^ 32) }

/-- A read of 64 bits of system space. -/
def State.systemRead (s : State) (off : Nat) : Word :=
  if 0x100000 ≤ off ∧ off < 0x120000 then (s.pgidle ((off - 0x100000) / 8)).setWidth 64
  else if 0x200000 ≤ off ∧ off < 0x200000 + 12 * 256 * 16 then
    let i := (off - 0x200000) / 16
    if off % 16 = 0 then (lookupD s.front.unmatched i 0).setWidth 64 else (lookupD s.front.skipped i 0).setWidth 64
  else if 0x300000 ≤ off ∧ off < 0x328000 then ((s.core ((off - 0x300000) / 128)).repair[(off - 0x300000) % 128 / 8]?).getD 0
  else if 0x400000 ≤ off ∧ off < 0x400800 then s.linkEntry ((off - 0x400000) / 8)
  else if 0x500000 ≤ off ∧ off < 0x600000 then (s.lane ((off - 0x500000) / 0x1000) ((off - 0x500000) % 0x1000 / 8)).reg.setWidth 64
  else if 0x1000000 ≤ off ∧ off < 0x1000000 + 1280 * 512 * 2048 then
    let tid := (off - 0x1000000) / 2048
    match s.occupant? tid with
    | some t =>
      if t.status = .trappedStopped then
        t.recordWord (s.core t.core).regCount t.status [] ((off - 0x1000000) % 2048 / 8)
      else 0
    | none => 0
  else s.word (0x01F000000000 + off)

/-- A write of a word of a stopped thread's context record; dropped while it is not stopped. Of word 0, the state, valid and thread ID
fields keep their values (R312). -/
def State.writeRecord (s : State) (tid i : Nat) (v : Word) : State :=
  match s.occupant? tid with
  | some t => if t.status = .trappedStopped then s.setThread (t.setRecordWord i v) else s
  | none => s

/-- A write of entry `i` of a core's repair table; it takes effect at the core's next reset (R305, R475). -/
def State.writeRepair (s : State) (c i : Nat) (v : Word) : State :=
  s.modCore c fun co => { co with repair := co.repair.setIfInBounds i (v &&& 0x9F00FFFF) }

/-- A write of 64 bits of system space. -/
def State.systemWrite (s : State) (off : Nat) (v : Word) : State :=
  if 0x100000 ≤ off ∧ off < 0x120000 then s.writePgidle ((off - 0x100000) / 8) v
  else if 0x200000 ≤ off ∧ off < 0x200000 + 12 * 256 * 16 then s
  else if 0x300000 ≤ off ∧ off < 0x328000 then s.writeRepair ((off - 0x300000) / 128) ((off - 0x300000) % 128 / 8) v
  else if 0x400000 ≤ off ∧ off < 0x400800 then s
  else if 0x500000 ≤ off ∧ off < 0x600000 then s.writeMargin ((off - 0x500000) / 0x1000) ((off - 0x500000) % 0x1000 / 8) v
  else if 0x1000000 ≤ off ∧ off < 0x1000000 + 1280 * 512 * 2048 then
    s.writeRecord ((off - 0x1000000) / 2048) ((off - 0x1000000) % 2048 / 8) v
  else s.storeWord (0x01F000000000 + off) v

/-- The parts of system space that take 64-bit plain accesses only (R298, R303; for R312 and R322 see log entry 21). -/
def systemRegister (off : Nat) : Bool :=
  (decide (0x100000 ≤ off) && decide (off < 0x120000)) || (decide (0x200000 ≤ off) && decide (off < 0x20C000)) ||
    (decide (0x300000 ≤ off) && decide (off < 0x328000)) ||
    (decide (0x400000 ≤ off) && decide (off < 0x400800)) || (decide (0x500000 ≤ off) && decide (off < 0x600000)) ||
    (decide (0x1000000 ≤ off) && decide (off < 0x51000000))

/-! ### Stores that leave the device's memory order (R111) -/

/-- A store to the host window or a peer window leaves: it is performed when the port accepts it, and its coherence point
follows (R111). The host window's data is kept in `mem`; what a peer holds is not the device's state. -/
def State.sendOutward (s : State) (uid : Option Nat) (queue : Option (Nat × Nat)) (pa size x : Nat) : State :=
  let s := match regionOf pa with
    | .host => s.store pa size x
    | _ => { s with peerStores := (pa, size, w64 x) :: s.peerStores }
  let o : Outward := { id := s.nextId, uid := uid, queue := queue, pa := pa, size := size, val := w64 x }
  { s with outward := s.outward ++ [o], nextId := s.nextId + 1 }.postNow (.coherencePointReached s.nextId)

end Sys2Proof.Machine
end

