-- ==== Sys2Proof/Machine/Access.lean ====
section
/-! DEFINITION. An access at its controller: the conditions of the modes, the indivisible step with its data and tag effects,
the service of the wait list, refusals, and the writes of engines (R69-R87, R102, R109, R266, R314). -/

namespace Sys2Proof.Machine

/-! ### The banks (R298) -/

/-- The number of a cell's bank: stack × 2048 + channel × 64 + bank. -/
def Cell.bankNo (c : Cell) : Nat := c.stack * 2048 + c.channel * 64 + c.bank

def State.bank (s : State) (n : Nat) : Bank := lookupD s.front.banks n { openRow := none, last := 0, period := s.pgidle n }

/-- An access to a DRAM address activates its row and restarts the bank's idle timer with the period that PGIDLE then holds. Page policy
changes timing only. -/
def State.activate (s : State) (pa : Nat) : State :=
  match regionOf pa with
  | .dram =>
    let n := (s.cellOf pa).bankNo
    s.modFront fun f => { f with banks := insert f.banks n { openRow := some (s.cellOf pa).row, last := s.now, period := s.pgidle n } }
  | _ => s

/-- Accesses to every granule of a range (R298). -/
def State.activateRange (s : State) (lo n : Nat) : State :=
  iterate (ceilDiv n 64) 0 (fun k s => s.activate (lo + 64 * k)) s

/-! ### What an access is -/

def AccessKind.pair : AccessKind → Bool
  | .loadPair | .storePair => true
  | _ => false

/-- An access with no data, to be completed by the instruction that makes it. -/
def Access.blank (kind : AccessKind) (va : Word) (pa : Nat) : Access :=
  { id := 0, uid := 0, kind := kind, mode := 0, size := 3, signed := false, relaxed := false, va := va.toNat, pa := pa,
    val := 0, val2 := 0, dst := none, word := 0, shown := 0, rsvd := false, row := 0, phase := .sent, answered := false }

/-- A non-relaxed access of one word that an instruction of the thread makes itself, on its way through no list: `late`, when the instruction
has completed before it. -/
def Access.own (kind : AccessKind) (uid : Nat) (va : Word) (pa : Nat) (late : Bool := false) : Access :=
  { Access.blank kind va pa with uid := uid, answered := late }

/-- The word addresses that an access touches; a HALLOC.nf touches none, and an ACLR those of the rows that it has yet to clear. -/
def Access.words (a : Access) : List Nat :=
  match a.kind with
  | .loadPair | .storePair => [a.pa, a.pa + 8]
  | .alloc => []
  | .clear => (List.range (32 * a.val.toNat)).map fun i => a.pa + 8 * i
  | _ => [wordAddr a.pa]

/-- The condition of an access waits for P = 1 (R70, R73, R284). -/
def Access.needsPresent (a : Access) : Bool :=
  match a.kind with
  | .load | .loadPair | .streamElem _ => a.mode == 1 || a.mode == 2
  | .amo _ | .cas => a.mode == 1
  | .queueWait _ _ => true
  | _ => false

/-- The condition of an access waits for P = 0 (R71). -/
def Access.needsAbsent (a : Access) : Bool :=
  match a.kind with
  | .store | .storePair | .streamPut _ => a.mode == 1
  | _ => false

/-- An access that may be placed on a wait list; in a relaxed form its thread waits for the controller's answer (R56). -/
def Access.mayWait (a : Access) : Bool := a.needsPresent || a.needsAbsent

/-- The condition of an access holds (R76). -/
def State.condition (s : State) (a : Access) : Bool :=
  (!a.needsPresent || a.words.all fun w => (s.tag w).p) && (!a.needsAbsent || a.words.all fun w => !(s.tag w).p)

/-- A full overwrite clears poison instead of trapping (R86, R87). -/
def Access.overwrites (a : Access) : Bool :=
  match a.kind with
  | .store | .storePair | .streamPut _ => a.size == 3 && a.mode != 1
  | _ => false

/-- The access belongs to a stream unit (R107). -/
def Access.streamed (a : Access) : Bool :=
  match a.kind with
  | .streamElem _ | .streamPut _ => true
  | _ => false

/-- The thread waits for the controller's answer to this access (R56). -/
def Access.answers (a : Access) : Bool :=
  match a.kind with
  | .streamElem _ | .streamPut _ | .queueWait _ _ | .alloc => false
  | _ => !a.relaxed || a.mayWait

def State.access? (s : State) (id : Nat) : Option Access := s.accesses.find? fun a => a.id == id
def State.setAccess (s : State) (a : Access) : State :=
  { s with accesses := s.accesses.map fun x => if x.id = a.id then a else x }
def State.dropAccess (s : State) (id : Nat) : State := { s with accesses := s.accesses.filter fun a => !(a.id == id) }

/-- The tenant whose access it is. -/
def State.accessTenant (s : State) (a : Access) : Nat :=
  match a.kind with
  | .queueWait q _ => ((s.queue? q).map (·.tenant)).getD 0
  | _ => ((s.thread? a.uid).map (·.tenant)).getD 0

/-- The registers of the result, for the destination code: a pair for LDP. -/
def Access.results (a : Access) (v v2 : Word) : List (Nat × Word) :=
  match a.dst with
  | none => []
  | some d => if a.kind.pair then [(d, v), (d + 1, v2)] else [(d, v)]

/-- The registers that wait for the result. -/
def Access.dsts (a : Access) : List Nat := ((a.results 0 0).map (·.1)).filter fun d => decide (d < 48)

/-! ### The end of an access -/

/-- The source fields of the instruction that take a value from a stream, `lnk` or `mbx` (R25): AMO and TAGSET read ga and gb so, CAS and
TAGRD ga. -/
def Access.pops (a : Access) : List Nat :=
  let codes : List Nat := match a.kind with
    | .amo _ | .tagset => [bits a.word.toNat 14 6, bits a.word.toNat 8 6]
    | .cas | .tagrd => [bits a.word.toNat 14 6]
    | _ => []
  codes.filter fun c => decide (48 ≤ c) && decide (c < 59) && decide (c ≠ 56)

/-- A general-register result can be written at once; another destination is pushed by LONG_LATENCY_RESULT. -/
def plainRegs (rs : List (Nat × Word)) : Bool := rs.all fun r => decide (r.1 < 48)

/-- An access has been performed with the results `rs` (R48, R53, R56): a parked thread gets its destination and goes on; a
thread that waits for the answer gets the answer, and so does a parked one whose instruction has operands to pop (R57); a relaxed access
is done. -/
def State.performedWith (s : State) (a : Access) (rs : List (Nat × Word)) : State :=
  match a.kind with
  | .streamElem n =>
    let v := match rs with | (_, v) :: _ => (v >>> a.val.toNat) &&& a.val2 | [] => 0
    (s.dropAccess a.id).modThread a.uid fun t =>
      { t with streams := t.streams.setIfInBounds n (((t.streams[n]?).getD none).map fun x => { x with ahead := x.ahead ++ [v] }) }
  | .streamPut _ => s.dropAccess a.id
  | .queueWait q i => (s.dropAccess a.id).commit q i
  | _ =>
    if !a.answers then (s.dropAccess a.id).sendResult a.uid rs
    else if a.answered && (a.relaxed || a.pops.isEmpty) then
      let s := s.dropAccess a.id
      if a.relaxed then s.sendResult a.uid rs
      else
        let s := if plainRegs rs then s.writeRegs a.uid true rs else s.sendResult a.uid rs
        s.retire a.uid a.word a.rsvd false a.row
    else
      ((s.setAccess { a with phase := .performed, answered := false }).sendResult a.uid rs).postNow (.controllerAnswer a.id)

/-- An access is withdrawn or refused: its destination registers become full again and hold their old values (R57). -/
def State.restoreDests (s : State) (a : Access) : State :=
  s.modThread a.uid fun t => a.dsts.foldl (fun t n => if (t.reg n).due then t.unmarkDue n else t) t

/-- An element of a stream is refused or withdrawn: the instruction that waits for it takes the trap. An element read ahead takes
it at the instruction that pops it (R78, R184); a refusal by a full list is forgotten, since that instruction asks again. -/
def State.failElement (s : State) (a : Access) (n : Nat) (cause : BitVec 8) (val : Word) (detail : Nat) : State :=
  let s := s.dropAccess a.id
  match s.thread? a.uid with
  | none => s
  | some t =>
    if a.answered ∧ t.await ≠ .streamElement n then
      if cause = 0x0D then s
      else s.setThread (t.defer { id := a.id, cause := cause, val := val, word := 0, dst := [48 + n] })
    else
      (s.setThread t.wake).raise a.uid cause val detail (if a.answered then t.parked else a.word)
        (if a.answered then t.parkedShown else a.shown)

/-- A refused access: the answer carries the cause; a parked thread takes it at once; a relaxed access defers it (R79, R86,
R253). -/
def State.refuse (s : State) (a : Access) (cause : BitVec 8) (val : Word) (detail : Nat) : State :=
  match a.kind with
  | .queueWait q i => (s.dropAccess a.id).failRecord q i 4 cause
  | .streamElem n => s.failElement a n cause val detail
  | _ =>
    if a.answers && !a.answered then
      (s.setAccess { a with phase := .refused cause val detail }).postNow (.controllerAnswer a.id)
    else if a.relaxed then
      (s.dropAccess a.id).modThread a.uid fun t =>
        t.defer { id := a.id, cause := cause, val := val, word := a.shown, dst := a.dsts }
    else (((s.dropAccess a.id).restoreDests a).modThread a.uid Thread.wake).raise a.uid cause val detail a.word a.shown

/-! ### The indivisible step -/

/-- New data of AMO (R342). -/
def amoResult (op : Nat) (old v : Word) : Word :=
  match op with
  | 0 => old + v
  | 1 => old &&& v
  | 2 => old ||| v
  | 3 => old ^^^ v
  | 4 => if old.toInt ≤ v.toInt then old else v
  | 5 => if old.toInt ≤ v.toInt then v else old
  | 6 => if old.toNat ≤ v.toNat then old else v
  | 7 => if old.toNat ≤ v.toNat then v else old
  | _ => v

/-- The loaded bytes as they reach a register (R409). -/
def loadValue (raw size : Nat) (signed : Bool) : Word :=
  match size with
  | 0 => if signed then (BitVec.ofNat 8 raw).signExtend 64 else w64 (raw % 2 ^ 8)
  | 1 => if signed then (BitVec.ofNat 16 raw).signExtend 64 else w64 (raw % 2 ^ 16)
  | 2 => if signed then (BitVec.ofNat 32 raw).signExtend 64 else w64 (raw % 2 ^ 32)
  | _ => w64 raw

/-- P after a store (R71): `.e` and `.s` set it, `.c` clears it, `.p` leaves it. -/
def storeP (mode : Nat) (old : Bool) : Bool := if mode = 0 then old else mode != 3

/-- What a store writes: a 4-bit stream element, named by `val2`, goes into its half of the byte (R183). -/
def State.storeValue (s : State) (a : Access) : Word :=
  if decide (a.size = 0) && (match a.kind with | .streamPut _ => a.val2 != 0 | _ => false) then
    w64 (setBits (s.byte a.pa).toNat (4 * (a.val2.toNat - 1)) 4 a.val.toNat)
  else a.val

/-- The store of one tagged word or a part of it, with its tag effect and its watch event (R442). -/
def State.storeTagged (s : State) (a : Access) (pa : Nat) (v : Word) : State :=
  if s.poisoned pa then
    (s.setTag pa { p := a.mode != 3, w := false, poison := false, ecc := .ok }).storeWord pa v
  else
    let s := s.store pa (2 ^ a.size) (v.toNat % 2 ^ (8 * 2 ^ a.size))
    let s := s.setP pa (storeP a.mode (s.tag pa).p)
    s.written (wordAddr pa) (.thread a.uid (some a))

/-- A take clears P and counts as a write for watch (R70). -/
def State.takeWord (s : State) (a : Access) (pa : Nat) : State :=
  (s.setP pa false).written pa (.thread a.uid (some a))

/-- The data and tag effects of an access whose condition holds, on tagged memory; with its results. -/
def State.applyTagged (s : State) (a : Access) : State × List (Nat × Word) :=
  match a.kind with
  | .load | .streamElem _ =>
    let v := loadValue (s.read a.pa (2 ^ a.size)) a.size a.signed
    (if a.mode = 2 then s.takeWord a a.pa else s, (match a.kind with | .streamElem _ => [(0, v)] | _ => a.results v 0))
  | .loadPair =>
    let v := s.word a.pa
    let v2 := s.word (a.pa + 8)
    (if a.mode = 2 then
      let s := (s.setP a.pa false).setP (a.pa + 8) false
      (s.written a.pa (.thread a.uid (some a))).written (a.pa + 8) (.thread a.uid (some a))
     else s, a.results v v2)
  | .store | .streamPut _ => (s.storeTagged a a.pa (s.storeValue a), [])
  | .storePair => ((s.storeTagged a a.pa a.val).storeTagged a (a.pa + 8) a.val2, [])
  | .amo op =>
    let old := s.word a.pa
    ((s.storeWord a.pa (amoResult op old a.val)).written a.pa (.thread a.uid (some a)), a.results old 0)
  | .cas =>
    let old := s.word a.pa
    (if old = a.val then (s.storeWord a.pa a.val2).written a.pa (.thread a.uid (some a)) else s, a.results old 0)
  | .tagrd => (s, a.results (w64 (bitNat (s.tag a.pa).p + 2 * bitNat (s.tag a.pa).w)) 0)
  | .tagset =>
    let p := a.val.toNat.testBit 0
    let was := (s.tag a.pa).p
    let s := s.setP a.pa p
    (if was && !p then s.written a.pa (.thread a.uid (some a)) else s, [])
  | .queueWait _ _ | .alloc | .clear => (s, [])

/-- The classes of an access that a type A comparator tests: read 1, write 2, sync 4, take 8 (R314). -/
def Access.classes (a : Access) : Nat :=
  match a.kind with
  | .load | .loadPair | .streamElem _ => if a.mode = 0 then 1 else if a.mode = 1 then 4 else 8
  | .store | .storePair | .streamPut _ => if a.mode = 0 then 2 else 4
  | .amo _ => 3
  | .cas => 3
  | _ => 0

/-- Type A: bytes `off` to `off + n - 1` of the scratchpad, in the classes `cl`, for a thread of tenant `ten` (R313). -/
def spadMatch (ten cl off n : Nat) (ctl a b : Nat) : Bool :=
  decide (bits ctl 0 2 = 1) && decide (bits ctl 8 8 = ten) && decide (ten ≠ 0) && decide (bits ctl 4 4 &&& cl ≠ 0) &&
    decide (off ≤ bits b 0 20) && decide (bits a 0 20 < off + n)

/-- Type B: bytes `off` to `off + n - 1` of the accumulator memory (R313). -/
def accMatch (ten cl off n : Nat) (ctl a b : Nat) : Bool :=
  decide (bits ctl 0 2 = 2) && decide (bits ctl 8 8 = ten) && decide (ten ≠ 0) && decide (bits ctl 4 2 &&& cl ≠ 0) &&
    (List.range n).any fun i =>
      let r := (off + i) / 256
      let c := (off + i) % 256 / 4
      decide (bits a 0 10 ≤ r) && decide (r ≤ bits a 16 10) && decide (bits b 0 6 ≤ c) && decide (c ≤ bits b 8 6)

/-- The comparators that test an access of the classes `cl` to `n` bytes, with their core (R314). -/
def State.rangeMatches (s : State) (pa n cl ten : Nat) : Nat × List Nat :=
  match regionOf pa with
  | .spad c off => (c, s.matching c (spadMatch ten cl off n))
  | .acc c off => (c, s.matching c (accMatch ten cl off n))
  | _ => (0, [])

/-- The comparators that test an access (R314). A failed CAS counts as a read (R349). -/
def State.accessMatches (s : State) (a : Access) (ten : Nat) : Nat × List Nat :=
  s.rangeMatches a.pa (if a.kind.pair then 16 else 2 ^ a.size) (if a.kind = .cas ∧ s.word a.pa ≠ a.val then 1 else a.classes) ten

/-- The comparators apply their actions to the thread (R315). -/
def State.compareAccess (s : State) (a : Access) (m : Nat × List Nat) : State :=
  match m.2, s.thread? a.uid with
  | [], _ => s
  | ns, some t => s.applyMatches m.1 t ns (w64 a.va) (if a.relaxed then some a else none) (a.unfinished t)
  | _, none => s

/-- The access writes data. -/
def AccessKind.writes : AccessKind → Bool
  | .store | .storePair | .streamPut _ | .amo _ | .cas => true
  | _ => false

/-- A store of a tenant into the metadata head of an arena of its heap is remembered: the allocator's later answers to the tenant can
be wrong (R98). -/
def State.noteHead (s : State) (a : Access) : State :=
  let ten := s.accessTenant a
  if a.kind.writes && (s.tenant ten).inHead a.va then s.modTenant ten fun t => { t with headHit := true } else s

/-- Performs an access whose condition holds: the step of the controller, the comparators, and the end of the access. -/
def State.performTagged (s : State) (a : Access) : State :=
  let m := s.accessMatches a (s.accessTenant a)
  let (s, rs) := (s.noteHead a).applyTagged a
  (s.compareAccess a m).performedWith a rs

/-! ### Wait lists -/

/-- The arrival order of a waiting access. -/
def Access.order? (a : Access) : Option Nat :=
  match a.phase with
  | .waiting o _ => some o
  | _ => none

/-- The waiters of the words `ws`, in arrival order (R76). -/
def State.waiters (s : State) (ws : List Nat) : List Access :=
  sortBy (fun a => a.order?.getD 0) (s.accesses.filter fun a => a.order?.isSome && a.words.any fun w => ws.contains w)

/-- A row operation runs on the DRAM row that holds `pa`: other accesses to it wait (R300). -/
def State.rowRunning (s : State) (pa : Nat) : Bool := s.rowOps.any fun r => decide (pa / 8192 * 8192 = r.dst)

/-- A copy engine carries out an RCOPY onto the row that holds `pa`, and has not reached the word (R300). -/
def State.rowClaimed (s : State) (pa : Nat) : Bool :=
  s.cores.any fun e => e.2.transfers.any fun x => x.rowFallback && x.pages.head?.any fun p => decide (p.2.1 + 8 * x.next ≤ pa) && decide (pa < p.2.1 + 8192)

/-- The words of an access at which its step raises a watch event if W is set there (R70, R82, R442): what it takes, stores to or changes
as it finds them now. A poisoned word that is overwritten has W = 0, an access that is to wait or meets poison changes nothing, and
neither does a failed CAS or a TAGSET that leaves P set or clear. -/
def State.raisedBy (s : State) (a : Access) : List Nat :=
  if !s.condition a || (a.words.any (fun w => s.unreadable w) && !a.overwrites) then []
  else match a.kind with
    | .load | .loadPair | .streamElem _ => if a.mode = 2 then a.words else []
    | .store | .storePair | .streamPut _ => a.words.filter fun w => !s.unreadable w
    | .amo _ => a.words
    | .cas => if s.word a.pa = a.val then a.words else []
    | .tagset => if (s.tag a.pa).p && !a.val.toNat.testBit 0 then a.words else []
    | .tagrd | .queueWait _ _ | .alloc | .clear => []

/-- A waiter that is to be served: its condition holds, and no row operation has its words (R76, R430). -/
def State.servable (s : State) (a : Access) : Bool := s.condition a && !a.words.any fun w => s.rowRunning w || s.rowClaimed w

/-- Serves the waiters of `ws` in arrival order until none is satisfiable (R76). A waiter whose watch messages have no room is served
once they have (R83: `State.quietWords`). -/
def State.serveFuel (s : State) : Nat → List Nat → State
  | 0, _ => s
  | fuel + 1, ws =>
    match (s.waiters ws).find? fun a => s.servable a with
    | none => s
    | some a => if s.watchRoom (s.raisedBy a) then (s.performTagged a).serveFuel fuel (ws ++ a.words) else s

/-- Serves the waiters of `ws`. -/
def State.serve (s : State) (ws : List Nat) : State := s.serveFuel (s.accesses.length + 1) ws

/-- No waiter of the words is still to be served: their controller may perform another access to them (R76). -/
def State.quietWords (s : State) (ws : List Nat) : Bool := (s.waiters ws).all fun a => !s.servable a

/-- An access to the words may be performed now: what they are owed has been done (R76), and no row operation runs on them (R300). -/
def State.mayTouch (s : State) (ws : List Nat) : Bool := s.quietWords ws && !ws.any s.rowRunning

/-- A write to the words may be performed now: what they are owed has been done (R76), the messages that it raises have room
(R83), and no row operation runs on them (R300). -/
def State.mayWrite (s : State) (ws : List Nat) : Bool := s.mayTouch ws && s.watchRoom ws

/-- The virtual address of the first poisoned word of an access (R86). -/
def State.poisonedVa (s : State) (a : Access) : Nat := if a.kind.pair && !s.poisoned a.pa then a.va + 8 else a.va

/-- The waiters of words that become poisoned are removed, and their threads take *poisoned word* (R86). -/
def State.dropPoisoned (s : State) (ws : List Nat) : State :=
  (s.waiters ws).foldl (fun s a => s.refuse a 0x0E (w64 (s.poisonedVa a)) 0) s

/-- Poisons the word, or granule, at `pa`, with its waiters (R85, R86). -/
def State.poisonWord (s : State) (pa : Nat) : State :=
  let s := s.poisonAt pa
  match regionOf pa with
  | .dram => s.dropPoisoned ((List.range 8).map fun i => pa / 64 * 64 + 8 * i)
  | _ => s.dropPoisoned [wordAddr pa]

/-- An engine that has read a poisoned source word poisons the destination word, with its waiters (R86). An untagged word cannot
hold poison and is not written. -/
def State.poisonOne (s : State) (pa : Nat) : State :=
  if tagged pa then (s.setTag pa { s.tag pa with poison := true }).dropPoisoned [wordAddr pa] else s

/-- What the error code of a word finds when it is read (R85, R301): one error is corrected and counted, more poison. -/
def State.checkEcc (s : State) (pa : Nat) : State :=
  if !tagged pa then s
  else match s.eccOf pa with
  | .ok => s
  | .single =>
    let s := s.setEcc pa .ok
    s.countCorrected (match regionOf pa with | .spad c _ => c | _ => 64 * (s.cellOf pa).stack)
  | .double => (s.setEcc pa .ok).poisonWord pa

/-- What the error codes of the words of a range find when they are read (R301). -/
def State.checkRange (s : State) (lo n : Nat) : State :=
  ((s.tags.filter fun e => e.2.ecc != .ok && decide (lo ≤ e.1) && decide (e.1 < lo + n)).map (·.1)).foldl (fun s a => s.checkEcc a) s

/-- A put of a stream that stands behind an earlier one holds the entry of its controller's list that it may need: a put is refused at the
instruction that pushes it, or not at all (R79, R184; log entry 78). -/
def Access.reserves (a : Access) : Bool := a.phase == .sent && a.streamed && a.needsAbsent

/-- Entries that a controller's list holds, of all tenants or of one (R75, R79). -/
def State.listed (s : State) (ctl : Nat) (tenant : Option Nat) : Nat :=
  (s.accesses.filter fun a => (a.order?.isSome || a.reserves) && s.controller a.pa == ctl &&
    (match tenant with | none => true | some t => s.accessTenant a == t)).length

/-- The list or the quota that an access finds full: 0 for the controller's list, 1 for the tenant's quota (R75, R79). -/
def State.listFull (s : State) (a : Access) : Option Nat :=
  let ctl := s.controller a.pa
  let ten := s.accessTenant a
  let quota := (s.tenant ten).waitQuota
  let others := s.dropAccess a.id
  if (match regionOf a.pa with | .spad _ _ => Config.spadWaiters | _ => Config.bankWaiters) ≤ others.listed ctl none then some 0
  else if quota ≠ 0 ∧ quota ≤ others.listed ctl (some ten) then some 1
  else none

/-- Places an access on its controller's wait list, or refuses it: the list or the tenant's quota is full (R75, R79). Its
WAITLIM count starts (R77). -/
def State.placeWaiter (s : State) (a : Access) : State :=
  match s.listFull a with
  | some d => s.refuse a 0x0D (w64 a.va) d
  | none =>
    let t? := s.thread? a.uid
    let s := { s with nextId := s.nextId + 1 }.setAccess { a with phase := .waiting s.nextId s.now }
    let s := match t? with | some t => s.count t.core 5 (some t) | none => s
    let lim := match t?, a.kind with | some t, k => (match k with | .queueWait _ _ => 0 | _ => t.waitlim.toNat) | none, _ => 0
    let s := if lim ≠ 0 then s.postLimit (s.now + lim) a.id else s
    if a.answers then s.postNow (.controllerAnswer a.id) else s

/-- An access that an instruction of the thread makes itself: its data and tag effects, the comparators, and the service of the wait
list. -/
def State.performOwn (s : State) (a : Access) : State :=
  let m := s.accessMatches a (s.accessTenant a)
  (((s.noteHead a).applyTagged a).1.compareAccess a m).serve a.words

/-- A thread's plain read of `n` bytes from `pa` on, by the instruction itself: the comparators test it (R314). -/
def State.compareRead (s : State) (uid : Nat) (va : Word) (pa n : Nat) : State :=
  s.compareAccess (Access.own .load uid va pa) (s.rangeMatches pa n 1 (((s.thread? uid).map (·.tenant)).getD 0))

/-! ### An access reaches its controller -/

/-- Two cores belong to the partition of one curfew that has stopped them and is not over. -/
def State.samePartition (s : State) (c d : Nat) : Bool :=
  decide (c = d) || ((s.curfewOf c).map fun x => x.cores.contains d) == some true

/-- The scratchpad of a core refuses accesses for a tenant from outside the partition, from its stop until its switch ends (R266).
`from_` is the core of the party, none for a unit that is on no core. -/
def State.refusesCore (s : State) (c : Nat) (from_ : Option Nat) (tenant : Nat) (curator : Bool) : Bool :=
  ((s.core c).stopped || (s.core c).switched.isSome) && decide (tenant ≠ 0) && !curator &&
    !((from_.map fun d => s.samePartition c d) == some true)

/-- The scratchpad that holds `pa` refuses an access of a thread (R266). -/
def State.refusesAt (s : State) (pa : Nat) (t : Option Thread) (tenant : Nat) (curator : Bool) : Bool :=
  match regionOf pa with
  | .spad c _ => s.refusesCore c (t.map (·.core)) tenant curator
  | _ => false

/-- The curator core whose interface drops a packet of a tenant aimed at `pa`: at its scratchpad, or at system space, where the first
curator core with FWCTL.ENABLE set counts it (R277, log entry 63). -/
def State.firewalled (s : State) (pa tenant : Nat) : Option Nat :=
  if tenant = 0 then none
  else match regionOf pa with
  | .spad c _ => if s.curatorCore c && (s.core c).fwEnable then some c else none
  | .system _ => lowest Config.firstArrayCore fun c => s.curatorCore c && (s.core c).fwEnable
  | _ => none

/-- The interface counts a packet that it drops (R277). -/
def State.countDrop (s : State) (c : Nat) : State :=
  s.modCore c fun co =>
    { co with fwDrops := co.fwDrops + 1, fwDropped := (s.now, if co.fwDropped.1 = s.now then co.fwDropped.2 + 1 else 1) }

/-- A lent range of a tenant on a core that holds an offset (R141). -/
def Core.leaseAt (c : Core) (tenant off : Nat) : Option Lease :=
  c.lent.find? fun l => l.tenant == tenant && decide (l.off ≤ off) && decide (off < l.off + l.len)

/-- A lent range of the tenant that holds an offset and still admits dusk accesses: one that is being returned does not (R143). -/
def Core.openLease (c : Core) (tenant off : Nat) : Option Lease :=
  (c.leaseAt tenant off).filter fun l => !((c.revoking.map fun r => r.ranges.contains l) == some true)

/-- The first byte of `n` at window offset `off` that no lent range covers, for a dusk thread of the core (R145). -/
def State.leaseLost (s : State) (t : Thread) (off n : Nat) : Option Nat :=
  if s.classOf t ≠ .dusk then none
  else (lowest n fun i => ((s.core t.core).openLease t.tenant (off + i)).isNone).map (off + ·)

/-- A dusk access to a range of its core's scratchpad that is not lent (R145): the window address of the first such byte. -/
def State.lostByte (s : State) (t : Thread) (pa n : Nat) : Option Word :=
  match regionOf pa with
  | .spad c off => if c = t.core then (s.leaseLost t off n).map fun o => w64 (windowBase + o) else none
  | _ => none

/-- The bytes that an access touches. -/
def Access.span (a : Access) : Nat := if a.kind.pair then 16 else 2 ^ a.size

/-- The lease that an access in flight or on a wait list has lost (R145). -/
def State.leaseOf (s : State) (a : Access) : Option Word := (s.thread? a.uid).bind fun t => s.lostByte t a.pa a.span

/-- Zeroes a range whose words are present from then on (R145), and serves the waiters that this satisfies (R76). -/
def State.blankServe (s : State) (lo n : Nat) : State :=
  let ws := (s.accesses.filter fun a => a.order?.isSome && decide (lo ≤ a.pa) && decide (a.pa < lo + n)).flatMap (·.words)
  (s.scrubRange lo (lo + n)).serve ws

/-- Returns a lent range: every word is zero and present from then on (R145). Dusk waiters there have lost their lease, and the waiters
that the return satisfies are served. The range stays listed until the scrubber has passed. -/
def State.returnRange (s : State) (c : Nat) (l : Lease) : State :=
  let lo := spadPa c l.off
  let s := s.modCore c fun co =>
    { co with lent := co.lent.filter fun x => !(x == l), zot := co.zot ++ [(l.off, l.len)],
              revoking := co.revoking.map fun r => { r with ranges := r.ranges.filter fun x => !(x == l) } }
  let lost := s.accesses.filter fun a => a.order?.isSome && decide (lo ≤ a.pa) && decide (a.pa < lo + l.len) && (s.leaseOf a).isSome
  let s := lost.foldl (fun s a => s.refuse a 0x14 ((s.leaseOf a).getD 0) 0) s
  s.blankServe lo l.len

/-- A noon or day access of the tenant to a lent word recalls the range first (R141): the range has returned when the access is performed.
If a revocation is to return the range, its return is complete with this one (R143), and the range is returned once. -/
def State.recallFor (s : State) (pa tenant : Nat) (dusk : Bool) : State :=
  if dusk then s
  else match regionOf pa with
  | .spad c off =>
    match (s.core c).leaseAt tenant off with
    | some l => s.returnRange c l
    | none => s
  | _ => s

/-- A load or store of a wake register by a thread (R287); one that is not 64 bits wide is a protection fault, a pair too (R443). -/
def State.performWake (s : State) (a : Access) (q off tenant : Nat) : State :=
  let foreign := match s.queue? q with | some x => decide (x.tenant ≠ tenant) | none => false
  if a.size ≠ 3 ∨ a.kind.pair = true ∨ foreign = true then s.refuse a 0x09 (w64 a.va) 0
  else match a.kind with
  | .load => s.performedWith a (a.results (s.wakeRead q off) 0)
  | _ => (s.wakeWrite q off a.val).performedWith a []

/-- A load or store of untagged memory (R443). -/
def State.performUntagged (s : State) (a : Access) (tenant : Nat) : State :=
  let n := 2 ^ a.size
  match regionOf a.pa with
  | .wake q off => s.performWake a q off tenant
  | .system off =>
    if let some c := s.firewalled a.pa tenant then (s.countDrop c).refuse a 0x09 (w64 a.va) 0
    else if systemRegister off && (a.size != 3 || a.kind.pair) then s.refuse a 0x09 (w64 a.va) 0
    else match a.kind with
    | .load =>
      if a.size = 3 then s.performedWith a (a.results (s.systemRead off) 0)
      else s.performedWith a (a.results (loadValue (s.read a.pa n) a.size a.signed) 0)
    | .loadPair => s.performedWith a (a.results (s.systemRead off) (s.systemRead (off + 8)))
    | .storePair => ((s.systemWrite off a.val).systemWrite (off + 8) a.val2).performedWith a []
    | _ => (if a.size = 3 then s.systemWrite off a.val else s.store a.pa n (a.val.toNat % 2 ^ (8 * n))).performedWith a []
  | .host =>
    match a.kind with
    | .load => s.performedWith a (a.results (loadValue (s.read a.pa n) a.size a.signed) 0)
    | .loadPair => s.performedWith a (a.results (s.word a.pa) (s.word (a.pa + 8)))
    | .storePair =>
      ((s.sendOutward (some a.uid) none a.pa 8 a.val.toNat).sendOutward (some a.uid) none (a.pa + 8) 8 a.val2.toNat).performedWith a []
    | _ => (s.sendOutward (some a.uid) none a.pa n (a.val.toNat % 2 ^ (8 * n))).performedWith a []
  | .peer _ _ =>
    let (refused, s) := s.pick 2
    if refused = 1 ∨ a.kind.pair = true then s.refuse a 0x09 (w64 a.va) 0
    else match a.kind with
    | .load => let (v, s) := s.free; s.performedWith a (a.results (loadValue (v.toNat % 2 ^ (8 * n)) a.size a.signed) 0)
    | _ => (s.sendOutward (some a.uid) none a.pa n (a.val.toNat % 2 ^ (8 * n))).performedWith a []
  | _ =>
    let m := s.accessMatches a tenant
    match a.kind with
    | .load =>
      (s.compareAccess a m).performedWith a (a.results (loadValue (s.read a.pa n) a.size a.signed) 0)
    | .streamElem _ => (s.compareAccess a m).performedWith a [(0, loadValue (s.read a.pa n) a.size false)]
    | .loadPair => (s.compareAccess a m).performedWith a (a.results (s.word a.pa) (s.word (a.pa + 8)))
    | .storePair => (((s.storeWord a.pa a.val).storeWord (a.pa + 8) a.val2).compareAccess a m).performedWith a []
    | _ => ((s.store a.pa n ((s.storeValue a).toNat % 2 ^ (8 * n))).compareAccess a m).performedWith a []

/-- An access of tagged memory at its controller: refusals, a lost lease, poison, the condition, and the step with the service of the
wait list (R69, R76, R86, R145). -/
def State.arriveTagged (s : State) (a : Access) (tenant : Nat) (curator dusk : Bool) : State :=
  match s.firewalled a.pa tenant with
  | some c => (s.countDrop c).refuse a 0x09 (w64 a.va) 0
  | none =>
    if s.refusesAt a.pa (s.thread? a.uid) tenant curator then s.refuse a 0x09 (w64 a.va) 0
    else if let some v := s.leaseOf a then s.refuse a 0x14 v 0
    else
      let s := s.recallFor a.pa tenant dusk
      let s := a.words.foldl (fun s w => s.checkEcc w) s
      match s.access? a.id with
      | none => s
      | some a =>
        if a.words.any (fun w => s.poisoned w) && !a.overwrites then s.refuse a 0x0E (w64 (s.poisonedVa a)) 0
        else if s.condition a then (s.performTagged a).serve a.words
        else s.placeWaiter a

/-- A HALLOC.nf at its allocator unit: gd gets the block, or 0 (R99, R104). -/
def State.performAlloc (s : State) (a : Access) : State :=
  match s.thread? a.uid with
  | none => s.dropAccess a.id
  | some t =>
    let (va, s) := s.allocBlock t.tenant t.core a.val.toNat a.val2
    s.performedWith a (a.results (w64 (va.getD 0)) 0)

/-- Clears accumulator rows `f` to `f + n - 1` of a core. -/
def State.clearAcc (s : State) (core f n : Nat) : State :=
  { s with mem := eraseRange s.mem (accPa core (256 * f)) (accPa core (256 * (f + n))) }

/-- One step of an ACLR (R335): the row that is next becomes zero. With the last row the access is performed, and a type B comparator counts
it as a write of every column of its rows (R314). -/
def State.performClear (s : State) (a : Access) : State :=
  match regionOf a.pa with
  | .acc c off =>
    let s := s.clearAcc c (off / 256) 1
    if a.val.toNat ≤ 1 then
      let m := s.rangeMatches (accPa c (256 * a.va)) (off + 256 - 256 * a.va) 2 (s.accessTenant a)
      (s.compareAccess a m).performedWith a []
    else (s.setAccess { a with pa := a.pa + 256, val := a.val - 1 }).postNow (.accessPerformed a.id)
  | _ => s

/-- AN ACCESS IS PERFORMED (R69): the step of its controller. -/
def State.arrive (s : State) (a : Access) : State :=
  let t? := s.thread? a.uid
  let tenant := s.accessTenant a
  let curator := match t? with | some t => t.level == .curator | none => false
  let dusk := match t? with | some t => s.classOf t == .dusk | none => false
  if a.kind = .alloc then s.performAlloc a
  else if a.kind = .clear then s.performClear a
  else if tagged a.pa then s.arriveTagged a tenant curator dusk else s.performUntagged a tenant

/-- The earlier accesses of the thread that are still to be performed; the WAITs of two queue consumers are not of one thread (R284). -/
def State.earlierThan (s : State) (a : Access) : List Access :=
  s.accesses.filter fun b => b.uid == a.uid && decide (b.id < a.id) && (b.uid != 0 || decide (b.kind = a.kind)) &&
    (match b.phase with | .sent | .waiting _ _ => true | _ => false)

/-- An access in flight may reach its controller: no earlier access of the thread to a common word, and no earlier element
of the same stream, is still to be performed (R106, R107); no curfew has stopped its thread, or the switch-in places its accesses again
(R264, R270); its words may be accessed (R76, R300), and the messages of the events that it raises have room (R83); and a put that is placed again
after a curfew has room on the list if it must wait. -/
def State.mayArrive (s : State) (a : Access) : Bool :=
  a.phase == .sent && ((s.thread? a.uid).map fun t => s.frozen t && t.status != .restoring) != some true &&
  (s.earlierThan a).all (fun b => !(b.words.any fun w => a.words.contains w) && !(b.streamed && decide (b.kind = a.kind))) &&
  s.mayTouch a.words && s.watchRoom (s.raisedBy a) && (!a.reserves || s.condition a || (s.listFull a).isNone)

/-! ### Engines (R87, R109) -/

/-- One data write of an engine to a word: it clears poison, sets P when `setP`, and raises a watch event (R82, R87, R109). A write that
leaves P alone (CPYGO.nc, a host's or a peer's) leaves P = 1 in a word whose poison it clears (log entry 64). -/
def State.engineWrite (s : State) (pa : Nat) (v : Word) (by_ : By) (setP : Bool) (src : Option Nat × Option (Nat × Nat)) : State :=
  match regionOf pa with
  | .host | .peer _ _ => s.sendOutward src.1 src.2 pa 8 v.toNat
  | .wake q off => s.wakeWrite q off v
  | .acc _ _ => s.storeWord pa v
  | .hole => s
  | r =>
    if !tagged pa then (match r with | .system off => s.systemWrite off v | _ => s)
    else
    let s := (s.checkEcc pa).activate pa
    if s.poisoned pa then
      ((s.setTag pa { s.tag pa with p := true, w := false, poison := false }).storeWord pa v).serve [pa]
    else
      let s := s.storeWord pa v
      let s := if setP then s.setP pa true else s
      (s.written pa by_).serve [pa]

/-! ### Plain stores of units and trace records (R83, R317) -/

/-- Performs the plain stores that units have made: each when its word may be written, those to one word in their order. A scratchpad whose
core is stopped refuses it (R266). -/
def State.flushFrom (s : State) : List UnitStore → State
  | [] => s
  | x :: xs =>
    if s.refusesAt x.pa none x.tenant false then s.flushFrom xs
    else if tagged x.pa && (!s.mayWrite [x.pa] || s.unitStores.any fun y => y.pa == x.pa) then
      { s with unitStores := s.unitStores ++ [x] }.flushFrom xs
    else (s.engineWrite x.pa x.val (.unit x.tenant) false (none, none)).flushFrom xs

/-- The plain stores of units that can be performed are. -/
def State.flushStores (s : State) : State := { s with unitStores := [] }.flushFrom s.unitStores

/-- Where the next record of a core's trace ring lies, when it can be written at once (R317): in a ring that lies in DRAM, in words that may
be written. -/
def State.traceSlot (s : State) (c : Nat) : Option Nat :=
  let co := s.core c
  match co.ringLength with
  | none => none
  | some len =>
    let a := co.trcbase.toNat + 32 * (co.trcCount % len)
    if co.trcbase.toNat % 65536 = 0 ∧ co.trcbase.toNat + 32 * len ≤ 0x00C000000000 ∧ s.mayWrite [a, a + 8, a + 16, a + 24] = true then some a
    else none

/-- Writes the four words of a record, with plain stores in ring order. -/
def State.traceWrite (s : State) (c a : Nat) (r : TraceRec) : State :=
  let put (s : State) (k : Nat) (v : Word) : State := s.engineWrite (a + 8 * k) v (.unit 0) false (none, none)
  (put (put (put (put s 0 r.head) 1 r.stamp) 2 r.pc) 3 r.val).modCore c fun co => { co with trcCount := co.trcCount + 1 }

/-- A record that cannot be written at once is dropped and counted. -/
def State.traceOrDrop (s : State) (r : TraceRec) : State :=
  match s.traceSlot r.core with
  | some a => s.traceWrite r.core a r
  | none => if ((s.core r.core).ringLength).isSome then s.modCore r.core fun co => { co with trcDropped := co.trcDropped + 1 } else s

/-- Writes a trace record: after dropped ones, the next record written is kind 7 with their count, when that kind is enabled (R317). -/
def State.writeTrace (s : State) (r : TraceRec) : State :=
  let co := s.core r.core
  match s.traceSlot r.core with
  | some a =>
    let s :=
      if co.trcDropped ≠ 0 ∧ co.traces 7 = true then
        (s.traceWrite r.core a { r with head := setField (setField r.head 28 4 7) 35 1 0, val := w64 co.trcDropped }).modCore r.core fun co =>
          { co with trcDropped := 0 }
      else s
    s.traceOrDrop r
  | none => s.traceOrDrop r

/-- Writes the trace records of the step. -/
def State.writeTraces (s : State) : State := s.traced.foldl (fun s r => s.writeTrace r) { s with traced := [] }

/-- An engine's claim clears P and raises no event; it releases the puts that wait for the word (R82, R189). -/
def State.claim (s : State) (pa : Nat) : State :=
  if tagged pa && !s.poisoned pa then (s.setP pa false).serve [pa] else s

/-- A word as an engine reads it, with plain reads that ignore P: none when no data can be returned from it (R85, R86). -/
def State.engineRead (s : State) (pa : Nat) : Option Word :=
  match regionOf pa with
  | .wake q off => some (s.wakeRead q off)
  | .system off => if tagged pa then (if s.unreadable pa then none else some (s.word pa)) else some (s.systemRead off)
  | _ => if s.unreadable pa then none else some (s.word pa)

end Sys2Proof.Machine
end

