-- ==== Sys2Proof/Machine/Streams.lean ====
section
/-! DEFINITION. The stream unit (R173-R184): where an element lies, the elements a register has at hand, pops and pushes, and
the word channels of `lnk` (R133-R135). -/

namespace Sys2Proof.Machine

/-! ### The record (R177, R178) -/

/-- The element width of a format code in bits (R148); 0 for code 15. -/
def formatWidth (f : Nat) : Nat := [64, 32, 16, 16, 8, 8, 8, 8, 4, 64, 32, 16, 8, 8, 4, 0].getD f 0

namespace StreamEntry
def base (e : StreamEntry) : Nat := fieldOf e.w0 0 20
def inAcc (e : StreamEntry) : Bool := e.w0.toNat.testBit 20
def fmt (e : StreamEntry) : Nat := fieldOf e.w0 24 4
def dir (e : StreamEntry) : Nat := fieldOf e.w0 28 2
def wrap (e : StreamEntry) : Bool := e.w0.toNat.testBit 30
def scb (e : StreamEntry) : Nat := fieldOf e.w0 44 20
def count0 (e : StreamEntry) : Nat := fieldOf e.w1 0 32
/-- COUNT1 and COUNT2 of 0 count as 1. -/
def count1 (e : StreamEntry) : Nat := max 1 (fieldOf e.w2 0 32)
def count2 (e : StreamEntry) : Nat := max 1 (fieldOf e.w3 0 32)
def stride0 (e : StreamEntry) : Int := signed 32 (fieldOf e.w1 32 32)
def stride1 (e : StreamEntry) : Int := signed 32 (fieldOf e.w2 32 32)
def stride2 (e : StreamEntry) : Int := signed 32 (fieldOf e.w3 32 32)
def total (e : StreamEntry) : Nat := e.count0 * e.count1 * e.count2
def width (e : StreamEntry) : Nat := formatWidth e.fmt

/-- The byte offset of position `p`, and the half of the byte for a 4-bit element (R178). -/
def place (e : StreamEntry) (p : Nat) : Int × Nat :=
  let i0 := p % e.count0
  let i1 := p / e.count0 % e.count1
  let i2 := p / e.count0 / e.count1
  let row := (e.base : Int) + i1 * e.stride1 + i2 * e.stride2
  if e.width = 4 then (row + (i0 / 2 : Nat), i0 % 2) else (row + i0 * e.stride0, 0)

/-- The byte offset of the scale of position `p` (R178). -/
def scaleAt (e : StreamEntry) (p : Nat) : Nat := e.scb + p / 32
end StreamEntry

/-- Stream register `n` of a thread. -/
def Thread.stream? (t : Thread) (n : Nat) : Option Stream := (t.streams[n]?).getD none

def State.setStream (s : State) (uid n : Nat) (x : Option Stream) : State :=
  s.modThread uid fun t => { t with streams := t.streams.setIfInBounds n x }

/-- The position `k` elements on; none past the end of a stream that does not wrap. -/
def Stream.posAt (x : Stream) (k : Nat) : Option Nat :=
  if x.entry.wrap then some ((x.pos + k) % max 1 x.entry.total)
  else if x.pos + k < x.entry.total then some (x.pos + k) else none

/-- Elements left in a stream; none when it wraps. -/
def Stream.left (x : Stream) : Option Nat := if x.entry.wrap then none else some (x.entry.total - x.pos)

/-- The physical and the virtual address of position `p`, and the half of the byte. Accumulator memory has no window: its
byte offset stands for the virtual address (log entry 22). -/
def Stream.address (x : Stream) (c p : Nat) : Nat × Nat × Nat :=
  let (o, h) := x.entry.place p
  let off := o.toNat
  if x.entry.inAcc then (accPa c off, off, h) else (spadPa c off, windowBase + off, h)

/-- The window offset of position `p`, for a stream in the scratchpad. -/
def Stream.windowOffset (x : Stream) (p : Nat) : Option Nat := if x.entry.inAcc then none else some (x.entry.place p).1.toNat

/-! ### Elements at hand (R184) -/

/-- The access that reads position `p` at `w` bits, in the mode of TAGM. -/
def Stream.readAccess (x : Stream) (n uid c p w id : Nat) (word shown : InstWord) : Access :=
  let (pa, va, h) := x.address c p
  { id := id, uid := uid, kind := .streamElem n, mode := x.entry.tagm,
    size := if x.entry.tagm ≠ 0 then 3 else if w ≤ 8 then 0 else if w = 16 then 1 else if w = 32 then 2 else 3,
    signed := false, relaxed := true, va := va, pa := pa, val := w64 (4 * h), val2 := w64 (2 ^ w - 1), dst := none,
    word := word, shown := shown, rsvd := false, row := 0, phase := .sent, answered := false }

/-- An access of the stream unit begins; it reaches its controller at once when nothing holds it. -/
def State.startStreamAccess (s : State) (a : Access) : State :=
  let s := { s with accesses := s.accesses ++ [a] }
  if s.mayArrive a then s.arrive a else s.postNow (.accessPerformed a.id)

/-- Removes what stream `n` of a thread has in flight or waiting, and the trap that an element read ahead has left (R181, R184, R436). -/
def State.withdrawElements (s : State) (uid n : Nat) : State :=
  let s := { s with accesses := s.accesses.filter fun a => !(a.uid == uid && decide (a.kind = AccessKind.streamElem n)) }
  s.modThread uid fun t => { t with deferred := t.deferred.filter fun d => !d.dst.contains (48 + n) }

/-- Elements that were read ahead at another width are read again, in stream order (R107, R182, R184). -/
def State.matchAhead (s : State) (uid n w : Nat) : State :=
  match (s.thread? uid).bind (·.stream? n) with
  | none => s
  | some x =>
    if x.aheadW = w then s
    else if x.entry.tagm = 2 then s.setStream uid n (some { x with aheadW := w })
    else (s.withdrawElements uid n).setStream uid n (some { x with ahead := [], aheadW := w })

/-- Brings `k` elements of stream `n` to hand. An element that waits ends the attempt: the thread blocks on it. -/
def State.fill (s : State) (uid n w : Nat) (word shown : InstWord) : (fuel k : Nat) → State
  | 0, _ => s
  | fuel + 1, k =>
    match s.thread? uid with
    | none => s
    | some t =>
      match t.stream? n with
      | none => s
      | some x =>
        if k ≤ x.ahead.length then s
        else if s.accesses.any fun a => a.uid == uid && decide (a.kind = .streamElem n) then s
        else match x.posAt x.ahead.length with
        | none => s
        | some p =>
          let a := x.readAccess n uid t.core p w s.nextId word shown
          let s := { s with nextId := s.nextId + 1 }.startStreamAccess a
          match s.thread? uid with
          | none => s
          | some t' =>
            -- a trap of the element has been taken at the instruction (R78)
            if t'.left t then s else s.fill uid n w word shown fuel k

/-- Elements at hand. -/
def Thread.atHand (t : Thread) (n : Nat) : Nat := ((t.stream? n).map (·.ahead.length)).getD 0

/-- Pops `k` elements that are at hand: the position moves, and an update stream records the positions (R183). -/
def State.popStream (s : State) (uid n k : Nat) : State × List Word :=
  match (s.thread? uid).bind (·.stream? n) with
  | none => (s, [])
  | some x =>
    let ps := (List.range k).filterMap fun i => x.posAt i
    let pos := if x.entry.wrap then (x.pos + k) % max 1 x.entry.total else min x.entry.total (x.pos + k)
    let x' := { x with pos := pos, ahead := x.ahead.drop k,
                       record := if x.entry.dir = 2 then x.record ++ ps else [] }
    (s.setStream uid n (some x'), x.ahead.take k)

/-- Clears the update record that an earlier instruction has left: of two reading instructions before a write the later one's addresses stand
(R183; log entry 88). -/
def State.newRecord (s : State) (uid n : Nat) : State :=
  match (s.thread? uid).bind (·.stream? n) with
  | none => s
  | some x => s.setStream uid n (some { x with record := [] })

/-- The positions that a push of `k` elements writes: those of the update record, else the next ones (R183). -/
def Stream.targets (x : Stream) (k : Nat) : List Nat :=
  if x.record.isEmpty then (List.range k).filterMap fun i => x.posAt i else x.record.take k

/-- Elements read ahead in front of the first that lies in one of the words `ws`. -/
def Stream.before (x : Stream) (c : Nat) (ws : List Nat) : List Word :=
  let n := ((List.range x.ahead.length).find? fun i =>
    match x.posAt i with | some p => ws.contains (wordAddr (x.address c p).1) | none => true).getD x.ahead.length
  x.ahead.take n

/-- An access of the thread to the words `ws`: the elements read ahead of stream `n` from the first that lies there on, and the one that is
being read behind them, are read again, in stream order (R106, R107). -/
def State.forgetIn (s : State) (uid : Nat) (ws : List Nat) (n : Nat) : State :=
  match s.thread? uid with
  | none => s
  | some t =>
    match t.stream? n with
    | none => s
    | some x =>
      let touches := s.accesses.any fun a => a.uid == uid && a.ahead && decide (a.kind = .streamElem n) && a.words.any fun w => ws.contains w
      let kept := x.before t.core ws
      if x.entry.tagm = 2 ∨ (kept.length = x.ahead.length ∧ touches = false) then s
      else (s.withdrawElements uid n).setStream uid n (some { x with ahead := kept })

/-- An access of the thread to the words `ws`: what its streams have read ahead of them, or are reading, is read again, so that accesses
to a common word stay in program order (R106, R107). -/
def State.forget (s : State) (uid : Nat) (ws : List Nat) : State :=
  (List.range 8).foldl (fun s n => s.forgetIn uid ws n) s

/-- A write of the stream unit leaves (R107, R183). -/
def State.putBytes (s : State) (uid n pa va mode size : Nat) (v half : Word) (word shown : InstWord) : State :=
  let a : Access :=
    { id := s.nextId, uid := uid, kind := .streamPut n, mode := mode, size := size, signed := false, relaxed := true, va := va,
      pa := pa, val := v, val2 := half, dst := none, word := word, shown := shown, rsvd := false, row := 0, phase := .sent,
      answered := false }
  ({ s with nextId := s.nextId + 1 }.forget uid [wordAddr pa]).startStreamAccess a

/-- The size code of an element of `w` bits. -/
def sizeOfWidth (w : Nat) : Nat := if w ≤ 8 then 0 else if w = 16 then 1 else if w = 32 then 2 else 3

/-- Writes one element of `w` bits at position `p`, in the mode of TAGM (R183, R184). -/
def State.putElement (s : State) (uid n c w p : Nat) (x : Stream) (v : Word) (word shown : InstWord) : State :=
  let (pa, va, h) := x.address c p
  let tagm := x.entry.tagm
  if tagm ≠ 0 then s.putBytes uid n pa va (if tagm = 1 then 2 else 1) 3 v 0 word shown
  else s.putBytes uid n pa va 0 (sizeOfWidth w) v (if w = 4 then w64 (h + 1) else 0) word shown

/-- Pushes elements of `w` bits. Where an update record stands (R183), a write of more or fewer elements than it holds goes to its first
addresses: elements beyond them are dropped, addresses beyond the elements are discarded (log entry 88). -/
def State.pushStream (s : State) (uid n w : Nat) (vs : List Word) (word shown : InstWord) : State :=
  match s.thread? uid with
  | none => s
  | some t =>
    match t.stream? n with
    | none => s
    | some x =>
      let ps := x.targets vs.length
      let x' := if x.record.isEmpty then
          { x with pos := if x.entry.wrap then (x.pos + vs.length) % max 1 x.entry.total
                          else min x.entry.total (x.pos + vs.length) }
        else { x with record := [] }
      let s := (s.setStream uid n (some x')).count t.core 9 (some t)
      (ps.zip vs).foldl (fun s pv => s.putElement uid n t.core w pv.1 x pv.2 word shown) s

/-- What the puts of a push to a TAGM 2 stream would meet (R79, R184): nothing in their way; an earlier access of the thread to a word, or
a word that is not free for a write; a full wait list or quota, at this virtual address, 0 for the list and 1 for the quota. -/
inductive Puts where
  | go
  | wait
  | full (va detail : Nat)
  deriving DecidableEq, Repr

/-- The puts of a push of `k` elements to stream `n`. A refused put is a replayable fault of the instruction that pushes, so the push is
made only when none would be refused. -/
def State.putsOf (s : State) (t : Thread) (n k : Nat) : Puts :=
  match t.stream? n with
  | none => .go
  | some x =>
    if x.entry.tagm ≠ 2 then .go
    else
      let ps := (x.targets k).map fun p => x.address t.core p
      let ws := ps.map (·.1)
      if ((s.outstanding t.uid).any fun b => b.words.any fun w => ws.contains w) || !s.mayWrite ws then .wait
      else
        -- from the first that waits on, each holds an entry: the beats of one stream are performed in stream order (R107)
        let held := s.accesses.any fun a => a.uid == t.uid && decide (a.kind = .streamPut n)
        let waits := if held then ps else ps.drop ((ps.findIdx? fun p => (s.tag p.1).p && !s.poisoned p.1).getD ps.length)
        let all := s.listed (s.controller (spadPa t.core 0)) none
        let mine := s.listed (s.controller (spadPa t.core 0)) (some t.tenant)
        let quota := (s.tenant t.tenant).waitQuota
        match (List.range waits.length).find? fun i => decide (Config.spadWaiters ≤ all + i) || (quota != 0 && decide (quota ≤ mine + i)) with
        | none => .go
        | some i => .full ((waits.getD i (0, 0, 0)).2.1) (if Config.spadWaiters ≤ all + i then 0 else 1)

/-! ### `lnk` (R133-R135) -/

/-- The channel from thread `a` to thread `b` has both ends, of one tenant (R133, R405). -/
def joined (a b : Thread) : Bool := a.down == some b.tid && b.up == some a.tid && a.tenant == b.tenant

/-- The thread at the other end of the downstream link. -/
def State.downstream? (s : State) (t : Thread) : Option Thread :=
  match t.down with
  | none => none
  | some d => (s.holder? d).filter fun o => joined t o

def State.channel? (s : State) (src dst : Nat) : Option Channel := s.channels.find? fun c => c.src == src && c.dst == dst

def State.setChannel (s : State) (c : Channel) : State :=
  if (s.channel? c.src c.dst).isSome then
    { s with channels := s.channels.map fun x => if x.src = c.src ∧ x.dst = c.dst then c else x }
  else { s with channels := s.channels ++ [c] }

/-- The channel that a thread reads: the oldest of its upstream channels with words left, whose writer may have quit (R427). -/
def State.upChannel? (s : State) (t : Thread) : Option Channel :=
  let cs := s.channels.filter fun c => c.dst == t.uid
  (cs.find? fun c => !c.words.isEmpty || decide (0 < c.ringLen)).or cs.head?

/-- Words that a read of `lnk` finds. -/
def State.upWords (s : State) (t : Thread) : Nat := ((s.upChannel? t).map fun c => c.words.length + c.ringLen).getD 0

/-- Where word `i` of a channel's ring, counted from its head, lies. -/
def Channel.ringWord (c : Channel) (i : Nat) : Nat := c.ringPa.getD ((c.ringHead + i) % max 1 c.ringPa.length) 0

/-- The virtual address of word `i` of a channel's ring, counted from its head. -/
def Channel.ringAddr (c : Channel) (i : Nat) : Word := w64 (c.ringVa + 8 * ((c.ringHead + i) % max 1 c.ringPa.length))

/-- The ring word that the read of `lnk` behind `k` others takes: its physical and its virtual address. -/
def State.upRing (s : State) (t : Thread) (k : Nat) : Option (Nat × Word) :=
  match s.upChannel? t with
  | none => none
  | some c =>
    if k < c.words.length ∨ c.words.length + c.ringLen ≤ k then none
    else some (c.ringWord (k - c.words.length), c.ringAddr (k - c.words.length))

/-- A stopped core's scratchpad refuses the thread's access to a ring word (R266). -/
def State.refusesRing (s : State) (t : Thread) (pa : Nat) : Bool := s.refusesAt pa (some t) t.tenant (t.level == .curator)

/-- A push to the channel goes to its ring: the words, or the ring already, are in front of it (R135). -/
def Channel.rings (c : Channel) : Bool := !(decide (c.ringLen = 0) && decide (c.words.length < Config.channelWords))

/-- A downstream channel has room for a word: in its 16 words or in its overflow ring (R134, R135), whose word is free for a write. -/
def State.downRoom (s : State) (t : Thread) : Bool :=
  match s.downstream? t with
  | none => false
  | some o =>
    match s.channel? t.uid o.uid with
    | none => true
    | some c => !c.rings || (decide (c.ringLen < c.ringPa.length) && s.mayWrite [c.ringWord c.ringLen])

/-- The virtual address of the ring word that the next push to the downstream channel goes to, when it is refused (R266). -/
def State.downRefused (s : State) (t : Thread) : Option Word :=
  match (s.downstream? t).bind fun o => s.channel? t.uid o.uid with
  | none => none
  | some c => if c.rings && !c.ringPa.isEmpty && s.refusesRing t (c.ringWord c.ringLen) then some (c.ringAddr c.ringLen) else none

/-- A noon or day thread's access to a word recalls a range that lends it (R141). -/
def State.recallBy (s : State) (t : Thread) (pa : Nat) : State := s.recallFor pa t.tenant (s.classOf t == .dusk)

/-- Appends a word to the downstream channel: behind what waits in the ring, so that order is kept; the ring is written with plain stores of
the thread (R135, R314). `pending`: the instruction that writes is not completed yet. -/
def State.pushLink (s : State) (t : Thread) (v : Word) (pending : Bool := true) : State :=
  match s.downstream? t with
  | none => s
  | some o =>
    let c := (s.channel? t.uid o.uid).getD
      { src := t.uid, dst := o.uid, words := [], ringPa := t.ringPa, ringVa := t.ringVa, ringHead := 0, ringLen := 0 }
    if c.rings ∧ c.ringPa.isEmpty = false then
      let a := { Access.own .store t.uid (c.ringAddr c.ringLen) (c.ringWord c.ringLen) (!pending) with val := v }
      let m := s.accessMatches a t.tenant
      (((s.recallBy t a.pa).engineWrite a.pa v (.thread t.uid (some a)) false (some t.uid, none)).compareAccess a m).setChannel
        { c with ringLen := c.ringLen + 1 }
    else s.setChannel { c with words := c.words ++ [v] }

/-- The ring's oldest word moves into the channel, with a plain read of the thread, when data can be returned from it (R76, R86, R135, R266,
R314). -/
def State.refill (s : State) (t : Thread) (c : Channel) : State × Channel :=
  if c.ringLen = 0 then (s, c)
  else
    let pa := c.ringWord 0
    if s.refusesRing t pa || !s.mayTouch [pa] then (s, c)
    else
    let s := (s.recallBy t pa).checkEcc pa
    if s.poisoned pa then (s, c)
    else (s.compareRead t.uid (c.ringAddr 0) pa 8, { c with words := c.words ++ [s.word pa], ringHead := (c.ringHead + 1) % max 1 c.ringPa.length, ringLen := c.ringLen - 1 })

/-- Takes the oldest word of the upstream channel; the channel refills from its ring (R135). A channel of a writer that has gone ends
with its last word. -/
def State.popLink (s : State) (t : Thread) : State × Word :=
  match s.upChannel? t with
  | none => (s, 0)
  | some c =>
    let (s, c) := if c.words.isEmpty then s.refill t c else (s, c)
    let v := c.words.headD 0
    let (s, c) := s.refill t { c with words := c.words.drop 1 }
    if c.words.isEmpty ∧ c.ringLen = 0 ∧ (s.thread? c.src).isNone = true then
      ({ s with channels := s.channels.filter fun x => !(x.src == c.src && x.dst == c.dst) }, v)
    else (s.setChannel c, v)

/-- Takes one word of the thread's mailbox: word 0 of the oldest message, then word 1, which removes it (R194). -/
def State.popMail (s : State) (t : Thread) : State × Word :=
  match s.mailbox t with
  | [] => (s, 0)
  | m :: _ =>
    if m.popped then
      (s.modCore t.core fun co => { co with mail := co.mail.filter fun x => !(x.id == m.id) }, m.w1)
    else
      (s.modCore t.core fun co => { co with mail := co.mail.map fun x => if x.id = m.id then { x with popped := true } else x }, m.w0)

end Sys2Proof.Machine
end

