-- ==== Sys2Proof/Machine/Operands.lean ====
section
/-! DEFINITION. The operand forms and the decode checks (R25-R30): what each register field of an instruction is, the checks in
their order, the reads in their order, and the ways an instruction ends. -/

namespace Sys2Proof.Machine

/-- What a register field of an instruction is (R25-R28): not a register field; a source, a destination or both by R25; a
pair; a stream name (R172); or a field that holds a general register or `z` only (R407). -/
inductive Role where
  | off | src | dst | both | srcPair | dstPair | name | gsrc | gdst
  deriving DecidableEq, Repr

/-- A register field: its role, its code, its trap-on-empty bit and its low bit in the word. -/
structure Opnd where
  role : Role
  code : Nat
  te : Bool
  lo : Nat
  deriving DecidableEq, Repr

/-- No operand. -/
def noOp : Opnd := { role := .off, code := 0, te := false, lo := 0 }

/-- The field ra of the R and I formats. -/
def opA (r : Role) (code : BitVec 6) (e : BitVec 1) : Opnd := { role := r, code := code.toNat, te := e == 1, lo := 14 }
/-- The field rb of the R format. -/
def opB (r : Role) (code : BitVec 6) (f : BitVec 1) : Opnd := { role := r, code := code.toNat, te := f == 1, lo := 8 }
/-- The field rd of the R, I and U formats, and rt of the M format. -/
def opD (r : Role) (code : BitVec 6) : Opnd := { role := r, code := code.toNat, te := false, lo := 20 }

/-- What the decode checks need to know of an instruction (R30): its fields, whether a reserved field is non-zero, whether
check 1 fails for a reason of its own, the lowest level that may execute it (`denied`: none may) with the FLTVAL of *privilege*, the lowest
fallback row that it meets (0: none), and the element widths of its stream operands as sources and as destination (none:
any, at the width of the stream). `vector`: the instruction takes its stream operands itself. -/
structure Form where
  a : Opnd
  b : Opnd
  d : Opnd
  rsvd : Bool
  illegal : Bool
  level : Level
  denied : Bool
  privVal : Word
  row : Nat
  width : Option Nat
  wwidth : Option Nat
  vector : Bool
  deriving DecidableEq, Repr

/-- A form without operands. -/
def Form.plain : Form :=
  { a := noOp, b := noOp, d := noOp, rsvd := false, illegal := false, level := .user, denied := false, privVal := 0, row := 0, width := none,
    wwidth := none, vector := false }

/-- Some reserved field is non-zero. -/
def nz {n : Nat} (x : BitVec n) : Bool := x != 0

/-! ### Checks 1 to 5 -/

def Role.reads : Role → Bool
  | .src | .both | .srcPair | .gsrc => true
  | _ => false
def Role.writes : Role → Bool
  | .dst | .both | .dstPair | .gdst => true
  | _ => false
def Role.pair : Role → Bool
  | .srcPair | .dstPair => true
  | _ => false

/-- The code is allowed in the field (check 1: R25, R28, R172, R407). -/
def Opnd.allowed (o : Opnd) : Bool :=
  match o.role with
  | .off => true
  | .src => decide (o.code < 60)
  | .dst | .both => decide (o.code < 58)
  | .srcPair | .dstPair | .gsrc | .gdst => decide (o.code < 48) || o.code == 56
  | .name => decide (48 ≤ o.code) && decide (o.code < 56)

/-- The field names a general register, which a REP body staggers (R29). -/
def Opnd.general (o : Opnd) : Bool := decide (o.code < 48) && !(o.role == .off) && !(o.role == .name)

/-- The code after the stagger `k` of the pass. -/
def Opnd.at (o : Opnd) (k : Int) : Int := if o.general then o.code + k else o.code

/-- The code as a number, once the range check has passed. -/
def Opnd.num (o : Opnd) (k : Int) : Nat := (o.at k).toNat

/-- Check 4: the register number, and the second one of a pair, within the allocated count; the number that is not. -/
def Opnd.range (o : Opnd) (k : Int) (count : Nat) : Option Word :=
  if !o.general then none
  else if o.at k < 0 ∨ (count : Int) ≤ o.at k then some (wordI (o.at k))
  else if o.role.pair ∧ (count : Int) ≤ o.at k + 1 then some (wordI (o.at k + 1))
  else none

/-- Check 5: the even register of a pair. -/
def Opnd.odd (o : Opnd) (k : Int) : Option Word :=
  if o.general ∧ o.role.pair ∧ o.at k % 2 = 1 then some (wordI (o.at k)) else none

/-- The stagger of the present pass of a REP body (R186). -/
def Thread.stagger (t : Thread) : Int :=
  match t.rep with
  | some r => r.pass * r.stride.toInt
  | none => 0

/-- The word with the stagger applied to one field. -/
def Opnd.show (o : Opnd) (k : Int) (w : InstWord) : InstWord :=
  if o.general ∧ k ≠ 0 then
    BitVec.ofNat 32 (setBits w.toNat o.lo 6 ((o.at k) % 64).toNat)
  else w

/-- The instruction word as staggered (R248, R257). -/
def Form.show (f : Form) (k : Int) (w : InstWord) : InstWord := f.d.show k (f.b.show k (f.a.show k w))

/-- Checks 1 to 5 of R30: the cause and the FLTVAL of the first that fails. -/
def Form.check (f : Form) (t : Thread) (count : Nat) (proving : Bool) : Option (BitVec 8 × Word) :=
  let k := t.stagger
  if f.illegal || !f.a.allowed || !f.b.allowed || !f.d.allowed then some (0x01, 0)
  else if f.denied || decide (t.level.num < f.level.num) then some (0x03, f.privVal)
  else if f.row ≠ 0 ∧ proving = false then some (0x02, 0)
  else match ([f.a, f.b, f.d].filterMap fun o => o.range k count).head? with
  | some v => some (0x04, v)
  | none =>
    match ([f.a, f.b, f.d].filterMap fun o => o.odd k).head? with
    | some v => some (0x05, v)
    | none => none

/-! ### Check 6: availability (R27) -/

inductive Avail where
  | go
  | trap (cause : BitVec 8) (val : Word)
  | deferred (d : Deferred)
  | block (a : Await)
  | ecc (n : Nat)
  deriving DecidableEq, Repr

/-- One general register as a source. -/
def Thread.regAvailable (t : Thread) (n : Nat) (te : Bool) (code : Nat) : Avail :=
  let r := t.reg n
  if r.full then (if r.ecc = .double then .ecc n else .go)
  else match t.deferred.find? fun d => d.dst.contains n with
  | some d => .deferred ((t.deferred.head?).getD d)
  | none => if te then .trap 0x06 (w64 code) else .block (.reg n)

/-- A result of the thread for the destination code is outstanding: on its way, or still to come from an access. -/
def State.resultDue (s : State) (uid code : Nat) : Bool :=
  (s.results.any fun r => r.uid == uid && r.regs.any fun e => e.1 == code) ||
    s.accesses.any fun a => a.uid == uid && a.dst == some code && (match a.phase with | .sent | .waiting _ _ => true | _ => false)

/-- The ring word that a read of `lnk` needs can be read: refused (R266), unreadable (R86), or to be waited for (R76). -/
def State.ringAvailable (s : State) (t : Thread) (k : Nat) : Avail :=
  match s.upRing t k with
  | none => .go
  | some (pa, va) =>
    if s.refusesRing t pa then .trap 0x09 va
    else if s.unreadable pa then .trap 0x0E va
    else if s.mayTouch [pa] then .go else .block (.quiet [pa])

/-- A source (R27, R28); a stream to which a long-latency result is still to be pushed waits for the push, so that pops and pushes stay in
program order (R176; log entry 79); `k` is how many words of the same channel or mailbox the fields before it pop. -/
def State.srcAvailable (s : State) (t : Thread) (o : Opnd) (k : Nat) : Avail :=
  let n := o.num t.stagger
  if o.general then
    match t.regAvailable n o.te n with
    | .go => if o.role.pair then t.regAvailable (n + 1) o.te (n + 1) else .go
    | x => x
  else if o.code = 57 then
    if k < s.upWords t then s.ringAvailable t k else if o.te then .trap 0x06 57 else .block .upstream
  else if o.code = 58 then
    if k < (s.mailWords t).length then .go else if o.te then .trap 0x06 58 else .block .mailbox
  else if 56 ≤ o.code then .go
  else if s.resultDue t.uid o.code then .block (.reg o.code)
  else if t.deferred.any fun d => d.dst.contains o.code then
    (match t.deferred with | d :: _ => .deferred d | [] => .go)
  else .go

/-- A general register as a destination: it waits for the result of an earlier long-latency producer (R54). -/
def Thread.regDue (t : Thread) (n : Nat) : Avail :=
  if (t.reg n).due then
    match t.deferred.find? fun d => d.dst.contains n with
    | some d => .deferred ((t.deferred.head?).getD d)
    | none => .block (.reg n)
  else .go

/-- A destination: it waits for the result of an earlier long-latency producer (R54), so that pushes stay in program order (R176), and
`lnk` for room (R134). -/
def State.dstAvailable (s : State) (t : Thread) (o : Opnd) : Avail :=
  let n := o.num t.stagger
  if o.general then
    match t.regDue n with
    | .go => if o.role.pair then t.regDue (n + 1) else .go
    | x => x
  else if o.code = 56 then .go
  else if s.resultDue t.uid o.code then .block (.reg o.code)
  else if o.code = 57 then
    if s.downRoom t then (match s.downRefused t with | some va => .trap 0x09 va | none => .go) else .block .downstream
  else .go

/-- The first answer that is not `go`. -/
def firstOf : List Avail → Avail
  | [] => .go
  | .go :: rest => firstOf rest
  | x :: _ => x

/-- Fields of `fs` before which the same special code has been named as a source. -/
def earlier (fs : List Opnd) (code : Nat) : Nat := (fs.filter fun o => o.role.reads && decide (o.code = code)).length

/-- Check 6: the sources in the order ra, rb, rd, then the destination. A stream that a field names waits for the long-latency result that
is to be pushed to it (R176). -/
def State.available (s : State) (t : Thread) (f : Form) : Avail :=
  let src (o : Opnd) (before : List Opnd) : Avail :=
    if o.role.reads then s.srcAvailable t o (earlier before o.code)
    else if o.role = .name ∧ s.resultDue t.uid o.code = true then .block (.reg o.code)
    else .go
  firstOf [src f.a [], src f.b [f.a], src f.d [f.a, f.b], if f.d.role.writes then s.dstAvailable t f.d else .go]

/-! ### Stream operands (R182) -/

/-- The field names a stream that the instruction reads or writes through. -/
def Opnd.stream (o : Opnd) : Option Nat :=
  if 48 ≤ o.code ∧ o.code < 56 ∧ (o.role = .src ∨ o.role = .dst ∨ o.role = .both) then some (o.code - 48) else none

/-- The stream numbers read, in the order of the fields. -/
def Form.streamReads (f : Form) : List Nat := [f.a, f.b, f.d].filterMap fun o => if o.role.reads then o.stream else none
/-- The stream number written. -/
def Form.streamWrites (f : Form) : List Nat := [f.d].filterMap fun o => if o.role.writes then o.stream else none

/-- The outcome of the stream checks: a trap, or the fallback row 12 when a width differs in proving mode. -/
inductive StreamCheck where
  | trap (cause : BitVec 8) (val : Word)
  | ok (row12 : Bool)
  deriving DecidableEq, Repr

/-- The checks of R182, each over the operands in the order of their fields. `need n`: elements that stream `n` must have
left; `wr`: elements written. -/
def State.checkStreams (s : State) (t : Thread) (reads writes : List Nat) (width wwidth : Option Nat) (need : Nat → Nat) (wr : Nat)
    (proving : Bool) : StreamCheck :=
  let ops := (reads.map fun n => (n, false)) ++ (writes.map fun n => (n, true))
  match ops.find? fun o => (t.stream? o.1).isNone with
  | some o => .trap 0x10 (w64 o.1)
  | none =>
    let dirBad (o : Nat × Bool) : Bool := match t.stream? o.1 with
      | some x => x.entry.dir == (if o.2 then 0 else 1)
      | none => false
    match ops.find? dirBad with
    | some o => .trap 0x10 (w64 (o.1 + 256))
    | none =>
      let widthBad (o : Nat × Bool) : Bool := match t.stream? o.1, (if o.2 then wwidth else width) with
        | some x, some w => x.entry.width != w
        | _, _ => false
      let bad := ops.any widthBad
      if bad && !proving then .trap 0x02 0
      else
        let ended (o : Nat × Bool) : Bool := match t.stream? o.1 with
          | some x =>
            if o.2 && (reads.contains o.1 || !x.record.isEmpty) then false
            else match x.left with
            | some l => decide (l < (if o.2 then 1 else max 1 (need o.1)))
            | none => false
          | none => false
        match ops.find? ended with
        | some o => .trap 0x11 (w64 o.1)
        | none =>
          let lost (o : Nat × Bool) : Option Nat := match t.stream? o.1 with
            | some x =>
              let ps := if o.2 then (if reads.contains o.1 then [] else x.targets wr)
                        else (List.range (max 1 (need o.1))).filterMap fun i => x.posAt i
              (ps.filterMap fun p => (x.windowOffset p).bind fun off => s.leaseLost t off (max 1 (x.entry.width / 8))).head?
            | none => none
          match (ops.filterMap lost).head? with
          | some off => .trap 0x14 (w64 (windowBase + off))
          | none => .ok bad

/-! ### Issue -/

/-- What an instruction knows at its issue: its thread, its word as fetched and as staggered, the fallback row, the values of
its fields, and the state with its operands popped and its issue counted. -/
structure Ctx where
  uid : Nat
  t : Thread
  raw : InstWord
  shown : InstWord
  rsvd : Bool
  row : Nat
  a : Word
  a2 : Word
  b : Word
  b2 : Word
  d : Word
  d2 : Word
  dcode : Nat
  width : Option Nat
  popped : State
  deriving DecidableEq, Repr

/-- The thread has issued: the spacing of its slot starts, the core's cycle is taken, the execution mode is the core's (R32), and the
YIELDs that wait for it see it (R50, R137, R319). -/
def State.issued (s : State) (uid : Nat) (w : InstWord) : State :=
  match s.thread? uid with
  | none => s
  | some t =>
    let proving := (s.core t.core).prove
    let s := (s.modCore t.core fun c =>
      { c with issued := some { uid := uid, word := w, pc := t.pc, head := s.traceHead 0 (some t) 0 },
               slotIssue := insert c.slotIssue t.slot s.now }).count t.core 2 (some t)
    { s with threads := s.threads.map fun x =>
        let x := if x.uid = uid then { x with lastIssue := some s.now, proving := proving, stepIssued := true } else x
        { x with yield := x.yield.map fun y => { y with others := y.others.filter fun o => !(o == uid) } } }

/-- Blocks the thread: nothing has issued (R47, R50). The instruction's first wait on `lnk` starts its link-stall count (R134). -/
def State.blockOn (s : State) (uid : Nat) (a : Await) (raw shown : InstWord) : State :=
  match s.thread? uid with
  | none => s
  | some t =>
    let s := s.setThread { t.block a with parked := raw, parkedShown := shown }
    match a, t.blockedAt with
    | .upstream, none | .downstream, none =>
      (s.modThread uid fun t => { t with blockedAt := some s.now }).post (s.now + (s.tenant t.tenant).linkLimit) (.linkStall uid)
    | _, _ => s

/-- The link-stall count of a thread that has returned, or that waits again, goes on (R134). -/
def State.resumeStall (s : State) (t : Thread) : State :=
  match t.await, t.blockedAt with
  | .upstream, some b | .downstream, some b => s.post (b + (s.tenant t.tenant).linkLimit) (.linkStall t.uid)
  | _, _ => s

/-- A trap at the present instruction. The issue counts, unless the thread still waits for its accesses (R50, R251). -/
def State.trapAt (s : State) (t : Thread) (cause : BitVec 8) (val : Word) (raw shown : InstWord) : State :=
  if t.owed.isEmpty && !s.drained t.uid then
    (s.blockOn t.uid .accesses raw shown).modThread t.uid fun t =>
      { t with dueTrap := some { cause := cause, val := val, word := raw, shown := shown, counted := false } }
  else (s.issued t.uid raw).takeTrap t.uid cause val raw shown

/-- A read of a register whose check finds a single error: it is rewritten and counted (R55). -/
def State.correctReg (s : State) (t : Thread) (n : Nat) : State :=
  if ((s.thread? t.uid).map fun u => (u.reg n).ecc) = some .single then
    (s.modThread t.uid fun u => u.setReg n { u.reg n with ecc := .ok }).countCorrected t.core
  else s

/-- The general registers that a field reads, corrected (R55). -/
def State.correctField (s : State) (t : Thread) (o : Opnd) : State :=
  if o.role.reads && o.general then
    let s := s.correctReg t (o.num t.stagger)
    if o.role.pair then s.correctReg t (o.num t.stagger + 1) else s
  else s

/-- The registers that an instruction reads are corrected, whatever then becomes of it: a trap at it has read them too (R55). -/
def State.correctForm (s : State) (t : Thread) (f : Form) : State :=
  if [f.a, f.b, f.d].any fun o => o.role.reads && o.general then ((s.correctField t f.a).correctField t f.b).correctField t f.d else s

/-- The values of one source field: a register or a pair, or what the special code supplies (R25). -/
def State.readField (s : State) (uid : Nat) (o : Opnd) (k : Int) (vector : Bool) : State × Word × Word :=
  match s.thread? uid with
  | none => (s, 0, 0)
  | some t =>
    if !o.role.reads then (s, 0, 0)
    else if o.general then
      let n := o.num k
      (s, (t.reg n).val, if o.role.pair then (t.reg (n + 1)).val else 0)
    else if o.code < 56 then
      if vector then (s, 0, 0)
      else
        let (s, vs) := s.popStream uid (o.code - 48) 1
        (s.count t.core 9 (some t), vs.headD 0, 0)
    else if o.code = 57 then let (s, v) := s.popLink t; (s, v, 0)
    else if o.code = 58 then let (s, v) := s.popMail t; (s, v, 0)
    else if o.code = 59 then (s, s.time t.core, 0)
    else (s, 0, 0)

/-- The element width of the stream register; an integer scalar instruction takes and gives elements of that width (R176). -/
def State.streamWidth (s : State) (uid n : Nat) : Nat :=
  match (s.thread? uid).bind (·.stream? n) with
  | some x => x.entry.width
  | none => 64

/-- A HALLOC.nf of the thread is outstanding (R104). -/
def State.allocBusy (s : State) (uid : Nat) : Bool := s.accesses.any fun a => a.uid == uid && decide (a.kind = .alloc)

/-- Brings one element of each stream source to hand; answers whether all are. -/
def State.fillReads (s : State) (uid : Nat) (w : Option Nat) (raw shown : InstWord) (reads : List Nat) : State :=
  reads.eraseDups.foldl (fun s n =>
    let w := w.getD (s.streamWidth uid n)
    (s.matchAhead uid n w).fill uid n w raw shown (reads.count n + 1) (reads.count n)) s

def Thread.allAtHand (t : Thread) (reads : List Nat) : Bool :=
  reads.all fun n => decide (reads.count n ≤ t.atHand n)

/-- The outcome of the checks of an issue: the thread stops at the instruction, or the instruction runs with what it knows. -/
inductive Attempt where
  | stops (s : State)
  | runs (c : Ctx) (s : State)
  deriving DecidableEq, Repr

/-- The reads of the operands in the order ra, rb, rd, after every check. `s` is the state before them, with the stream elements at
hand. -/
def State.readOperands (s : State) (t : Thread) (raw : InstWord) (f : Form) (row12 : Bool) : Ctx :=
  let st := t.stagger
  let s0 := (if f.vector then [] else f.streamReads).eraseDups.foldl (fun s n => s.newRecord t.uid n) s
  let (s1, a, a2) := s0.readField t.uid f.a st f.vector
  let (s2, b, b2) := s1.readField t.uid f.b st f.vector
  let (s3, d, d2) := s2.readField t.uid f.d st f.vector
  { uid := t.uid, t := t, raw := raw, shown := f.show st raw, rsvd := f.rsvd, row := if f.row ≠ 0 then f.row else if row12 then 12 else 0,
    a := a, a2 := a2, b := b, b2 := b2, d := d, d2 := d2, dcode := f.d.num st, width := f.wwidth, popped := s3.issued t.uid raw }

/-- The puts of `k` elements to each of the streams `ns` (R79, R184) keep the instruction from running: its thread waits, or it is held with
*wait-list overflow*. -/
def State.putsStop (s : State) (t : Thread) (ns : List Nat) (k : Nat) (raw shown : InstWord) : Option State :=
  match (ns.filterMap fun n => match s.putsOf t n k with | .go => none | x => some (n, x)).head? with
  | none => none
  | some (_, .full va d) => some ((s.issued t.uid raw).hold t.uid 0x0D (w64 va) d raw shown false false false)
  | some (n, _) => some (s.blockOn t.uid (.streamPuts n k) raw shown)

/-- The stream operands: their checks (R182), the elements brought to hand, and the reads. A stream access waits for a HALLOC.nf that is
outstanding (R104). -/
def State.attemptStreams (s : State) (t : Thread) (raw : InstWord) (f : Form) : Attempt :=
  let shown := f.show t.stagger raw
  let reads := if f.vector then [] else f.streamReads
  let writes := if f.vector then [] else f.streamWrites
  match s.checkStreams t reads writes f.width f.wwidth (fun n => reads.count n) 1 (s.core t.core).prove with
  | .trap c v => .stops (s.trapAt t c v raw shown)
  | .ok row12 =>
    if !(reads ++ writes).isEmpty && s.allocBusy t.uid then .stops (s.blockOn t.uid .accesses raw shown)
    else
    let s := s.fillReads t.uid f.width raw shown reads
    match s.thread? t.uid with
    | none => .stops s
    | some t' =>
      if t'.left t then .stops s
      else if !t'.allAtHand reads then .stops (s.blockOn t.uid (.streamElement (reads.headD 0)) raw shown)
      else match s.putsStop t' writes 1 raw shown with
      | some s => .stops s
      | none =>
        let s := s.correctForm t f
        .runs (s.readOperands t raw f row12) s

/-- The checks of an issue (R30), in order: a comparator's trap, checks 1 to 5, availability, the streams. A width that differs is found with
the streams, after availability (R182; log entry 65). -/
def State.attempt (s : State) (t : Thread) (raw : InstWord) (f : Form) : Attempt :=
  let core := s.core t.core
  let shown := f.show t.stagger raw
  match t.hit with
  | some v => .stops (s.trapAt t 0x2A v raw shown)
  | none =>
    match f.check t core.regCount core.prove with
    | some (c, v) => .stops (s.trapAt t c v raw shown)
    | none =>
      match s.available t f with
      | .trap c v => .stops (s.trapAt t c v raw shown)
      | .deferred d => .stops ((s.issued t.uid raw).takeDeferred t raw d)
      | .block a => .stops (s.blockOn t.uid a raw shown)
      | .ecc n =>
        .stops ((s.modThread t.uid fun t => t.setReg n { t.reg n with full := false, due := false, ecc := .ok }).trapAt t 0x31 (w64 n)
          raw shown)
      | .go => s.attemptStreams t raw f

/-- ISSUES an instruction for a thread: the checks and the reads, and the instruction itself. -/
def State.issueThread (s : State) (t : Thread) (raw : InstWord) (f : Form) (k : Ctx → State → State) : State :=
  match s.attempt t raw f with
  | .stops s => s
  | .runs c s => k c s

/-- ISSUES an instruction for the thread that `cur` names. -/
def State.issue (s : State) (i : Instr) (form : Thread → Core → Form) (k : Ctx → State → State) : Host.Outcome State Fault Refusal :=
  match s.thread? s.cur with
  | none => .fault .noThread
  | some t => .next (s.issueThread t (encodeWord i) (form t (s.core t.core)) k)

/-! ### How an instruction ends -/

/-- A trap of the instruction: nothing has been popped. -/
def Ctx.trap (c : Ctx) (s : State) (cause : BitVec 8) (val : Word) : State := s.trapAt c.t cause val c.raw c.shown

/-- A cause that is held when replayable, else a trap. -/
def Ctx.raise (c : Ctx) (s : State) (cause : BitVec 8) (val : Word) (detail : Nat := 0) : State :=
  if replayable cause then (s.issued c.uid c.raw).hold c.uid cause val detail c.raw c.shown false false false
  else c.trap s cause val

/-- The instruction waits, and has had no effect. -/
def Ctx.block (c : Ctx) (s : State) (a : Await) : State := s.blockOn c.uid a c.raw c.shown

/-- The instruction completes. -/
def Ctx.done (c : Ctx) (s : State) : State := s.retire c.uid c.raw c.rsvd false c.row

/-- Writes the result to the destination field: a register, a pushed element, `lnk`, or nothing for `z` (R25). -/
def Ctx.put (c : Ctx) (s : State) (v : Word) : State :=
  if c.dcode < 48 then s.writeReg c.uid c.dcode v
  else if c.dcode < 56 then s.pushStream c.uid (c.dcode - 48) (c.width.getD (s.streamWidth c.uid (c.dcode - 48))) [v] c.raw c.shown
  else if c.dcode = 57 then (match s.thread? c.uid with | some t => s.pushLink t v | none => s)
  else s

/-- The instruction writes its result and completes. -/
def Ctx.finish (c : Ctx) (v : Word) : State := c.done (c.put c.popped v)

/-- The destination of a long-latency result becomes empty (R53); another destination than a register has no mark. -/
def Ctx.mark (c : Ctx) (s : State) : State :=
  if c.dcode < 48 then s.modThread c.uid fun t => t.markDue c.dcode else s

/-- The result registers of a long-latency producer: none for `z`. -/
def Ctx.result (c : Ctx) (v : Word) : List (Nat × Word) := if c.dcode = 56 then [] else [(c.dcode, v)]

/-- A long-latency producer whose result is on its way, and which completes (R53). -/
def Ctx.finishLater (c : Ctx) (s : State) (v : Word) : State := c.done ((c.mark s).sendResult c.uid (c.result v))

/-- An ordering point or a non-relaxed access: it issues only when every earlier access of the thread is performed (R104,
R105); a deferred trap is taken here (R78). What streams have read ahead is discarded (R184). -/
def Ctx.ordered (c : Ctx) (s : State) (k : State → State) : State :=
  match c.t.owed with
  | d :: _ => (s.issued c.uid c.raw).takeDeferred c.t c.raw d
  | [] =>
    if s.drained c.uid then k (c.popped.dropReadAhead c.uid)
    else c.block s .accesses

end Sys2Proof.Machine
end

