-- ==== Sys2Proof/Machine/Integer.lean ====
section
/-! DEFINITION. The integer instructions: majors 0x01-0x0A (R336-R340, R344, R350, R351, R357, R358, R364, R396, R413, R414, R417,
R424, R425, R432, R434, R437, R438, R446, R471). -/

namespace Sys2Proof.Machine

/-! ### Results -/

/-- ADD.w and SUB.w and the `.w` shifts: the low 32 bits, sign-extended from bit 31. -/
def sext32 (x : Word) : Word := sextLow 32 x

/-- A 32-bit value sign-extended (R438). -/
def sextW (x : BitVec 32) : Word := x.signExtend 64

/-- The shift amounts: gb bits 5:0, and bits 4:0 for the `.w` forms (R438). -/
def shAmt (b : Word) : Nat := fieldOf b 0 6
def shAmtW (b : Word) : Nat := fieldOf b 0 5

/-- ROT (R434). -/
def rotL (a : Word) (n : Nat) : Word := a.rotateLeft n

/-- The leading zero bits of a word (R350): 64 for 0. -/
def clzOf (a : Word) : Nat := if a = 0 then 64 else 63 - a.toNat.log2

/-- The trailing zero bits of a word (R350): 64 for 0. -/
def ctzOf (a : Word) : Nat := ((List.range 64).find? fun i => a.toNat.testBit i).getD 64

/-- The 1 bits of a word (R425). -/
def popcOf (a : Word) : Nat := ((List.range 64).filter fun i => a.toNat.testBit i).length

/-- EXT (R364): `pos` in gb bits 5:0, `len` in bits 13:8. -/
def extField (a b : Word) : Word := w64 (bits a.toNat (fieldOf b 0 6) (fieldOf b 8 6))

/-- INS's mask (R396). -/
def insMask (b : Word) : Word := w64 ((2 ^ fieldOf b 8 6 - 1) * 2 ^ fieldOf b 0 6)

/-- INS (R396). -/
def insField (d a b : Word) : Word := (d &&& ~~~insMask b) ||| ((a <<< fieldOf b 0 6) &&& insMask b)

/-- The comparisons of B and CMP (R346, R351). -/
def condHolds (c : Nat) (x y : Word) : Bool :=
  match c with
  | 0 => x == y
  | 1 => x != y
  | 2 => decide (x.toInt < y.toInt)
  | 3 => decide (y.toInt ≤ x.toInt)
  | 4 => decide (x.toNat < y.toNat)
  | _ => decide (y.toNat ≤ x.toNat)

/-- DIV (R358). -/
def divS (a b : Word) : Word := if b = 0 then BitVec.allOnes 64 else wordI (a.toInt.tdiv b.toInt)
/-- DIV.u (R358). -/
def divU (a b : Word) : Word := if b = 0 then BitVec.allOnes 64 else w64 (a.toNat / b.toNat)
/-- REM (R432). -/
def remS (a b : Word) : Word := if b = 0 then a else wordI (a.toInt.tmod b.toInt)
/-- REM.u (R432). -/
def remU (a b : Word) : Word := if b = 0 then a else w64 (a.toNat % b.toNat)

/-! ### Forms -/

/-- R format with three registers (R336). -/
def fmtR (d a b : BitVec 6) (e f : BitVec 1) : Form :=
  { Form.plain with a := opA .src a e, b := opB .src b f, d := opD .dst d }

/-- R format with rb reserved (R336, R324). -/
def fmtR1 (d a b : BitVec 6) (e f : BitVec 1) : Form :=
  { Form.plain with a := opA .src a e, d := opD .dst d, rsvd := nz b || nz f }

/-- R format with gd a third source (R26). -/
def fmtR3 (d a b : BitVec 6) (e f : BitVec 1) : Form :=
  { Form.plain with a := opA .src a e, b := opB .src b f, d := opD .both d }

/-- I format (R337). -/
def fmtI (d a : BitVec 6) (e : BitVec 1) : Form := { Form.plain with a := opA .src a e, d := opD .dst d }

/-- U format (R340, R413). -/
def fmtU (d : BitVec 6) : Form := { Form.plain with d := opD .dst d }

/-- An instruction whose one effect is its result (R338). -/
def State.compute (s : State) (i : Instr) (f : Form) (v : Ctx → Word) : Host.Outcome State Fault Refusal :=
  s.issue i (fun _ _ => f) fun c _ => c.finish (v c)

/-! ### Meanings -/

/-- ADD (R339). -/
def execAdd (d a b : BitVec 6) (e f : BitVec 1) (s : State) : Host.Outcome State Fault Refusal :=
  s.compute (.add d a b e f) (fmtR d a b e f) fun c => c.a + c.b

/-- SUB (R446). -/
def execSub (d a b : BitVec 6) (e f : BitVec 1) (s : State) : Host.Outcome State Fault Refusal :=
  s.compute (.sub d a b e f) (fmtR d a b e f) fun c => c.a - c.b

/-- AND (R344). -/
def execAnd (d a b : BitVec 6) (e f : BitVec 1) (s : State) : Host.Outcome State Fault Refusal :=
  s.compute (.and d a b e f) (fmtR d a b e f) fun c => c.a &&& c.b

/-- OR (R424). -/
def execOr (d a b : BitVec 6) (e f : BitVec 1) (s : State) : Host.Outcome State Fault Refusal :=
  s.compute (.or d a b e f) (fmtR d a b e f) fun c => c.a ||| c.b

/-- XOR (R471). -/
def execXor (d a b : BitVec 6) (e f : BitVec 1) (s : State) : Host.Outcome State Fault Refusal :=
  s.compute (.xor d a b e f) (fmtR d a b e f) fun c => c.a ^^^ c.b

/-- ANDN (R344). -/
def execAndn (d a b : BitVec 6) (e f : BitVec 1) (s : State) : Host.Outcome State Fault Refusal :=
  s.compute (.andn d a b e f) (fmtR d a b e f) fun c => c.a &&& ~~~c.b

/-- SHL (R438). -/
def execShl (d a b : BitVec 6) (e f : BitVec 1) (s : State) : Host.Outcome State Fault Refusal :=
  s.compute (.shl d a b e f) (fmtR d a b e f) fun c => c.a <<< shAmt c.b

/-- SHR (R438). -/
def execShr (d a b : BitVec 6) (e f : BitVec 1) (s : State) : Host.Outcome State Fault Refusal :=
  s.compute (.shr d a b e f) (fmtR d a b e f) fun c => c.a >>> shAmt c.b

/-- SRA (R438). -/
def execSra (d a b : BitVec 6) (e f : BitVec 1) (s : State) : Host.Outcome State Fault Refusal :=
  s.compute (.sra d a b e f) (fmtR d a b e f) fun c => c.a.sshiftRight (shAmt c.b)

/-- ROT (R434). -/
def execRot (d a b : BitVec 6) (e f : BitVec 1) (s : State) : Host.Outcome State Fault Refusal :=
  s.compute (.rot d a b e f) (fmtR d a b e f) fun c => rotL c.a (shAmt c.b)

/-- MIN (R414). -/
def execMin (d a b : BitVec 6) (e f : BitVec 1) (s : State) : Host.Outcome State Fault Refusal :=
  s.compute (.min d a b e f) (fmtR d a b e f) fun c => if c.a.toInt ≤ c.b.toInt then c.a else c.b

/-- MIN.u (R414). -/
def execMinU (d a b : BitVec 6) (e f : BitVec 1) (s : State) : Host.Outcome State Fault Refusal :=
  s.compute (.minU d a b e f) (fmtR d a b e f) fun c => if c.a.toNat ≤ c.b.toNat then c.a else c.b

/-- MAX (R414). -/
def execMax (d a b : BitVec 6) (e f : BitVec 1) (s : State) : Host.Outcome State Fault Refusal :=
  s.compute (.max d a b e f) (fmtR d a b e f) fun c => if c.a.toInt ≤ c.b.toInt then c.b else c.a

/-- MAX.u (R414). -/
def execMaxU (d a b : BitVec 6) (e f : BitVec 1) (s : State) : Host.Outcome State Fault Refusal :=
  s.compute (.maxU d a b e f) (fmtR d a b e f) fun c => if c.a.toNat ≤ c.b.toNat then c.b else c.a

/-- SEL (R437). -/
def execSel (d a b : BitVec 6) (e f : BitVec 1) (s : State) : Host.Outcome State Fault Refusal :=
  s.compute (.sel d a b e f) (fmtR3 d a b e f) fun c => if c.d = 0 then c.b else c.a

/-- CMP, register form (R351). -/
def execCmp (d a b : BitVec 6) (e f : BitVec 1) (k : BitVec 3) (s : State) : Host.Outcome State Fault Refusal :=
  s.compute (.cmp d a b e f k) (fmtR d a b e f) fun c => flagWord (condHolds k.toNat c.a c.b)

/-- CLZ (R350). -/
def execClz (d a b : BitVec 6) (e f : BitVec 1) (s : State) : Host.Outcome State Fault Refusal :=
  s.compute (.clz d a b e f) (fmtR1 d a b e f) fun c => w64 (clzOf c.a)

/-- CTZ (R350). -/
def execCtz (d a b : BitVec 6) (e f : BitVec 1) (s : State) : Host.Outcome State Fault Refusal :=
  s.compute (.ctz d a b e f) (fmtR1 d a b e f) fun c => w64 (ctzOf c.a)

/-- POPC (R425). -/
def execPopc (d a b : BitVec 6) (e f : BitVec 1) (s : State) : Host.Outcome State Fault Refusal :=
  s.compute (.popc d a b e f) (fmtR1 d a b e f) fun c => w64 (popcOf c.a)

/-- EXT (R364). -/
def execExt (d a b : BitVec 6) (e f : BitVec 1) (s : State) : Host.Outcome State Fault Refusal :=
  s.compute (.ext d a b e f) (fmtR d a b e f) fun c => extField c.a c.b

/-- INS (R396). -/
def execIns (d a b : BitVec 6) (e f : BitVec 1) (s : State) : Host.Outcome State Fault Refusal :=
  s.compute (.ins d a b e f) (fmtR3 d a b e f) fun c => insField c.d c.a c.b

/-- ADD.w (R339). -/
def execAddW (d a b : BitVec 6) (e f : BitVec 1) (s : State) : Host.Outcome State Fault Refusal :=
  s.compute (.addW d a b e f) (fmtR d a b e f) fun c => sext32 (c.a + c.b)

/-- SUB.w (R446). -/
def execSubW (d a b : BitVec 6) (e f : BitVec 1) (s : State) : Host.Outcome State Fault Refusal :=
  s.compute (.subW d a b e f) (fmtR d a b e f) fun c => sext32 (c.a - c.b)

/-- SHL.w (R438). -/
def execShlW (d a b : BitVec 6) (e f : BitVec 1) (s : State) : Host.Outcome State Fault Refusal :=
  s.compute (.shlW d a b e f) (fmtR d a b e f) fun c => sextW (c.a.setWidth 32 <<< shAmtW c.b)

/-- SHR.w (R438). -/
def execShrW (d a b : BitVec 6) (e f : BitVec 1) (s : State) : Host.Outcome State Fault Refusal :=
  s.compute (.shrW d a b e f) (fmtR d a b e f) fun c => sextW (c.a.setWidth 32 >>> shAmtW c.b)

/-- SRA.w (R438). -/
def execSraW (d a b : BitVec 6) (e f : BitVec 1) (s : State) : Host.Outcome State Fault Refusal :=
  s.compute (.sraW d a b e f) (fmtR d a b e f) fun c => sextW ((c.a.setWidth 32).sshiftRight (shAmtW c.b))

/-- MUL (R417). -/
def execMul (d a b : BitVec 6) (e f : BitVec 1) (s : State) : Host.Outcome State Fault Refusal :=
  s.compute (.mul d a b e f) (fmtR d a b e f) fun c => c.a * c.b

/-- MULH (R417). -/
def execMulh (d a b : BitVec 6) (e f : BitVec 1) (s : State) : Host.Outcome State Fault Refusal :=
  s.compute (.mulh d a b e f) (fmtR d a b e f) fun c => wordI (c.a.toInt * c.b.toInt / 2 ^ 64)

/-- MULH.u (R417). -/
def execMulhU (d a b : BitVec 6) (e f : BitVec 1) (s : State) : Host.Outcome State Fault Refusal :=
  s.compute (.mulhU d a b e f) (fmtR d a b e f) fun c => w64 (c.a.toNat * c.b.toNat / 2 ^ 64)

/-- MULH.su (R417). -/
def execMulhSu (d a b : BitVec 6) (e f : BitVec 1) (s : State) : Host.Outcome State Fault Refusal :=
  s.compute (.mulhSu d a b e f) (fmtR d a b e f) fun c => wordI (c.a.toInt * c.b.toNat / 2 ^ 64)

/-- DIV (R358). -/
def execDiv (d a b : BitVec 6) (e f : BitVec 1) (s : State) : Host.Outcome State Fault Refusal :=
  s.compute (.div d a b e f) (fmtR d a b e f) fun c => divS c.a c.b

/-- DIV.u (R358). -/
def execDivU (d a b : BitVec 6) (e f : BitVec 1) (s : State) : Host.Outcome State Fault Refusal :=
  s.compute (.divU d a b e f) (fmtR d a b e f) fun c => Sys2Proof.Machine.divU c.a c.b

/-- REM (R432). -/
def execRem (d a b : BitVec 6) (e f : BitVec 1) (s : State) : Host.Outcome State Fault Refusal :=
  s.compute (.rem d a b e f) (fmtR d a b e f) fun c => remS c.a c.b

/-- REM.u (R432). -/
def execRemU (d a b : BitVec 6) (e f : BitVec 1) (s : State) : Host.Outcome State Fault Refusal :=
  s.compute (.remU d a b e f) (fmtR d a b e f) fun c => Sys2Proof.Machine.remU c.a c.b

/-- MUL.w (R417). -/
def execMulW (d a b : BitVec 6) (e f : BitVec 1) (s : State) : Host.Outcome State Fault Refusal :=
  s.compute (.mulW d a b e f) (fmtR d a b e f) fun c => sext32 (c.a * c.b)

/-- ADD immediate (R339). -/
def execAddImm (d a : BitVec 6) (e : BitVec 1) (i : BitVec 13) (s : State) : Host.Outcome State Fault Refusal :=
  s.compute (.addImm d a e i) (fmtI d a e) fun c => c.a + sextTo 13 i

/-- AND immediate (R344). -/
def execAndImm (d a : BitVec 6) (e : BitVec 1) (i : BitVec 13) (s : State) : Host.Outcome State Fault Refusal :=
  s.compute (.andImm d a e i) (fmtI d a e) fun c => c.a &&& sextTo 13 i

/-- OR immediate (R424). -/
def execOrImm (d a : BitVec 6) (e : BitVec 1) (i : BitVec 13) (s : State) : Host.Outcome State Fault Refusal :=
  s.compute (.orImm d a e i) (fmtI d a e) fun c => c.a ||| sextTo 13 i

/-- XOR immediate (R471). -/
def execXorImm (d a : BitVec 6) (e : BitVec 1) (i : BitVec 13) (s : State) : Host.Outcome State Fault Refusal :=
  s.compute (.xorImm d a e i) (fmtI d a e) fun c => c.a ^^^ sextTo 13 i

/-- SHL immediate; imm bits 10:6 are reserved (R438, R324). -/
def execShlImm (d a : BitVec 6) (e : BitVec 1) (r : BitVec 5) (n : BitVec 6) (s : State) :
    Host.Outcome State Fault Refusal :=
  s.compute (.shlImm d a e r n) { fmtI d a e with rsvd := nz r } fun c => c.a <<< n.toNat

/-- SHR immediate; imm bits 10:6 are reserved (R438, R324). -/
def execShrImm (d a : BitVec 6) (e : BitVec 1) (r : BitVec 5) (n : BitVec 6) (s : State) :
    Host.Outcome State Fault Refusal :=
  s.compute (.shrImm d a e r n) { fmtI d a e with rsvd := nz r } fun c => c.a >>> n.toNat

/-- SRA immediate; imm bits 10:6 are reserved (R438, R324). -/
def execSraImm (d a : BitVec 6) (e : BitVec 1) (r : BitVec 5) (n : BitVec 6) (s : State) :
    Host.Outcome State Fault Refusal :=
  s.compute (.sraImm d a e r n) { fmtI d a e with rsvd := nz r } fun c => c.a.sshiftRight n.toNat

/-- ROT immediate; imm bits 10:6 are reserved (R434, R324). -/
def execRotImm (d a : BitVec 6) (e : BitVec 1) (r : BitVec 5) (n : BitVec 6) (s : State) :
    Host.Outcome State Fault Refusal :=
  s.compute (.rotImm d a e r n) { fmtI d a e with rsvd := nz r } fun c => rotL c.a n.toNat

/-- CMP immediate (R351); conditions 6 and 7 are fallback row 4, `.eq` (R326). -/
def execCmpImm (d a : BitVec 6) (e : BitVec 1) (k : BitVec 3) (i : BitVec 10) (s : State) : Host.Outcome State Fault Refusal :=
  s.compute (.cmpImm d a e k i) { fmtI d a e with row := if 6 ≤ k.toNat then 4 else 0 } fun c =>
    flagWord (condHolds (if 6 ≤ k.toNat then 0 else k.toNat) c.a (sextTo 10 i))

/-- LIH (R413). -/
def execLih (d : BitVec 6) (i : BitVec 20) (s : State) : Host.Outcome State Fault Refusal :=
  s.compute (.lih d i) (fmtU d) fun _ => sextTo 20 i <<< 12

/-- ADDPC: PC is the address of the word itself (R340). -/
def execAddpc (d : BitVec 6) (i : BitVec 20) (s : State) : Host.Outcome State Fault Refusal :=
  s.compute (.addpc d i) (fmtU d) fun c => c.t.pc + (sextTo 20 i <<< 2)

end Sys2Proof.Machine
end

