-- ==== Sys2Proof/Machine/FloatOps.lean ====
section
/-! DEFINITION. The scalar floating-point instructions: majors 0x1D and 0x1E (R154-R157, R160-R162, R366-R373, R375, R382, R383, R394,
R395). -/

namespace Sys2Proof.Machine

/-- The low bits of a register, read at a format (R157). -/
def lowBits (w : Nat) (v : Word) : Nat := v.toNat % 2 ^ w

/-- A register as a value of a format. -/
def FpFmt.of (f : FpFmt) (v : Word) : FpVal := f.unpack (lowBits f.width v)

/-- Stream operands of the width of a format, in and out (R176, R182). -/
def Form.fp (f : Form) (i o : Option FpFmt) : Form := { f with width := i.map (·.width), wwidth := o.map (·.width) }

/-- An instruction whose effects are its result and its flags (R155). -/
def State.computeFp (s : State) (i : Instr) (f : Form) (v : Ctx → Nat × Flags) : Host.Outcome State Fault Refusal :=
  s.issue i (fun _ _ => f) fun c _ => c.done ((c.put c.popped (w64 (v c).1)).raiseFlags c.uid (v c).2)

/-- Two sources and a result of one format. -/
def fpR (d a b : BitVec 6) (e f : BitVec 1) (t : BitVec 2) : Form := (fmtR d a b e f).fp (some (fmtOf t.toNat)) (some (fmtOf t.toNat))

/-- One source and a result of one format; rb and eb are reserved. -/
def fpR1 (d a b : BitVec 6) (e f : BitVec 1) (t : BitVec 2) : Form := (fmtR1 d a b e f).fp (some (fmtOf t.toNat)) (some (fmtOf t.toNat))

/-- gd a third source (R26). -/
def fpR3 (d a b : BitVec 6) (e f : BitVec 1) (t : BitVec 2) : Form := (fmtR3 d a b e f).fp (some (fmtOf t.toNat)) (some (fmtOf t.toNat))

/-- The mode of the arithmetic instructions: FPRM, with RNA taken as RNE (R154). -/
def Ctx.arith (c : Ctx) : Rm := c.t.rm.arith

/-! ### FP-A (R366-R369, R375, R382, R383) -/

/-- FADD (R367). -/
def execFadd (d a b : BitVec 6) (e f : BitVec 1) (t : BitVec 2) (s : State) :
    Host.Outcome State Fault Refusal :=
  let x := fmtOf t.toNat
  s.computeFp (.fadd d a b e f t) (fpR d a b e f t) fun c => x.add c.arith (x.of c.a) (x.of c.b)

/-- FSUB (R367). -/
def execFsub (d a b : BitVec 6) (e f : BitVec 1) (t : BitVec 2) (s : State) :
    Host.Outcome State Fault Refusal :=
  let x := fmtOf t.toNat
  s.computeFp (.fsub d a b e f t) (fpR d a b e f t) fun c => x.add c.arith (x.of c.a) (x.of c.b).neg

/-- FMUL (R367). -/
def execFmul (d a b : BitVec 6) (e f : BitVec 1) (t : BitVec 2) (s : State) :
    Host.Outcome State Fault Refusal :=
  let x := fmtOf t.toNat
  s.computeFp (.fmul d a b e f t) (fpR d a b e f t) fun c => x.mul c.arith (x.of c.a) (x.of c.b)

/-- FMA: gd + ga × gb, one rounding (R367). -/
def execFma (d a b : BitVec 6) (e f : BitVec 1) (t : BitVec 2) (s : State) :
    Host.Outcome State Fault Refusal :=
  let x := fmtOf t.toNat
  s.computeFp (.fma d a b e f t) (fpR3 d a b e f t) fun c => x.fma c.arith false (x.of c.d) (x.of c.a) (x.of c.b)

/-- FMA.n: gd - ga × gb, one rounding (R367, R368). -/
def execFmaN (d a b : BitVec 6) (e f : BitVec 1) (t : BitVec 2) (s : State) :
    Host.Outcome State Fault Refusal :=
  let x := fmtOf t.toNat
  s.computeFp (.fmaN d a b e f t) (fpR3 d a b e f t) fun c => x.fma c.arith true (x.of c.d) (x.of c.a) (x.of c.b)

/-- FDIV (R161, R367). -/
def execFdiv (d a b : BitVec 6) (e f : BitVec 1) (t : BitVec 2) (s : State) :
    Host.Outcome State Fault Refusal :=
  let x := fmtOf t.toNat
  s.computeFp (.fdiv d a b e f t) (fpR d a b e f t) fun c => x.div c.arith (x.of c.a) (x.of c.b)

/-- FSQRT (R367, R368). -/
def execFsqrt (d a b : BitVec 6) (e f : BitVec 1) (t : BitVec 2) (s : State) :
    Host.Outcome State Fault Refusal :=
  let x := fmtOf t.toNat
  s.computeFp (.fsqrt d a b e f t) (fpR1 d a b e f t) fun c => x.sqrt c.arith (x.of c.a)

/-- FMIN (R162, R375). -/
def execFmin (d a b : BitVec 6) (e f : BitVec 1) (t : BitVec 2) (s : State) :
    Host.Outcome State Fault Refusal :=
  let x := fmtOf t.toNat
  s.computeFp (.fmin d a b e f t) (fpR d a b e f t) fun c => x.minmax false false (lowBits x.width c.a) (lowBits x.width c.b)

/-- FMAX (R162, R375). -/
def execFmax (d a b : BitVec 6) (e f : BitVec 1) (t : BitVec 2) (s : State) :
    Host.Outcome State Fault Refusal :=
  let x := fmtOf t.toNat
  s.computeFp (.fmax d a b e f t) (fpR d a b e f t) fun c => x.minmax true false (lowBits x.width c.a) (lowBits x.width c.b)

/-- FMINN (R162, R375). -/
def execFminn (d a b : BitVec 6) (e f : BitVec 1) (t : BitVec 2) (s : State) :
    Host.Outcome State Fault Refusal :=
  let x := fmtOf t.toNat
  s.computeFp (.fminn d a b e f t) (fpR d a b e f t) fun c => x.minmax false true (lowBits x.width c.a) (lowBits x.width c.b)

/-- FMAXN (R162, R375). -/
def execFmaxn (d a b : BitVec 6) (e f : BitVec 1) (t : BitVec 2) (s : State) :
    Host.Outcome State Fault Refusal :=
  let x := fmtOf t.toNat
  s.computeFp (.fmaxn d a b e f t) (fpR d a b e f t) fun c => x.minmax true true (lowBits x.width c.a) (lowBits x.width c.b)

/-- The magnitude bits of `a` with a sign bit (R383). -/
def FpFmt.withSign (x : FpFmt) (a : Word) (neg : Bool) : Nat := lowBits x.width a % 2 ^ (x.ebits + x.mbits) + x.sign neg

/-- The sign bit of an operand. -/
def FpFmt.signOf (x : FpFmt) (a : Word) : Bool := a.toNat.testBit (x.ebits + x.mbits)

/-- FSGN.j (R383). -/
def execFsgnJ (d a b : BitVec 6) (e f : BitVec 1) (t : BitVec 2) (s : State) :
    Host.Outcome State Fault Refusal :=
  let x := fmtOf t.toNat
  s.computeFp (.fsgnJ d a b e f t) (fpR d a b e f t) fun c => (x.withSign c.a (x.signOf c.b), 0)

/-- FSGN.n (R383). -/
def execFsgnN (d a b : BitVec 6) (e f : BitVec 1) (t : BitVec 2) (s : State) :
    Host.Outcome State Fault Refusal :=
  let x := fmtOf t.toNat
  s.computeFp (.fsgnN d a b e f t) (fpR d a b e f t) fun c => (x.withSign c.a (!x.signOf c.b), 0)

/-- FSGN.x (R383). -/
def execFsgnX (d a b : BitVec 6) (e f : BitVec 1) (t : BitVec 2) (s : State) :
    Host.Outcome State Fault Refusal :=
  let x := fmtOf t.toNat
  s.computeFp (.fsgnX d a b e f t) (fpR d a b e f t) fun c => (x.withSign c.a (x.signOf c.a ^^ x.signOf c.b), 0)

/-- FCLASS: an integer result (R369). -/
def execFclass (d a b : BitVec 6) (e f : BitVec 1) (t : BitVec 2) (s : State) :
    Host.Outcome State Fault Refusal :=
  let x := fmtOf t.toNat
  s.computeFp (.fclass d a b e f t) ((fmtR1 d a b e f).fp (some x) none) fun c => (x.classify (lowBits x.width c.a), 0)

/-- FRND (R382). -/
def execFrnd (d a b : BitVec 6) (e f : BitVec 1) (t : BitVec 2) (s : State) :
    Host.Outcome State Fault Refusal :=
  let x := fmtOf t.toNat
  s.computeFp (.frnd d a b e f t) (fpR1 d a b e f t) fun c => x.rint c.arith (x.of c.a)

/-! ### FP-C (R370-R373, R394, R395) -/

/-- FCMP (R162, R370). -/
def execFcmp (d a b : BitVec 6) (e f : BitVec 1) (k t : BitVec 2) (s : State) : Host.Outcome State Fault Refusal :=
  let x := fmtOf t.toNat
  s.computeFp (.fcmp d a b e f k t) ((fmtR d a b e f).fp (some x) none) fun c =>
    let r := x.compare k.toNat (lowBits x.width c.a) (lowBits x.width c.b)
    (bitNat r.1, r.2)

/-- The mode of a rounding override (R154, R371): 0 dynamic, 6 and 7 fall back to it. -/
def overrideRm (t : Thread) (m : Nat) : Rm :=
  match m with
  | 1 => .rne
  | 2 => .rtz
  | 3 => .rup
  | 4 => .rdn
  | 5 => .rna
  | _ => t.rm

/-- FCVT (R160, R324, R371, R372); an override of 6 or 7 is fallback row 6. -/
def execFcvt (d a : BitVec 6) (r : BitVec 1) (m : BitVec 3) (o : BitVec 2) (e f : BitVec 1) (t : BitVec 2) (s : State) :
    Host.Outcome State Fault Refusal :=
  let x := fmtOf t.toNat
  let y := fmtOf o.toNat
  s.computeFp (.fcvt d a r m o e f t)
    ({ Form.plain with a := opA .src a e, d := opD .dst d, rsvd := nz r || nz f, row := if 6 ≤ m.toNat then 6 else 0 }.fp (some x)
      (some y))
    fun c => y.convert (overrideRm c.t m.toNat) false (x.of c.a)

/-- The result of a conversion to a 64-bit integer. -/
def intResult (r : Int × Flags) : Nat × Flags := ((wordI r.1).toNat, r.2)

/-- FCVTI (R160, R373). -/
def execFcvti (d a b : BitVec 6) (e f : BitVec 1) (t : BitVec 2) (s : State) :
    Host.Outcome State Fault Refusal :=
  let x := fmtOf t.toNat
  s.computeFp (.fcvti d a b e f t) ((fmtR1 d a b e f).fp (some x) none) fun c =>
    intResult ((x.of c.a).toInt c.t.rm (-(2 ^ 63)) (2 ^ 63 - 1))

/-- FCVTI.u (R160, R373). -/
def execFcvtiU (d a b : BitVec 6) (e f : BitVec 1) (t : BitVec 2) (s : State) :
    Host.Outcome State Fault Refusal :=
  let x := fmtOf t.toNat
  s.computeFp (.fcvtiU d a b e f t) ((fmtR1 d a b e f).fp (some x) none) fun c => intResult ((x.of c.a).toInt c.t.rm 0 (2 ^ 64 - 1))

/-- ICVTF (R394, R395). -/
def execIcvtf (d a b : BitVec 6) (e f : BitVec 1) (t : BitVec 2) (s : State) :
    Host.Outcome State Fault Refusal :=
  let x := fmtOf t.toNat
  s.computeFp (.icvtf d a b e f t) ((fmtR1 d a b e f).fp none (some x)) fun c => x.ofInt c.t.rm c.a.toInt

/-- ICVTF.u (R394, R395). -/
def execIcvtfU (d a b : BitVec 6) (e f : BitVec 1) (t : BitVec 2) (s : State) :
    Host.Outcome State Fault Refusal :=
  let x := fmtOf t.toNat
  s.computeFp (.icvtfU d a b e f t) ((fmtR1 d a b e f).fp none (some x)) fun c => x.ofInt c.t.rm c.a.toNat

end Sys2Proof.Machine
end

