-- ==== Sys2Proof/Machine/Arbiter.lean ====
section
/-! DEFINITION. Issue selection on a core (R50, R51), slot arbitration (R136), and the passage of cycles. -/

namespace Sys2Proof.Machine

/-- The firmware is about to end the thread: its record of kind 2 is on its way (R251). -/
def State.doomed (s : State) (uid : Nat) : Bool := s.records.any fun r => r.uid == uid && r.kind == 2

/-- An armed curfew is the first on each of its cores: its T counts (R262). -/
def State.curfewFirst (s : State) (x : Curfew) : Bool :=
  s.curfews.all fun y => decide (x.id ≤ y.id) || !(x.cores.any fun c => y.cores.contains c)

/-- T of a curfew has come on the core, by its own timestamp, and the curfew stops the thread (R264). -/
def State.curfewDue (s : State) (t : Thread) : Bool :=
  s.curfews.any fun x => x.phase == .armed && x.cores.contains t.core && s.curfewFirst x && decide (x.t ≤ (s.time t.core).toNat) &&
    (!s.isStandby t || (x.stby && t.level != .curator))

/-- A context is eligible (R50, R137): ready, its spacing and that of its slot over, not yielding; nothing suppresses its class (R308), and its core
issues: no curfew has stopped it, and none is due (R264). -/
def State.eligible (s : State) (t : Thread) : Bool :=
  t.status == .ready && (match t.lastIssue with | some l => decide (l + 8 ≤ s.now) | none => true) &&
  (match lookup? (s.core t.core).slotIssue t.slot with | some l => decide (l + 8 ≤ s.now) | none => true) &&
  (match t.yield with | some y => y.others.isEmpty | none => true) && !s.doomed t.uid && !s.front.tripped &&
  !s.frozen t && !s.barred t && !s.curfewDue t &&
  (match s.classOf t with
   | .noon => true
   | .day => !s.front.suppressDay
   | .dusk => !s.front.suppressDusk)

/-- The member with the lowest slot above that of the last (`last` is its slot + 1), or the member with the lowest slot. -/
def nextRr (set : List Thread) (last : Nat) : Option Thread :=
  match sortBy (fun t => t.slot) (set.filter fun t => decide (last ≤ t.slot)) with
  | t :: _ => some t
  | [] => (sortBy (fun t => t.slot) set).head?

/-- The owner of the present rotation slot (R51). -/
def State.owner (s : State) (c : Nat) : Option Nat := ((s.core c).owner[s.now % 64]?).getD none

/-- The thread that the core chooses for issue in the present cycle (R51), and whether it is served as another tenant's. -/
def State.choose (s : State) (c : Nat) : Option (Thread × Bool) :=
  let co := s.core c
  if co.issued.isSome then none
  else
    let el := s.threads.filter fun t => t.core == c && !t.banked && s.eligible t
    let noon := el.filter fun t => s.classOf t == .noon
    let day := el.filter fun t => s.classOf t == .day
    let dusk := el.filter fun t => s.classOf t == .dusk
    let last (n : Nat) : Nat := lookupD co.lastOf n 0
    match nextRr noon co.lastNoon with
    | some t => some (t, false)
    | none =>
      match (s.owner c).bind fun o => nextRr (day.filter fun t => t.tenant == o) (last o) with
      | some t => some (t, false)
      | none =>
        let ts := sortBy id (day.map (·.tenant)).eraseDups
        match (ts.find? fun n => decide (co.lastOther ≤ n)).or ts.head? with
        | some n => (nextRr (day.filter fun t => t.tenant == n) (last n)).map fun t => (t, true)
        | none => (nextRr dusk co.lastDusk).map fun t => (t, false)

/-- The round-robin places of the core after thread `t` has issued, treated as class `cls` (R51). The last issue of a tenant is that of its
day contexts (log entry 66). -/
def State.served (s : State) (cls : Cls) (t : Thread) (other : Bool) : State :=
  s.modCore t.core fun c =>
    match cls with
    | .noon => { c with lastNoon := t.slot + 1 }
    | .dusk => { c with lastDusk := t.slot + 1 }
    | .day => { c with lastOf := insert c.lastOf t.tenant (t.slot + 1), lastOther := if other then t.tenant + 1 else c.lastOther }

/-- One pass of the shares of R136 over the tenants: every tenant with `d ≥ w` takes a slot. -/
def takeShares (w : Int) : List (Nat × Int) → Nat → List Nat → List (Nat × Int) × List Nat
  | [], _, got => ([], got)
  | (t, d) :: rest, room, got =>
    if got.length < room ∧ w ≤ d then
      let r := takeShares w rest room (got ++ [t])
      ((t, d - w) :: r.1, r.2)
    else
      let r := takeShares w rest room got
      ((t, d) :: r.1, r.2)

/-- The slots of R136 while some tenant has `d ≥ w`. -/
def shareSlots (w : Int) : (fuel : Nat) → List (Nat × Int) → List Nat → List (Nat × Int) × List Nat
  | 0, ds, got => (ds, got)
  | fuel + 1, ds, got =>
    if got.length < 64 ∧ ds.any (fun e => decide (w ≤ e.2)) = true then
      let r := takeShares w ds 64 got
      shareSlots w fuel r.1 r.2
    else (ds, got)

/-- One pass of the leftovers of R136. -/
def takeLeft (w : Int) : List (Nat × Int) → List Nat → List (Nat × Int) × List Nat
  | [], got => ([], got)
  | (t, d) :: rest, got =>
    if got.length < 64 then
      let r := takeLeft w rest (got ++ [t])
      ((t, Max.max (d - w) (-64 * w)) :: r.1, r.2)
    else
      let r := takeLeft w rest got
      ((t, d) :: r.1, r.2)

/-- The leftovers of R136. -/
def leftSlots (w : Int) : (fuel : Nat) → List (Nat × Int) → List Nat → List (Nat × Int) × List Nat
  | 0, ds, got => (ds, got)
  | fuel + 1, ds, got =>
    if got.length < 64 ∧ ds.isEmpty = false then
      let r := takeLeft w ds got
      leftSlots w fuel r.1 r.2
    else (ds, got)

/-- The tenants with a day context on a core, in tenant ID order. -/
def State.dayTenants (s : State) (c : Nat) : List Nat :=
  sortBy id ((s.threads.filter fun t => t.core == c && !t.banked && s.classOf t == .day).map (·.tenant)).eraseDups

/-- SLOT_REASSIGN: the owner fields of a core at a rotation boundary, by deficit round robin (R136). -/
def State.reassign (s : State) (c : Nat) : State :=
  let ts := s.dayTenants c
  let w : Int := ((ts.map fun t => (s.tenant t).weight).foldl (· + ·) 0 : Nat)
  let ds := ts.map fun t => (t, Min.min (lookupD (s.core c).deficit t 0 + 64 * (s.tenant t).weight) (64 * w))
  let (ds, got) := shareSlots w 64 ds []
  let (ds, got) := leftSlots w 64 ds got
  s.modCore c fun co =>
    { co with owner := if ts.isEmpty then List.replicate 64 none else got.map some, deficit := ds, rotation := s.now / 64 }

/-- The cores that a thread or an entry of `cores` names. -/
def State.activeCores (s : State) : List Nat :=
  sortBy id (s.threads.map (·.core) ++ s.cores.map (·.1)).eraseDups

/-- The cycles of one core pass: its counters of events 0x01 and 0x03 count (R319), and the next cycle has no issue yet. -/
def State.passCore (s : State) (c n : Nat) : State :=
  let idle := n - bitNat (s.core c).issued.isSome
  let s := (s.count c 1 none n)
  let s := if idle = 0 then s else s.count c 3 none idle
  s.modCore c fun co => { co with issued := none }

/-- The rotation boundaries between two cycles, on every active core (R136). -/
def State.passRotations (s : State) (before : Nat) : State :=
  s.activeCores.foldl (fun s c => iterate (s.now / 64 - before / 64) 0 (fun _ s => s.reassign c) s) s

/-- `n` cycles pass. -/
def State.pass (s : State) (n : Nat) : State :=
  if n = 0 then s
  else
    let before := s.now
    let s := (s.cores.map (·.1)).foldl (fun s c => s.passCore c n) s
    { s with now := s.now + n }.passRotations before

end Sys2Proof.Machine
end

