-- ==== Sys2Proof/Machine/Place.lean ====
section
/-! DEFINITION. Placing and ending threads (R49, R120-R129, R142-R146, R193, R260, R283, R427): pool contexts, deques and their
overflow areas, revocation, gangs, and what QUIT leaves. -/

namespace Sys2Proof.Machine

/-- A thread as placement leaves it (R49, R248): every register zero and full but g0-g3; no stream, no REP, an empty latch. -/
def Thread.fresh (uid tid tenant : Nat) (level : Level) (cls : Cls) (pc : Word) (g : List Word) : Thread :=
  { uid := uid, tid := tid, tenant := tenant, level := level, cls := cls, status := .ready, recorded := .ready, away := .ready,
    await := .nothing, banked := false, revokedAt := 0, placedAt := uid, stopPending := false, stepping := false, stepIssued := false,
    pc := handlerPc pc,
    regs := Vector.ofFn fun n : Fin 48 => { val := g.getD n.val 0, full := true, due := false, ecc := .ok },
    rep := none, latch := none, replay := false, plvl := .user, inh := false, trep := 0, fltcause := 0, fltval := 0,
    fltpc := 0, fltinst := 0, tscr0 := 0, tscr1 := 0, rscr0 := 0, rscr1 := 0, deleg := 0, utrapvec := 0, fprm := 0,
    fpflags := 0, srseed := 0, waitlim := 0, pwarn := 0, cpysrc := 0, cpydst := 0, cpylen := 0, cpystr := 0,
    cpyrows := 0, cpyflg := 0, future := none, task := 0, seeder := 0, start := 0, spawns := 0, placement := 0, drain := none,
    handler := none, streams := Vector.replicate 8 none, vred := none, xa := Vector.replicate 8 none, down := none,
    up := none, ring := 0, ringPa := [], ringVa := 0, blockedAt := none, deferred := [], hit := none, lastIssue := none, yield := none, phase := 0, waits := [],
    parked := 0, parkedShown := 0, parkedRsvd := false, proving := true, walked := [], dropped := 0, roundOuts := 0, ecc := .ok, dueTrap := none, sendRecord := false }

/-- Places a thread in a slot: it takes a serial number, and the context its next placement number (R193). -/
def State.placeThread (s : State) (c slot tenant : Nat) (level : Level) (cls : Cls) (pc : Word) (g : List Word)
    (f : Thread → Thread) : State :=
  let n := lookupD (s.core c).placements slot 0 + 1
  let t := { Thread.fresh s.nextUid (c * 512 + slot) tenant level cls pc g with placement := n, start := s.now }
  { s with threads := s.threads ++ [f t], nextUid := s.nextUid + 1 }.modCore c fun co =>
    { co with placements := insert co.placements slot n }

/-! ### Accounts (R129) -/

def Core.accountOf (c : Core) (tenant : Nat) : Account := lookupD c.account tenant Account.zero

def State.modAccount (s : State) (c tenant : Nat) (f : Account → Account) : State :=
  s.modCore c fun co => { co with account := insert co.account tenant (f (co.accountOf tenant)) }

/-- SEARCH at cycle `now`: it advances while a request is outstanding (R129). -/
def Account.searchAt (a : Account) (now : Nat) : BitVec 48 :=
  if a.asking.isSome then a.search + BitVec.ofNat 48 (now - (a.askedAt - 64)) else a.search

/-- The start stamp of a task: QWAIT counts, and a trace record of kind 4 is written (R129, R318). -/
def State.startTask (s : State) (t : Thread) (stamp : Word) : State :=
  (s.modAccount t.core t.tenant fun a => { a with qwait := a.qwait + (s.time t.core - stamp).setWidth 48 }).trace t.core 4 (some t) t.pc t.task

/-- A seeded task has completed: the LAUNCH that it counts for has one task fewer to wait for (R283). Where CMASK lets several consumers
execute one record, each has seeded tasks of its own (R284). -/
def State.seedDone (s : State) (task : Word) (seeder : Nat) : State :=
  if fieldOf task 60 4 ≠ 8 then s
  else
    let q := fieldOf task 48 12
    let seq := fieldOf task 32 16
    match s.queue? q with
    | none => s
    | some x =>
      match (seeder :: List.range 4).find? fun i => (x.consumer i).tasks.any fun e => e.1 == seq && decide (0 < e.2) with
      | none => s
      | some i =>
        let c := x.consumer i
        s.setQueue q (x.setConsumer i { c with tasks := (c.tasks.map fun e => if e.1 = seq then (e.1, e.2 - 1) else e).filter fun e => decide (0 < e.2) })

/-- The completion stamp of a thread's task: RUN counts, and a trace record of kind 5 is written (R129, R318). -/
def State.completeTask (s : State) (t : Thread) : State :=
  ((s.modAccount t.core t.tenant fun a => { a with run := a.run + BitVec.ofNat 48 (s.now - t.start) }).trace
    t.core 5 (some t) t.pc t.task).seedDone t.task t.seeder

/-! ### Pool contexts (R120, R139) -/

/-- Dusk contexts that are resident on a core (R139). -/
def State.residentDusk (s : State) (c : Nat) : List Thread :=
  s.threads.filter fun t => t.core == c && !t.banked && s.classOf t == .dusk && t.status != .saving

/-- The reserve-bank entries in use. -/
def State.bankUsed (s : State) (c : Nat) : Nat := (s.threads.filter fun t => t.core == c && (t.banked || t.status == .saving)).length

/-- One dusk context more keeps the admission rule (R139). -/
def State.duskRoom (s : State) (c : Nat) : Bool :=
  decide ((s.residentDusk c).length + 1 + s.bankUsed c ≤ (s.core c).bankSize) && (s.core c).revoking.isNone

/-- The noon contexts of a tenant in the core's pool. -/
def State.noonCount (s : State) (c tenant : Nat) : Nat :=
  (s.threads.filter fun t => t.core == c && !t.banked && t.tenant == tenant && t.cls == .noon && !s.isStandby t).length

/-- The core is out of service for new work: stopped or switched out (R266, R283). -/
def State.away (s : State) (c : Nat) : Bool := (s.core c).stopped || (s.core c).switched.isSome

/-- A curfew has stopped the engines that a thread launched on a core: the thread is stopped, or it has ended (R264). What a standby
thread launched that keeps issuing goes on. -/
def State.engineStopped (s : State) (c uid : Nat) : Bool :=
  (s.core c).stopped && ((s.thread? uid).map fun t => s.frozen t) != some false

/-- The free pool contexts of a core: no thread in them, and not reserved by MXHND (R222). -/
def State.freePool (s : State) (c : Nat) : List Nat :=
  let co := s.core c
  below (co.slots - 4) fun n => (s.occupant? (c * 512 + n)).isNone && !((co.reserve.map (·.slots)).getD []).contains n

/-- A pool context may take a thread of this tenant and class (R120, R139, R484). -/
def State.mayHold (s : State) (c slot tenant : Nat) (cls : Cls) : Bool :=
  let co := s.core c
  (s.tenant tenant).hasCore c && !s.away c &&
  (match lookup? co.held slot with
   | none => true
   | some q => cls == .noon && ((s.queue? q).map (·.tenant)) == some tenant) &&
  (match cls with
   | .noon => decide (s.noonCount c tenant < (s.tenant tenant).noonLimit)
   | .day => true
   | .dusk => s.duskRoom c)

/-- The free pool contexts that may hold the record. -/
def State.slotsFor (s : State) (c tenant : Nat) (cls : Cls) : List Nat :=
  (s.freePool c).filter fun n => s.mayHold c n tenant cls

/-- A record of the tenant has reached the core: the wait after a failed round ends, and the next round is a first one (R127). -/
def State.endBackoff (s : State) (c tenant : Nat) : State :=
  match lookup? (s.core c).account tenant with
  | none => s
  | some a => s.modCore c fun co => { co with account := insert co.account tenant { a with backoff := 0, tried := [], first := true } }

/-- Places a record in a pool context (R49, R124); which of the free contexts is not fixed (R5). -/
def State.placeRecord (s : State) (c : Nat) (r : TaskRec) : State :=
  let ns := s.slotsFor c r.tenant r.cls
  let (k, s) := s.pick (Nat.max 1 ns.length)
  match ns[k]? with
  | none => s
  | some slot =>
    let s' := (s.endBackoff c r.tenant).placeThread c slot r.tenant r.level r.cls r.pc [r.g0, r.g1, r.g2, r.g3] fun t =>
      { t with future := if r.future then some r.g3 else none, task := r.id, seeder := r.seeder }
    match s'.thread? s.nextUid with
    | some t => s'.startTask t r.stamp
    | none => s'

/-! ### Deques (R123-R126, R260) -/

/-- The words of a task record (R118). -/
def TaskRec.words (r : TaskRec) : List Word :=
  [r.pc, r.g0, r.g1, r.g2, r.g3, r.id, r.stamp,
    w64 (r.tenant + r.cls.num * 2 ^ 8 + bitNat r.future * 2 ^ 10 + r.level.num * 2 ^ 11)]

/-- The task record that words hold (R118); `ecc`: what the reads of them find. -/
def TaskRec.ofWords (ws : List Word) (ecc : Ecc) : TaskRec :=
  let w := ws.getD 7 0
  { pc := ws.getD 0 0, g0 := ws.getD 1 0, g1 := ws.getD 2 0, g2 := ws.getD 3 0, g3 := ws.getD 4 0, id := ws.getD 5 0, stamp := ws.getD 6 0,
    tenant := fieldOf w 0 8, cls := (Cls.ofNum (fieldOf w 8 2)).getD .day, future := w.toNat.testBit 10,
    level := Level.ofNum (fieldOf w 11 2), ecc := ecc, seeder := 0 }

/-! The deque overflow area of a tenant: 2048 records in DRAM at OVFA, used as a ring (R126; log entry 67). -/

/-- Where the `i`-th record of the area, counted from the oldest, lies; none when OVFA does not map there. -/
def State.ovfPa (s : State) (tenant i : Nat) : Option Nat :=
  let t := s.tenant tenant
  match s.resolve { tenant := tenant, curator := false, core := none, ignoreH := false }
      (t.overflowBase + 64 * ((t.ovfFirst + i) % Config.overflowRecords)) 64 .both with
  | .ok pa => if regionOf pa = .dram then some pa else none
  | _ => none

/-- The word addresses of a record. -/
def recordAt (pa : Nat) : List Nat := (List.range 8).map fun k => pa + 8 * k

/-- The area has room for one record more, and its words are free for a write. -/
def State.ovfRoom (s : State) (tenant : Nat) : Bool :=
  decide ((s.tenant tenant).ovfCount < Config.overflowRecords) &&
    ((s.ovfPa tenant (s.tenant tenant).ovfCount).map fun pa => s.mayWrite (recordAt pa)) == some true

/-- Puts a record behind the newest of its tenant's area; none when it has no room. -/
def State.ovfPush (s : State) (r : TaskRec) : Option State :=
  if !s.ovfRoom r.tenant then none
  else (s.ovfPa r.tenant (s.tenant r.tenant).ovfCount).map fun pa =>
    let s := ((recordAt pa).zip r.words).foldl (fun s e => s.engineWrite e.1 e.2 (.unit r.tenant) false (none, none)) s
    s.modTenant r.tenant fun t => { t with ovfCount := t.ovfCount + 1, ovfSeeders := t.ovfSeeders ++ [r.seeder] }

/-- The record at `pa`; a word from which no data can be returned is an uncorrectable error of the record (R85, R260). -/
def State.recordOf (s : State) (pa : Nat) : TaskRec :=
  TaskRec.ofWords ((recordAt pa).map fun a => if s.unreadable a then 0 else s.word a)
    (if (recordAt pa).any fun a => s.unreadable a then .double else .ok)

/-- What can be read of a lost record at `pa`, of which word `i` may be unreadable: none for a word that is not (R257, R260). -/
def State.lostWords (s : State) (pa : Nat) : List (Option Word) := (recordAt pa).map fun a => if s.unreadable a then none else some (s.word a)

/-- The future word of a lost record or thread is poisoned when its address can be read: the detail of the record (R257). -/
def State.poisonFuture (s : State) (tenant : Nat) (core : Option Nat) (va : Option Word) : State × Nat :=
  match va with
  | none => (s, 0)
  | some a =>
    match s.resolve { tenant := tenant, curator := false, core := core, ignoreH := false } a.toNat 8 .write with
    | .ok pa => if a.toNat % 8 = 0 ∧ tagged pa = true then (s.poisonOne pa, 1) else (s, 2)
    | _ => (s, 2)

/-- An uncorrectable record is discarded and reported (R260): `ws` is what can be read of its words. The future word is poisoned when its
address can be read; a future flag or an address that cannot leaves it (R257: bit 33). Word 1 of the record is the enqueue stamp, all
ones when that is unreadable. -/
def State.loseWords (s : State) (c tenant : Nat) (ws : List (Option Word)) : State :=
  let w (i : Nat) : Option Word := (ws[i]?).getD none
  let (s, d) := match w 7, w 4 with
    | none, _ => (s, 2)
    | some x, a => if x.toNat.testBit 10 then (match a with | some a => s.poisonFuture tenant (some c) (some a) | none => (s, 2)) else (s, 0)
  s.sendLost tenant (((w 5).map fun x => fieldOf x 0 20).getD 0xFFFFF) 0x30 ((w 6).getD (BitVec.allOnes 64)) d

/-- An uncorrectable record of a deque, whose words the deque unit still has. -/
def State.loseRecord (s : State) (c : Nat) (r : TaskRec) : State := s.loseWords c r.tenant (r.words.map some)

/-- The deque unit discards the uncorrectable records that it finds, and corrects the others (R260, R301). -/
def State.checkDeque (s : State) (c tenant : Nat) : State :=
  let l := (s.core c).deque
  let bad := l.filter fun r => r.tenant == tenant && r.ecc == .double
  let ones := (l.filter fun r => r.tenant == tenant && r.ecc == .single).length
  if bad.isEmpty && ones == 0 then s
  else
    let s := s.modCore c fun co =>
      { co with deque := (co.deque.filter fun r => !(r.tenant == tenant && r.ecc == .double)).map fun r : TaskRec =>
          if r.tenant = tenant then { r with ecc := .ok } else r }
    let s := iterate ones 0 (fun _ s => s.countCorrected c) s
    bad.foldl (fun s r => s.loseRecord c r) s

/-- Takes the newest or the oldest record of a tenant's area; uncorrectable ones on the way are discarded and reported (R126, R260). -/
def State.ovfTake (s : State) (c tenant : Nat) (newest : Bool) : (fuel : Nat) → Option TaskRec × State
  | 0 => (none, s)
  | fuel + 1 =>
    let n := (s.tenant tenant).ovfCount
    match (if n = 0 then none else s.ovfPa tenant (if newest then n - 1 else 0)) with
    | none => (none, s)
    | some pa =>
      let s := (recordAt pa).foldl (fun s a => s.checkEcc a) s
      let seeders := (s.tenant tenant).ovfSeeders
      let r : TaskRec := { s.recordOf pa with seeder := ((if newest then seeders.getLast? else seeders.head?).getD 0) }
      let ws := s.lostWords pa
      let s := s.modTenant tenant fun t =>
        { t with ovfCount := n - 1, ovfFirst := if newest then t.ovfFirst else (t.ovfFirst + 1) % Config.overflowRecords,
                 ovfSeeders := if newest then t.ovfSeeders.dropLast else t.ovfSeeders.drop 1 }
      if r.ecc = .double then (s.loseWords c tenant ws).ovfTake c tenant newest fuel else (some r, s)

/-- Removes the newest record of a list that satisfies `p`. -/
def takeNewest (p : TaskRec → Bool) (l : List TaskRec) : Option (TaskRec × List TaskRec) :=
  match l.reverse.findIdx? p with
  | none => none
  | some k =>
    match l.reverse[k]? with
    | some r => some (r, (l.reverse.eraseIdx k).reverse)
    | none => none

/-- Spills up to `n` of the oldest records, each into its own tenant's area when that has room (R126). -/
def State.spill (s : State) (c : Nat) : (n : Nat) → List TaskRec → State
  | 0, _ => s
  | _, [] => s
  | n + 1, r :: rs =>
    match s.ovfPush r with
    | some s => (s.modCore c fun co => { co with deque := co.deque.erase r }).spill c n rs
    | none => s.spill c (n + 1) rs

/-- Pushes a record on the deque of core `c`, or on the tenant's overflow area when the core is away; none when the push
must wait (R126, R283, R439). -/
def State.pushRecord (s : State) (c : Nat) (r : TaskRec) : Option State :=
  if s.away c then s.ovfPush r
  else
    let s := if Config.dequeRecords ≤ (s.core c).deque.length then s.spill c 32 (s.core c).deque else s
    if (s.core c).deque.length < Config.dequeRecords then
      some ((s.modCore c fun co => { co with deque := co.deque ++ [r] }).endBackoff c r.tenant)
    else none

/-- The tenants whose areas a pop of core `c` falls back to: they have the core, records in the area and none in the deque (R126). -/
def State.spilled (s : State) (c : Nat) : List Nat :=
  (s.tenants.filter fun e => decide (0 < e.2.ovfCount) && e.2.hasCore c && !(s.core c).deque.any fun r => r.tenant == e.1).map (·.1)

/-- The record that the core places next in a context of class `cls`: the newest of its deque that a free context can hold, else the
newest of an area whose tenant has none there (R124, R126). -/
def State.nextRecord (s : State) (c : Nat) (cls : Cls) : Option (TaskRec × State) :=
  let fits (r : TaskRec) : Bool := r.cls == cls && !(s.slotsFor c r.tenant cls).isEmpty
  match takeNewest fits (s.core c).deque with
  | some (r, rest) => some (r, s.modCore c fun co => { co with deque := rest })
  | none =>
    (s.spilled c).findSome? fun t =>
      match s.ovfTake c t true (s.tenant t).ovfCount with
      | (some r, s) => if fits r then some (r, s) else none
      | (none, _) => none

/-- The core places the newest records that its free contexts can hold: noon before day, day before dusk (R124). -/
def State.placeRecords (s : State) (c : Nat) : (fuel : Nat) → State
  | 0 => s
  | fuel + 1 =>
    match ((s.nextRecord c .noon).or (s.nextRecord c .day)).or (s.nextRecord c .dusk) with
    | none => s
    | some (r, s) => (s.placeRecord c r).placeRecords c fuel

/-- A pool context has freed, or a record has arrived (R124). -/
def State.fillPool (s : State) (c : Nat) : State :=
  let areas := s.spilled c
  if ((s.core c).deque.isEmpty && areas.isEmpty) || s.away c then s
  else
    let s := (s.core c).deque.foldl (fun s r => s.checkDeque c r.tenant) s
    s.placeRecords c ((s.core c).deque.length + (areas.map fun t => (s.tenant t).ovfCount).foldl (· + ·) 0)

/-! ### Revocation (R142-R145) -/

/-- The dusk contexts of a core that can be chosen, most recently placed first; a stopped one is passed over (R311). -/
def State.choosable (s : State) (c : Nat) (but : Nat) : List Thread :=
  (sortBy (·.placedAt) ((s.residentDusk c).filter fun t => t.uid != but && t.status != .trappedStopped)).reverse

/-- A chosen context stops issuing, and moves to the reserve bank; one that is being restored stops its restore and is revoked at once
(R143). `order` is the place of its revocation. -/
def Thread.choose (t : Thread) (order : Nat) : Thread :=
  if t.status = .restoring then { t with status := .revoked, banked := true, revokedAt := order }
  else { t with status := .saving, recorded := t.stat, yield := none }

/-- Chooses contexts for revocation (R143); one whose restore it stops is revoked, and counted (R319). `ranges`: lent ranges to return. -/
def State.revoke (s : State) (c : Nat) (chosen : List Thread) (ranges : List Lease) : State :=
  if chosen.isEmpty && ranges.isEmpty then s
  else
    let us := chosen.map (·.uid)
    let s := { s with threads := s.threads.map fun t : Thread => if us.contains t.uid then t.choose s.nextId else t, nextId := s.nextId + 1 }
    let s := (chosen.filter fun t => t.status == .restoring).foldl (fun s t => s.count c 4 (some t)) s
    let first := (s.core c).revoking.isNone
    let s := s.modCore c fun co =>
      match co.revoking with
      | none => { co with revoking := some { chosen := us, ranges := ranges } }
      | some r => { co with revoking := some { chosen := r.chosen ++ us, ranges := r.ranges ++ ranges } }
    if first then s.postNow (.revocation c) else s

/-- Revokes `n` dusk contexts of the core. -/
def State.revokeN (s : State) (c n but : Nat) : State := s.revoke c ((s.choosable c but).take n) []

/-- A dusk thread holds a pool context of the core. -/
def State.duskHolds (s : State) (c : Nat) : Bool := !(s.residentDusk c).isEmpty

/-- The free pool contexts of a core that are not held for a queue handler of another kind (R484). -/
def State.openPool (s : State) (c tenant : Nat) (cls : Cls) : List Nat :=
  (s.freePool c).filter fun n => match lookup? (s.core c).held n with
    | none => true
    | some q => cls == .noon && ((s.queue? q).map (·.tenant)) == some tenant

/-- A record has been pushed on core `c`: a noon or day record that finds none of the free pool contexts `free` revokes a dusk context (R120,
R142, R360), and the core places what it can (R124). -/
def State.pushed (s : State) (c : Nat) (r : TaskRec) (uid : Nat) (free : List Nat) : State :=
  let s := if r.cls != .dusk && free.isEmpty && s.duskHolds c && !s.away c then s.revokeN c 1 uid else s
  s.fillPool c

/-! ### Gangs (R130-R132, R389) -/

def Gang.removeArrived (g : Gang) (uid : Nat) : Gang := { g with arrived := g.arrived.filter fun x => !(x == uid) }

/-- A parked thread's instruction completes; it is ready, or returns ready (R48, R389). For one that is switched out the release is written
into its saved state, by `State.tellGangs`. -/
def State.release (s : State) (uid : Nat) : State :=
  match s.thread? uid with
  | none => { s with gangNews := s.gangNews ++ [(uid, none)] }
  | some t => if t.stat = .parkedMemory then s.retire uid t.parked t.parkedRsvd false 0 else s

/-- A parked member takes *gang broken* (R132), a switched-out one on its return. -/
def State.breakMember (s : State) (uid : Nat) (id : Word) : State :=
  match s.thread? uid with
  | none => { s with gangNews := s.gangNews ++ [(uid, some id)] }
  | some t => if t.stat = .parkedMemory then (s.setThread t.wake).takeTrap uid 0x23 id t.parked t.parkedShown else s

/-- The ID of a gang (R130). -/
def gangId (idx : Nat) (check : BitVec 12) : Word := w64 (idx + check.toNat * 4096)

/-- Frees a gang's index; its parked members take *gang broken* (R132). -/
def State.endGang (s : State) (tenant idx : Nat) (g : Gang) : State :=
  let s := s.modTenant tenant fun t => { t with gangs := erase t.gangs idx, checks := insert t.checks idx g.check }
  g.arrived.foldl (fun s u => s.breakMember u (gangId idx g.check)) s

/-- What the check of a gang's counters finds (R261, R301): a single error is corrected and counted, for core `c`; an uncorrectable one
breaks the gang, and its parked members take *gang broken*. -/
def State.checkCounters (s : State) (tenant c idx : Nat) (g : Gang) : State × Gang :=
  match g.ecc with
  | .ok => (s, g)
  | .single =>
    let g := { g with ecc := .ok }
    ((s.modTenant tenant fun t => { t with gangs := insert t.gangs idx g }).countCorrected c, g)
  | .double =>
    let b := { g with ecc := .ok, broken := true, arrived := [] }
    let s := s.modTenant tenant fun t => { t with gangs := insert t.gangs idx b }
    (g.arrived.foldl (fun s u => s.breakMember u (gangId idx g.check)) s, b)

/-- After a change of a gang's counts: the generation completes when a = n and a > 0; a gang without members is freed. -/
def State.checkGang (s : State) (tenant idx : Nat) : State :=
  match lookup? (s.tenant tenant).gangs idx with
  | none => s
  | some g =>
    if g.broken then s
    else if g.n = 0 then s.endGang tenant idx g
    else if g.arrived.length = g.n then
      let s := s.modTenant tenant fun t => { t with gangs := insert t.gangs idx { g with arrived := [], gen := g.gen + 1 } }
      g.arrived.foldl (fun s u => s.release u) s
    else s

/-- GLEAVE of a member (R132); a broken gang has no counts left (R261). -/
def State.leaveGang (s : State) (tenant idx uid : Nat) : State :=
  match lookup? (s.tenant tenant).gangs idx with
  | none => s
  | some g =>
    let (s, g) := s.checkCounters tenant (((s.thread? uid).map (·.core)).getD 0) idx g
    if g.broken then s
    else if g.members.contains uid then
      let g' := { (g.removeArrived uid) with n := g.n - 1, members := g.members.filter fun x => !(x == uid) }
      (s.modTenant tenant fun t => { t with gangs := insert t.gangs idx g' }).checkGang tenant idx
    else s

/-- A thread leaves every gang that holds it (R122, R389). -/
def State.leaveGangs (s : State) (tenant uid : Nat) : State :=
  (((s.tenant tenant).gangs.filter fun e => e.2.members.contains uid).map (·.1)).foldl (fun s i => s.leaveGang tenant i uid) s

/-! ### Exact accumulators (R167) -/

/-- Releases the physical accumulators of a thread. -/
def Core.releaseExact (c : Core) (uid : Nat) : Core :=
  { c with xacc := Vector.ofFn fun i => if c.xacc[i].owner = some uid then ExactAcc.empty else c.xacc[i],
           xqueue := c.xqueue.filter fun e => !(e.1 == uid) }

/-! ### Ending a thread (R427) -/

/-- Ends a drain handler: its row is released and its context returns to the reserved set (R223, R422). -/
def State.endDrain (s : State) (t : Thread) (d : DrainOf) : State :=
  let w := rowOf t.core
  let r := s.row w
  s.setRow w { r with run := r.run.map fun run =>
    { run with members := run.members.map fun m => if m.core = t.core then { m with drained := m.drained.filter fun x => !(x == d.m) } else m } }

/-- A reserved context beyond the reserved count returns to the pool when its handler quits (R222). -/
def Core.trimReserve (c : Core) (slot : Nat) : Core :=
  match c.reserve with
  | none => c
  | some r =>
    if r.slots.contains slot ∧ r.count < r.slots.length then
      { c with reserve := some { r with slots := r.slots.filter fun x => !(x == slot) } }
    else c

/-- Ends a thread: completion stamp, gangs, accumulators, mailbox, streams and links, and its context frees (R427). What it
launched runs on. A queue handler's held contexts are released (R484), and a dispatch that waits for the standby context
follows (R289). -/
def State.endThread (s : State) (uid : Nat) : State :=
  match s.thread? uid with
  | none => s
  | some t =>
    let s := ((s.completeTask t).leaveGangs t.tenant uid).modCore t.core fun c =>
      { (c.releaseExact uid) with mail := c.mail.filter fun m => !(m.bound == some uid) }
    let s := { s with channels := s.channels.filter fun c => !(c.dst == uid) }
    let s := match t.drain with | some d => s.endDrain t d | none => s
    let s := (s.dropThread uid).modCore t.core fun c => c.trimReserve t.slot
    let s := { s with accesses := s.accesses.filter fun a => !(a.uid == uid), results := s.results.filter fun r => !(r.uid == uid) }
    let s := match t.handler with
      | none => s
      | some q => s.modCore t.core fun c => { c with held := c.held.filter fun e => !(e.2 == q) }
    let s := (s.queues.filter fun e => e.2.due).foldl (fun s e => if s.posted (.queueHandlerDispatch e.1) then s else s.postNow (.queueHandlerDispatch e.1)) s
    s.fillPool t.core

/-- An uncorrectable error in a context (R259): the thread ends as QUIT would, without a write to its future word, which is
poisoned when it can be read; a record of kind 1 tells its tenant. -/
def State.loseThread (s : State) (t : Thread) : State :=
  let (s, d) := s.poisonFuture t.tenant (some t.core) t.future
  (s.sendLost t.tenant t.tid 0x31 (BitVec.allOnes 64) d).endThread t.uid

/-- The same of a context in a save area, whose future address may not be readable: then the record says so (R257, bit 33). -/
def State.loseSaved (s : State) (t : Thread) (known : Bool) : State :=
  if known then s.loseThread t else (s.sendLost t.tenant t.tid 0x31 (BitVec.allOnes 64) 2).endThread t.uid

/-! ### An instruction that a unit completes -/

/-- The instruction has issued, and its thread waits for a unit to complete it. -/
def Ctx.await (c : Ctx) (s : State) (a : Await) : State :=
  s.modThread c.uid fun t =>
    { t.block a with parked := c.raw, parkedShown := c.shown, parkedRsvd := c.rsvd }

/-- The unit completes the instruction of a thread that waits for it. -/
def State.completeWait (s : State) (uid : Nat) : State :=
  match s.thread? uid with
  | none => s
  | some t => s.retire uid t.parked t.parkedRsvd false 0

/-- The write of a system register that other units hold: it is performed, and its MTSR completes (R331). -/
def State.sysWrite (s : State) (uid : Nat) (f : Thread → State → State) : State :=
  match s.thread? uid with
  | none => s
  | some t => if t.await = .sysWrite then (f t s).completeWait uid else s

end Sys2Proof.Machine
end

