-- ==== Sys2Proof/Machine/Exact.lean ====
section
/-! DEFINITION. Exact accumulators: the EXACT group and the binding of names (majors 0x24 and 0x25; R166-R169, R467-R469). -/

namespace Sys2Proof.Machine

/-! ### The accumulator (R166, R168, R169) -/

/-- The status flags of an accumulator: PINF, NINF, NAN, OVF (R166). -/
def xPinf : BitVec 4 := 1
def xNinf : BitVec 4 := 2
def xNan : BitVec 4 := 4
def xOvf : BitVec 4 := 8

def ExactAcc.mark (x : ExactAcc) (f : BitVec 4) : ExactAcc := { x with flags := x.flags ||| f }

/-- The multiple of 2^-2148 that a finite FP64 number or product is. -/
def exactUnits (neg : Bool) (m : Nat) (e : Int) : Int :=
  let n : Int := ((m <<< (e + 2148).toNat : Nat) : Int)
  if neg then -n else n

/-- Adds an integer multiple of 2^-2148, modulo 2^4288 (R166, R168). -/
def ExactAcc.addUnits (x : ExactAcc) (p : Int) : ExactAcc :=
  let sum := x.v.toInt + p
  let out := decide (sum < -(2 ^ 4287)) || decide ((2 : Int) ^ 4287 ≤ sum)
  { x with v := BitVec.ofInt 4288 sum, flags := if out then x.flags ||| xOvf else x.flags }

/-- add_exact of R168; none stands for an invalid product. -/
def ExactAcc.addExact (x : ExactAcc) : Option FpVal → ExactAcc
  | none => x.mark xNan
  | some (.nan _) => x.mark xNan
  | some (.inf neg) => x.mark (if neg then xNinf else xPinf)
  | some (.fin neg m e) => x.addUnits (exactUnits neg m e)

/-- The product that XFMA adds: none for a NaN and for 0 × ∞ (R168). -/
def exactProduct (a b : FpVal) : Option FpVal := if a.isNan || b.isNan then none else mulExact a b

/-- The NV of a contribution: a signalling NaN, or 0 × ∞ (R469). -/
def exactFlags (xs : List FpVal) (p : Option FpVal) : Flags :=
  flIf (xs.any FpVal.isSnan || (p.isNone && !xs.any FpVal.isNan)) flNV

/-- NAN, both infinities, or OVF (R169). -/
def ExactAcc.invalid (x : ExactAcc) : Bool :=
  x.flags &&& xNan != 0 || x.flags &&& xOvf != 0 || x.flags &&& 3 == 3

/-- XRND (R169). -/
def ExactAcc.roundTo (x : ExactAcc) (rm : Rm) : Nat × Flags :=
  if x.invalid then fp64.invalid
  else if x.flags &&& 3 != 0 then (fp64.inf (x.flags &&& xNinf != 0), 0)
  else if x.v = 0 then (0, 0)
  else fp64.round rm false (decide (x.v.toInt < 0)) x.v.toInt.natAbs (-2148)

/-- XSGN (R169). -/
def ExactAcc.signWord (x : ExactAcc) : Word × Flags :=
  if x.invalid then (2, flNV)
  else if x.flags &&& 3 != 0 then (if x.flags &&& xNinf != 0 then BitVec.allOnes 64 else 1, 0)
  else if x.v = 0 then (0, 0)
  else (if x.v.toInt < 0 then BitVec.allOnes 64 else 1, 0)

/-- Chunk `i`: the value's words, and the status word (R166). -/
def ExactAcc.chunk (x : ExactAcc) (i : Nat) : Word :=
  if i < 67 then w64 (x.v.toNat / 2 ^ (64 * i) % 2 ^ 64) else if i = 67 then w64 x.flags.toNat else 0

/-- XWRW's write of chunk `i` (R168). -/
def ExactAcc.setChunk (x : ExactAcc) (i : Nat) (w : Word) : ExactAcc :=
  if i < 67 then { x with v := BitVec.ofNat 4288 (setBits x.v.toNat (64 * i) 64 w.toNat) }
  else if i = 67 then { x with flags := w.setWidth 4 }
  else x

/-! ### The EXACT group (R468, R469) -/

/-- The accumulator that a name of a thread is bound to. -/
def Thread.exact? (t : Thread) (n : Nat) : Option Nat := (t.xa[n]?).getD none

def Core.exact (c : Core) (j : Nat) : ExactAcc := (c.xacc[j]?).getD ExactAcc.empty

/-- Changes the accumulator that a name of the thread is bound to. -/
def Ctx.modExact (c : Ctx) (s : State) (n : Nat) (f : ExactAcc → ExactAcc) : State :=
  match c.t.exact? n with
  | none => s
  | some j => s.modCore c.t.core fun co => { co with xacc := co.xacc.setIfInBounds j (f (co.exact j)) }

/-- The accumulator that a name of the thread is bound to, as it stands. -/
def Ctx.exact (c : Ctx) (s : State) (n : Nat) : ExactAcc :=
  match c.t.exact? n with
  | none => ExactAcc.empty
  | some j => (s.core c.t.core).exact j

/-- An EXACT instruction: *illegal instruction* when its name is unbound (R468). -/
def exactForm (f : Form) (n : BitVec 3) (t : Thread) : Form := { f with illegal := (t.exact? n.toNat).isNone }

/-- An EXACT instruction that changes the accumulator, and its flags. -/
def State.exactUpdate (s : State) (i : Instr) (f : Form) (n : BitVec 3) (g : Ctx → ExactAcc → ExactAcc) (fl : Ctx → Flags) :
    Host.Outcome State Fault Refusal :=
  s.issue i (fun t _ => exactForm f n t) fun c _ =>
    c.done ((c.modExact c.popped n.toNat (g c)).raiseFlags c.uid (fl c))

/-- An EXACT instruction that reads the accumulator: a long-latency producer (R469). -/
def State.exactRead (s : State) (i : Instr) (f : Form) (n : BitVec 3) (g : Ctx → ExactAcc → Word × Flags) :
    Host.Outcome State Fault Refusal :=
  s.issue i (fun t _ => exactForm f n t) fun c _ =>
    let r := g c (c.exact c.popped n.toNat)
    c.finishLater (c.popped.raiseFlags c.uid r.2) r.1

/-- XCLR (R168). -/
def execXclr (d a b : BitVec 6) (e f : BitVec 1) (n : BitVec 3) (s : State) : Host.Outcome State Fault Refusal :=
  s.exactUpdate (.xclr d a b e f n) { Form.plain with rsvd := nz d || nz a || nz b || nz e || nz f } n
    (fun _ x => { x with v := 0, flags := 0 }) fun _ => 0

/-- XFMA and XFMA.n. -/
def State.exactFma (s : State) (i : Instr) (d a b : BitVec 6) (e f : BitVec 1) (n : BitVec 3) (sub : Bool) :
    Host.Outcome State Fault Refusal :=
  let prod (c : Ctx) : Option FpVal := exactProduct (fp64.of c.a) (fp64.of c.b)
  s.exactUpdate i { Form.plain with a := opA .src a e, b := opB .src b f, rsvd := nz d, width := some 64 } n
    (fun c x => x.addExact ((prod c).map fun p => if sub then p.neg else p))
    fun c => exactFlags [fp64.of c.a, fp64.of c.b] (prod c)

/-- XFMA (R168). -/
def execXfma (d a b : BitVec 6) (e f : BitVec 1) (n : BitVec 3) (s : State) : Host.Outcome State Fault Refusal :=
  s.exactFma (.xfma d a b e f n) d a b e f n false

/-- XFMA.n (R168). -/
def execXfmaN (d a b : BitVec 6) (e f : BitVec 1) (n : BitVec 3) (s : State) : Host.Outcome State Fault Refusal :=
  s.exactFma (.xfmaN d a b e f n) d a b e f n true

/-- XADD (R168). -/
def execXadd (d a b : BitVec 6) (e f : BitVec 1) (n : BitVec 3) (s : State) : Host.Outcome State Fault Refusal :=
  s.exactUpdate (.xadd d a b e f n)
    { Form.plain with a := opA .src a e, rsvd := nz d || nz b || nz f, width := some 64 } n
    (fun c x => x.addExact (some (fp64.of c.a))) fun c => exactFlags [fp64.of c.a] (some (fp64.of c.a))

/-- XRND: RNA is honoured; rounding 6 and 7 are fallback row 7 (R169, R468, R469). -/
def execXrnd (d a b : BitVec 6) (e f : BitVec 1) (n : BitVec 3) (s : State) : Host.Outcome State Fault Refusal :=
  let m := bits b.toNat 0 3
  s.exactRead (.xrnd d a b e f n)
    { Form.plain with d := opD .dst d, rsvd := nz a || decide (8 ≤ b.toNat) || nz e || nz f, row := if 6 ≤ m then 7 else 0,
                      wwidth := some 64 } n
    fun c x => (w64 (x.roundTo (overrideRm c.t m)).1, (x.roundTo (overrideRm c.t m)).2)

/-- XSGN (R169). -/
def execXsgn (d a b : BitVec 6) (e f : BitVec 1) (n : BitVec 3) (s : State) : Host.Outcome State Fault Refusal :=
  s.exactRead (.xsgn d a b e f n) { Form.plain with d := opD .dst d, rsvd := nz a || nz b || nz e || nz f } n
    fun _ x => x.signWord

/-- XRDW (R168). -/
def execXrdw (d a b : BitVec 6) (e f : BitVec 1) (n : BitVec 3) (s : State) : Host.Outcome State Fault Refusal :=
  s.exactRead (.xrdw d a b e f n) { Form.plain with a := opA .src a e, d := opD .dst d, rsvd := nz b || nz f } n
    fun c x => (x.chunk (fieldOf c.a 0 7), 0)

/-- XWRW (R168). -/
def execXwrw (d a b : BitVec 6) (e f : BitVec 1) (n : BitVec 3) (s : State) : Host.Outcome State Fault Refusal :=
  s.exactUpdate (.xwrw d a b e f n) { Form.plain with a := opA .src a e, b := opB .src b f, rsvd := nz d } n
    (fun c x => x.setChunk (fieldOf c.a 0 7) c.b) fun _ => 0

/-! ### XACQ, XREL (R167, R467) -/

/-- A free physical accumulator of the core. -/
def Core.freeExact (c : Core) : Option Nat := lowest 8 fun j => (c.exact j).owner.isNone

/-- Binds name `n` of a thread to physical accumulator `j`, cleared. -/
def State.bindExact (s : State) (uid core n j : Nat) : State :=
  (s.modCore core fun co => { co with xacc := co.xacc.setIfInBounds j { ExactAcc.empty with owner := some uid } }).modThread uid
    fun t => { t with xa := t.xa.setIfInBounds n (some j) }

/-- A blocked XACQ joins the arrival order, once (R167). -/
def Core.queueExact (c : Core) (uid n : Nat) : Core :=
  if c.xqueue.contains (uid, n) then c else { c with xqueue := c.xqueue ++ [(uid, n)] }

/-- XACQ (R167, R467). A freed accumulator is bound to the first waiter by `State.grantExact`; its XACQ then finds it bound. -/
def execXacq (n a b : BitVec 6) (e f : BitVec 1) (s : State) : Host.Outcome State Fault Refusal :=
  s.issue (.xacq n a b e f) (fun _ _ =>
    { Form.plain with illegal := decide (8 ≤ n.toNat), rsvd := nz a || nz b || nz e || nz f }) fun c s =>
    if (c.t.exact? n.toNat).isSome then
      c.done (c.modExact c.popped n.toNat fun x => { ExactAcc.empty with owner := x.owner })
    else match (s.core c.t.core).freeExact with
    | some j => c.done (c.popped.bindExact c.uid c.t.core n.toNat j)
    | none => c.block (s.modCore c.t.core fun co => co.queueExact c.uid n.toNat) .accumulator

/-- XREL (R167). -/
def execXrel (n a b : BitVec 6) (e f : BitVec 1) (s : State) : Host.Outcome State Fault Refusal :=
  s.issue (.xrel n a b e f) (fun _ _ =>
    { Form.plain with illegal := decide (8 ≤ n.toNat), rsvd := nz a || nz b || nz e || nz f }) fun c _ =>
    match c.t.exact? n.toNat with
    | none => c.done c.popped
    | some j =>
      c.done ((c.popped.modCore c.t.core fun co => { co with xacc := co.xacc.setIfInBounds j ExactAcc.empty }).modThread c.uid
        fun t => { t with xa := t.xa.setIfInBounds n.toNat none })

/-- Binds the free accumulators of a core to the blocked XACQs in arrival order (R167). -/
def State.grantExact (s : State) (c : Nat) : (fuel : Nat) → State
  | 0 => s
  | fuel + 1 =>
    match (s.core c).xqueue, (s.core c).freeExact with
    | (uid, n) :: rest, some j =>
      ((s.modCore c fun co => { co with xqueue := rest }).bindExact uid c n j).grantExact c fuel
    | _, _ => s

end Sys2Proof.Machine
end

