-- ==== Sys2Proof/Machine/LoadStore.lean ====
section
/-! DEFINITION. Loads, stores, atomics and tag instructions: majors 0x10-0x16 (R24, R70-R74, R103-R107, R341-R343, R348, R349,
R407-R411, R441-R445, R449-R451), and the steps that carry their accesses out (R48, R54, R56, R58, R69, R77). -/

namespace Sys2Proof.Machine

/-! ### The address -/

/-- The number that a held translation walk keeps: whether it needs RD, WR, and the bytes of the access. -/
def needCode (rd wr : Bool) (n : Nat) : Nat := bitNat rd + 2 * bitNat wr + 4 * n

/-- What an access that reads, writes or both needs of its page. -/
def needOf (rd wr : Bool) : Need := if wr then (if rd then .both else .write) else .read

/-- The translation of an access of `n` bytes that needs RD, WR or both (R58, R94): the first check that fails decides. -/
def State.reach (s : State) (t : Thread) (va n : Nat) (rd wr : Bool) : Xlat := s.xlate t va n (needOf rd wr)

/-- The translation of the instruction misses: it is latched while the walker resolves the address (R58). -/
def Ctx.miss (c : Ctx) (s : State) (va : Word) (code : Nat) : State :=
  ((s.issued c.uid c.raw).hold c.uid 0x08 va code c.raw c.shown true false false).postNow (.translationWalkEnd c.uid)

/-- The tenant for which a thread acts: its own, or at curator level the one in TSCR0 bits 7:0 (R316, R470). -/
def Thread.actsFor (t : Thread) : Nat := if t.level = .curator then fieldOf t.tscr0 0 8 else t.tenant

/-- The thread as the walker and the translation buffer see it when it acts for another tenant (R316, R466). -/
def Thread.acting (t : Thread) : Thread := { t with tenant := t.actsFor }

/-- WATCH and UNWATCH translate for the tenant for which their thread acts (R316). -/
def actingWord (w : InstWord) : Bool :=
  match decodeWord w with
  | .ok (.watch _ _ _ _ _) | .ok (.unwatch _ _ _ _ _) => true
  | _ => false

/-- The pages of a range as `t` translates it, through the translation buffer (R58, R95): a miss is held while the walker resolves it, `bad` has
the cause and the address of the first page that fails. -/
def Ctx.pagesOf (c : Ctx) (s : State) (t : Thread) (va len : Nat) (need : Need) (bad : BitVec 8 → Nat → State)
    (k : List (Nat × Nat × Nat) → State) : State :=
  match s.threadPages t va len need with
  | .ok ps => k ps
  | .error (.miss a n) => c.miss s (w64 a) (needCode (need != .write) (need == .write || need == .both) n)
  | .error (.bad cause a) => bad cause a

/-- The pages of a range that the instruction hands to an engine. -/
def Ctx.pages (c : Ctx) (s : State) (va len : Nat) (need : Need) (bad : BitVec 8 → Nat → State)
    (k : List (Nat × Nat × Nat) → State) : State := c.pagesOf s c.t va len need bad k

/-- The checks of a data access on its address (R72, R74, R94, R145, R408, R442), then `k` with the physical address. -/
def Ctx.reach (c : Ctx) (s : State) (va : Word) (n : Nat) (rd wr tagged_ : Bool) (k : Nat → State) : State :=
  if windowEnd ≤ va.toNat then c.trap s 0x09 va
  else if va.toNat % n ≠ 0 then c.trap s 0x0A va
  else match s.reach c.t va.toNat n rd wr with
  | .miss => c.miss s va (needCode rd wr n)
  | .bad cause => c.raise s cause va
  | .ok pa =>
    if tagged_ && !tagged pa then c.trap s 0x09 va
    else match s.lostByte c.t pa n with
    | some v => c.trap s 0x14 v
    | none => k pa

/-! ### The access -/

/-- The relaxed accesses of a thread that count toward its limit (R106, R107). -/
def State.relaxedCount (s : State) (uid : Nat) : Nat :=
  ((s.outstanding uid).filter fun a => a.relaxed && !a.streamed).length

/-- The access leaves: its destinations become empty, and it is on its way to its controller. A thread that waits for the
controller's answer waits from here (R53, R56). -/
def Ctx.send (c : Ctx) (s : State) (a : Access) : State :=
  let a := { a with id := s.nextId, uid := c.uid, word := c.raw, shown := c.shown, rsvd := c.rsvd, row := c.row }
  let s := { s with nextId := s.nextId + 1, accesses := s.accesses ++ [a] }.modThread c.uid fun t =>
    a.dsts.foldl (fun t n => t.markDue n) t
  let s := (s.forget c.uid a.words).postNow (.accessPerformed a.id)
  if a.answers then s.modThread c.uid fun t => t.block (.answer a.id) else c.done s

/-- The access is answered before its instruction completes, and the instruction takes operands from streams, `lnk` or `mbx`: they are
taken at the answer, since a refused instruction has had no effect and reads them again at its replay (R57, R251, R343). -/
def Access.popsLate (a : Access) : Bool := a.answers && !a.pops.isEmpty

/-- The state in which an access leaves that may leave at once: `p` has the operands popped. -/
def Ctx.leaving (c : Ctx) (s p : State) (a : Access) : State := if a.popsLate then s.issued c.uid c.raw else p

/-- Issues an access: under R106 when it is relaxed, behind a HALLOC.nf that is outstanding (R104); else under R104. -/
def Ctx.begin (c : Ctx) (s : State) (a : Access) : State :=
  let a := { a with word := c.raw }
  if a.relaxed then
    if s.allocBusy c.uid then c.block s .accesses
    else if Config.relaxedLimit ≤ s.relaxedCount c.uid then c.block s .relaxedRoom else c.send (c.leaving s c.popped a) a
  else c.ordered s fun p => c.send (if a.popsLate then (s.issued c.uid c.raw).dropReadAhead c.uid else p) a

/-- Takes one operand of an answered instruction (R25, R57, R183): an element of a stream, with what the stream unit is reading in its place,
a word of `lnk` or one of `mbx`. -/
def State.popCode (s : State) (uid code : Nat) : State :=
  match s.thread? uid with
  | none => s
  | some t =>
    if code < 56 then
      let n := code - 48
      let s := if t.atHand n = 0 then s.withdrawElements uid n else s
      (s.popStream uid n 1).1.count t.core 9 (some t)
    else if code = 57 then (s.popLink t).1
    else if code = 58 then (s.popMail t).1
    else s

/-- The instruction of an answered access completes: its operands are taken, in the order of their fields, and the thread goes on. -/
def State.retireAccess (s : State) (a : Access) : State :=
  let s := (a.pops.filter fun c => decide (c < 56)).eraseDups.foldl (fun s c => s.newRecord a.uid (c - 48)) s
  (a.pops.foldl (fun s c => s.popCode a.uid c) s).retire a.uid a.word a.rsvd false a.row

/-- The destination code of a result, none for `z`. -/
def Ctx.dst? (c : Ctx) : Option Nat := if c.dcode = 56 then none else some c.dcode

/-! ### LD, ST, LDP, STP -/

/-- The base field of the M format. -/
def opBase (b : BitVec 6) (e : BitVec 1) : Opnd := opA .gsrc b e

/-- The mode of a load after its fallbacks (R326 rows 1 and 2). -/
def loadMode (m sz : Nat) : Nat := if m = 3 ∨ sz ≠ 3 then 0 else m
/-- The mode of a store after its fallback (R326 row 2). -/
def storeMode (m sz : Nat) : Nat := if sz ≠ 3 then 0 else m

/-- The lowest fallback row of a load or store (R326, R327). -/
def loadRow (m sz : Nat) : Nat := if m = 3 then 1 else if m ≠ 0 ∧ sz ≠ 3 then 2 else 0
def storeRow (m sz : Nat) : Nat := if m ≠ 0 ∧ sz ≠ 3 then 2 else 0
def loadPairRow (m sz : Nat) : Nat := if m = 3 then 1 else if sz ≠ 3 then 3 else 0
def storePairRow (sz : Nat) : Nat := if sz ≠ 3 then 3 else 0

/-- The effective address (R408). -/
def effective (base : Word) (off : BitVec 7) (sz : Nat) : Word := base + (sextTo 7 off <<< sz)

/-- LD (R407-R409). -/
def execLd (t b : BitVec 6) (e : BitVec 1) (m : BitVec 2) (r : BitVec 1) (z : BitVec 2) (x : BitVec 1) (o : BitVec 7) (s : State) :
    Host.Outcome State Fault Refusal :=
  let sz := z.toNat
  s.issue (.ld t b e m r z x o) (fun _ _ =>
    { Form.plain with a := opBase b e, d := opD .gdst t, rsvd := decide (sz = 3) && nz x, row := loadRow m.toNat sz }) fun c s =>
    let va := effective c.a o sz
    let mode := loadMode m.toNat sz
    c.reach s va (2 ^ sz) true (mode == 2) (mode != 0) fun pa =>
      c.begin s { Access.blank .load va pa with
        mode := mode, size := sz, signed := decide (sz < 3) && nz x, relaxed := nz r, dst := c.dst? }

/-- ST (R441-R443). -/
def execSt (t b : BitVec 6) (e : BitVec 1) (m : BitVec 2) (r : BitVec 1) (z : BitVec 2) (x : BitVec 1) (o : BitVec 7) (s : State) :
    Host.Outcome State Fault Refusal :=
  let sz := z.toNat
  s.issue (.st t b e m r z x o) (fun _ _ =>
    { Form.plain with a := opBase b e, d := opD .gsrc t, rsvd := nz x, row := storeRow m.toNat sz }) fun c s =>
    let va := effective c.a o sz
    let mode := storeMode m.toNat sz
    c.reach s va (2 ^ sz) false true (mode != 0) fun pa =>
      c.begin s { Access.blank .store va pa with mode := mode, size := sz, relaxed := nz r, val := c.d }

/-- LDP (R410, R411): sz other than 3 is fallback row 3, sx is reserved. -/
def execLdp (t b : BitVec 6) (e : BitVec 1) (m : BitVec 2) (r : BitVec 1) (z : BitVec 2) (x : BitVec 1) (o : BitVec 7) (s : State) :
    Host.Outcome State Fault Refusal :=
  s.issue (.ldp t b e m r z x o) (fun _ _ =>
    { Form.plain with a := opBase b e, d := opD .dstPair t, rsvd := nz x, row := loadPairRow m.toNat z.toNat }) fun c s =>
    let va := effective c.a o 3
    let mode := loadMode m.toNat 3
    c.reach s va 16 true (mode == 2) (mode != 0) fun pa =>
      c.begin s { Access.blank .loadPair va pa with mode := mode, relaxed := nz r, dst := c.dst? }

/-- STP (R445). -/
def execStp (t b : BitVec 6) (e : BitVec 1) (m : BitVec 2) (r : BitVec 1) (z : BitVec 2) (x : BitVec 1) (o : BitVec 7) (s : State) :
    Host.Outcome State Fault Refusal :=
  s.issue (.stp t b e m r z x o) (fun _ _ =>
    { Form.plain with a := opBase b e, d := opD .srcPair t, rsvd := nz x, row := storePairRow z.toNat }) fun c s =>
    let va := effective c.a o 3
    c.reach s va 16 false true (m != 0) fun pa =>
      c.begin s { Access.blank .storePair va pa with mode := m.toNat, relaxed := nz r, val := c.d, val2 := c.d2 }

/-! ### AMO, CAS -/

/-- The checks of AMO and CAS: alignment comes first (R343). -/
def Ctx.reachWord (c : Ctx) (s : State) (va : Word) (k : Nat → State) : State :=
  if va.toNat % 8 ≠ 0 then c.trap s 0x0A va else c.reach s va 8 true true true k

/-- AMO (R341-R343). -/
def execAmo (d a b : BitVec 6) (e f r g : BitVec 1) (o : BitVec 4) (s : State) : Host.Outcome State Fault Refusal :=
  s.issue (.amo d a b e f r g o) (fun _ _ =>
    { Form.plain with a := opA .src a e, b := opB .src b f, d := opD .dst d }) fun c s =>
    c.reachWord s c.a fun pa =>
      c.begin s { Access.blank (.amo o.toNat) c.a pa with mode := g.toNat, relaxed := nz r, val := c.b, dst := c.dst? }

/-- CAS (R348, R349): gb names the pair of the expected and the new value. -/
def execCas (d a b : BitVec 6) (e f r g : BitVec 1) (s : State) : Host.Outcome State Fault Refusal :=
  s.issue (.cas d a b e f r g) (fun _ _ =>
    { Form.plain with a := opA .src a e, b := opB .srcPair b f, d := opD .dst d }) fun c s =>
    c.reachWord s c.a fun pa =>
      c.begin s { Access.blank .cas c.a pa with mode := g.toNat, relaxed := nz r, val := c.b, val2 := c.b2, dst := c.dst? }

/-! ### TAGRD, TAGSET -/

/-- TAGRD (R449, R450). -/
def execTagrd (d a b : BitVec 6) (e f : BitVec 1) (s : State) : Host.Outcome State Fault Refusal :=
  s.issue (.tagrd d a b e f) (fun _ _ =>
    { Form.plain with a := opA .src a e, d := opD .dst d, rsvd := nz b || nz f }) fun c s =>
    c.reach s c.a 8 true false true fun pa => c.begin s { Access.blank .tagrd c.a pa with dst := c.dst? }

/-- TAGSET (R449, R451). -/
def execTagset (d a b : BitVec 6) (e f : BitVec 1) (s : State) : Host.Outcome State Fault Refusal :=
  s.issue (.tagset d a b e f) (fun _ _ =>
    { Form.plain with a := opA .src a e, b := opB .src b f, rsvd := nz d }) fun c s =>
    c.reach s c.a 8 false true true fun pa => c.begin s { Access.blank .tagset c.a pa with val := c.b }

/-! ### Steps -/

/-- ACCESS_PERFORMED (R69): the access reaches its controller. -/
def execAccessPerformed (id : Nat) (s : State) : Host.Outcome State Fault Refusal :=
  .next (match s.access? id with
    | none => s
    | some a => if s.mayArrive a then (s.activate a.pa).arrive a else s)

/-- The registers that an access has emptied become full again, and the thread takes the refusal (R56, R79, R86). A relaxed
access defers its trap, except that a full list or quota holds the access (R79, R253). -/
def State.answerRefusal (s : State) (a : Access) (cause : BitVec 8) (val : Word) (detail : Nat) : State :=
  let s := s.dropAccess a.id
  if a.relaxed ∧ cause ≠ 0x0D then
    (s.modThread a.uid fun t =>
      t.defer { id := a.id, cause := cause, val := val, word := a.shown, dst := a.dsts }).retireAccess a
  else ((s.restoreDests a).modThread a.uid Thread.wake).raise a.uid cause val detail a.word a.shown

/-- CONTROLLER_ANSWER (R56): performed, placed on a wait list, or refused. -/
def execControllerAnswer (id : Nat) (s : State) : Host.Outcome State Fault Refusal :=
  .next (match s.access? id with
    | none => s
    | some a =>
      match a.phase with
      | .sent => s
      | .performed => (s.dropAccess id).retireAccess a
      | .refused cause val detail => s.answerRefusal a cause val detail
      | .waiting _ _ =>
        if a.answered then s
        else
          let s := s.setAccess { a with answered := true }
          if a.relaxed then s.retireAccess a
          else s.modThread a.uid fun t => { t.setStat .parkedMemory with await := .nothing })

/-- One register of a long-latency result: it becomes full (R54); another destination is pushed. -/
def State.writeResult (s : State) (uid n : Nat) (v : Word) : State :=
  if n < 48 then s.writeReg uid n v false
  else if n < 56 then s.pushStream uid (n - 48) (s.streamWidth uid (n - 48)) [v] 0 0
  else if n = 57 then (match s.thread? uid with | some t => s.pushLink t v false | none => s)
  else s

/-- The destinations of a result can take it: `lnk` has room (R134), a put to a TAGM 2 stream would not be refused (R79, R184; log entry 78),
and what its instruction pops has been popped. A result for `lnk` whose downstream channel has gone is dropped (log entry 82). -/
def State.mayLand (s : State) (r : Result) : Bool :=
  (match s.thread? r.uid with
   | none => true
   | some t => r.regs.all fun e =>
      if e.1 = 57 then (s.downRoom t && (s.downRefused t).isNone) || (s.downstream? t).isNone
      else if 48 ≤ e.1 ∧ e.1 < 56 then decide (s.putsOf t (e.1 - 48) 1 = .go)
      else true) &&
    !s.accesses.any fun a => a.uid == r.uid && a.phase == .performed && !a.pops.isEmpty

/-- LONG_LATENCY_RESULT (R54). -/
def execLongLatencyResult (id : Nat) (s : State) : Host.Outcome State Fault Refusal :=
  .next (match s.results.find? fun r => r.id == id with
    | none => s
    | some r =>
      let s := { s with results := s.results.filter fun r => !(r.id == id) }.modThread r.uid fun t => r.restores.foldl (fun t n => t.unmarkDue n) t
      r.regs.foldl (fun s e => s.writeResult r.uid e.1 e.2) s)

/-- The WAITLIM of a waiting access has run out, counted from its placement (R77). -/
def State.limitPassed (s : State) (a : Access) : Bool :=
  match a.phase, s.thread? a.uid with
  | .waiting _ since, some t => t.waitlim != 0 && decide (since + t.waitlim.toNat ≤ s.now)
  | _, _ => false

/-- A withdrawn element of a stream takes its trap at the instruction that waits for it; a waiting write defers it (R78, R184). -/
def State.timeOut (s : State) (a : Access) : State :=
  let va := w64 a.va
  match a.kind with
  | .streamElem n => s.failElement a n 0x0C va 0
  | _ =>
    if a.relaxed then
      let s := (s.dropAccess a.id).modThread a.uid fun t =>
        t.defer { id := a.id, cause := 0x0C, val := va, word := a.shown, dst := a.dsts }
      -- the answer that the access was placed had not reached the core (R56)
      if a.answers && !a.answered then s.retireAccess a else s
    else (((s.dropAccess a.id).restoreDests a).modThread a.uid Thread.wake).raise a.uid 0x0C va 0 a.word a.shown

/-- An arrival at a row barrier is withdrawn when its WAITLIM runs out (R77, R218). -/
def State.timeOutArrival (s : State) (id : Nat) : State :=
  match s.rows.find? fun r => r.2.arrivals.any fun a => a.id == id with
  | none => s
  | some (w, r) =>
    match r.arrivals.find? fun a => a.id == id with
    | none => s
    | some a =>
      match s.thread? a.uid with
      | none => s
      | some t =>
        if t.waitlim = 0 ∨ s.now < a.since + t.waitlim.toNat ∨ s.frozen t = true then s
        else
          let s := s.setRow w { r with arrivals := r.arrivals.filter fun x => !(x.id == id) }
          (s.modThread a.uid Thread.wake).takeTrap a.uid 0x0C (w64 w) a.word a.shown

/-- WAIT_TIME_OUT (R77, R78): the waiter is withdrawn. -/
def execWaitTimeOut (id : Nat) (s : State) : Host.Outcome State Fault Refusal :=
  .next (match s.access? id with
    | none => s.timeOutArrival id
    | some a => if s.limitPassed a then s.timeOut a else s)

/-- The thread for which the walk of a latched instruction is made. -/
def Thread.walking (t : Thread) (l : Latch) : Thread := if actingWord l.word then t.acting else t

/-- The walker's reads open the rows of their banks, and are checked for errors (R85, R298, R301). -/
def State.checkWalk (s : State) (t : Thread) (l : Latch) : State :=
  (s.walkReads l.val.toNat walkLevels (s.tenant (t.walking l).tenant).root).foldl (fun s a => (s.activate a).checkEcc a) s

/-- The walk of a held thread finds its page, or a cause (R58). -/
def State.endWalk (s : State) (t : Thread) (l : Latch) : Except (BitVec 8) State :=
  s.fillTlb (t.walking l) l.val.toNat (l.detail / 4) (needOf (l.detail.testBit 0) (l.detail.testBit 1))

/-- TRANSLATION_WALK_END (R58): the held instruction replays, or the hold becomes a fault or a trap. A thread that is revoked, stopped or
switched out stays held (R59). -/
def execTranslationWalkEnd (uid : Nat) (s : State) : Host.Outcome State Fault Refusal :=
  .next (match s.thread? uid with
    | none => s
    | some t =>
      match t.latch with
      | none => s
      | some l =>
        if !l.walk || t.status != .heldFault || s.frozen t then s
        else
        let s := s.checkWalk t l
        match s.endWalk t l with
        | .ok s => s.modThread uid fun t => { t.wake with replay := true }
        | .error cause =>
          if replayable cause then
            let l := { l with walk := false, cause := cause, detail := 0 }
            ((s.setThread { t with latch := some l }).count t.core 7 (some t)).sendHeld t l
          else s.takeTrap uid cause l.val l.word l.shown)

end Sys2Proof.Machine
end

