-- ==== Sys2Proof/Machine/StreamTable.lean ====
section
/-! DEFINITION. The stream table: STAB, SBIND, SSKIP, SPOS and the read-ahead of the stream unit (R172, R177-R184, R435, R436, R440,
R444). -/

namespace Sys2Proof.Machine

/-! ### Reading a descriptor -/

/-- A thread's plain read reaches a word: a lent range is recalled, and the word's error code is checked (R85, R141). -/
def State.touch (s : State) (t : Thread) (pa : Nat) : State :=
  (s.recallFor pa t.tenant (s.classOf t == .dusk)).checkEcc pa

/-- The words of a descriptor as a thread's plain reads find them; what a peer holds is a free value (R111, R297). -/
def State.descWords (s : State) (pa : Nat) : (n : Nat) → List Word × State
  | 0 => ([], s)
  | n + 1 =>
    match regionOf pa with
    | .peer _ _ => let (v, s) := s.free; let (vs, s) := s.descWords (pa + 8) n; (v :: vs, s)
    | _ => let (vs, s) := s.descWords (pa + 8) n; ((s.engineRead pa).getD 0 :: vs, s)

/-- A unit or a peer refuses the descriptor read of a thread (R266, R277, R297). -/
def State.refusesDesc (s : State) (t : Thread) (pa : Nat) : Bool × State :=
  match s.firewalled pa t.tenant with
  | some c => (true, s.countDrop c)
  | none =>
    match regionOf pa with
    | .peer _ _ => let (k, s) := s.pick 2; (decide (k = 1), s)
    | _ => (s.refusesAt pa (some t) t.tenant (t.level == .curator), s)

/-- The instruction reads `n` words at `pa` by one non-relaxed plain read of its thread: a refusal is a protection fault (R266), it waits for
what the words are owed (R76), a lent range is recalled (R141), a poisoned word traps with its virtual address (R86), and the comparators
test it (R314). `k` gets the words, the state as read, and that state with the operands popped. -/
def Ctx.readWords (c : Ctx) (s : State) (va : Word) (pa n : Nat) (k : List Word → State → State → State) : State :=
  let ws := (List.range n).map fun i => pa + 8 * i
  let look (s : State) : State := ws.foldl (fun s w => s.touch c.t w) (s.refusesDesc c.t pa).2
  if (s.refusesDesc c.t pa).1 then c.trap (s.refusesDesc c.t pa).2 0x09 va
  else if !s.mayTouch ws then c.block s (.quiet ws)
  else match (List.range n).find? fun i => (look s).poisoned (pa + 8 * i) with
  | some i => c.trap (look s) 0x0E (va + w64 (8 * i))
  | none =>
    let read (s : State) : List Word × State := ((look s).compareRead c.uid va pa (8 * n)).descWords pa n
    let p := read (c.popped.dropReadAhead c.uid)
    k p.1 (read s).2 p.2

/-! ### STAB (R177, R179, R444) -/

/-- A stride is a multiple of the element size in bytes. -/
def strideOk (w : Nat) (x : Int) : Bool := decide (w = 4) || decide (x % (w / 8 : Nat) = 0)

/-- The fields of a record are those of a good entry for core `c` (R177). -/
def StreamEntry.good (e : StreamEntry) (c : Nat) : Bool :=
  decide (e.fmt ≠ 15) && decide (e.dir ≠ 3) && (!e.inAcc || isArray c) &&
    (decide (e.tagm = 0) || (decide (e.tagm ≠ 3) && (decide (e.fmt = 0) || decide (e.fmt = 9)) && !e.inAcc)) &&
    (decide (e.width = 4) || decide (e.base % (e.width / 8) = 0)) && decide (e.count0 ≠ 0) &&
    strideOk e.width e.stride0 && strideOk e.width e.stride1 && strideOk e.width e.stride2 &&
    (decide (e.width ≠ 4) || (decide (e.stride0 = 0) && decide (e.count0 % 2 = 0)))

/-- The least and the greatest offset that a dimension adds. -/
def reachOf (n : Nat) (stride : Int) : Int × Int :=
  let far : Int := (n - 1 : Nat) * stride
  (min 0 far, max 0 far)

/-- The bytes of the elements: first, and one past the last (R178). -/
def StreamEntry.extent (e : StreamEntry) : Int × Int :=
  let r0 : Int × Int := if e.width = 4 then (0, (((e.count0 - 1) / 2 : Nat) : Int)) else reachOf e.count0 e.stride0
  let r1 := reachOf e.count1 e.stride1
  let r2 := reachOf e.count2 e.stride2
  (e.base + r0.1 + r1.1 + r2.1, e.base + r0.2 + r1.2 + r2.2 + (if e.width = 4 then 1 else e.width / 8 : Nat))

/-- The formats that have a scale array (R177). -/
def StreamEntry.scaled (e : StreamEntry) : Bool := decide (6 ≤ e.fmt) && decide (e.fmt ≤ 8)

/-- `n` bytes from offset `lo` on lie in the memory that the record names: the tenant's allotment, or the accumulator memory. -/
def State.streamBytes (s : State) (tenant c : Nat) (e : StreamEntry) (lo hi : Int) : Bool :=
  decide (0 ≤ lo) &&
    (if e.inAcc then decide (hi ≤ Config.accBytes) else s.allots tenant c lo.toNat (hi - lo).toNat)

/-- Every element and scale byte lies in the named memory (R179). -/
def State.streamInside (s : State) (tenant c : Nat) (e : StreamEntry) : Bool :=
  s.streamBytes tenant c e e.extent.1 e.extent.2 &&
    (!e.scaled || s.streamBytes tenant c e e.scb (e.scb + (e.total - 1) / 32 + 1 : Nat))

/-- A record read from memory; its reserved fields read as zero (R8). -/
def StreamEntry.ofWords (ws : List Word) : StreamEntry :=
  { w0 := ws.getD 0 0 &&& streamMask, w1 := ws.getD 1 0, w2 := ws.getD 2 0, w3 := ws.getD 3 0 }

/-- STAB (R179, R444). Unbinding reads no record, and makes no access (R435). -/
def execStab (d a b : BitVec 6) (e f : BitVec 1) (s : State) : Host.Outcome State Fault Refusal :=
  s.issue (.stab d a b e f) (fun _ _ => { Form.plain with a := opA .src a e, b := opB .src b f, rsvd := nz d }) fun c s =>
    if c.b.toNat % 32 ≠ 0 then c.trap s 0x0A c.b
    else if !(s.hasStreamIndex c.t.tenant c.t.core c.a.toNat) then c.trap s 0x09 c.a
    else if c.b = 0 then
      c.done (c.popped.modCore c.t.core fun co => { co with stab := erase co.stab c.a.toNat })
    else c.reach s c.b 32 true false false fun pa =>
      c.ordered s fun _ =>
        c.readWords s c.b pa 4 fun ws s p =>
          let e := StreamEntry.ofWords ws
          if e.good c.t.core && p.streamInside c.t.tenant c.t.core e then
            c.done (p.modCore c.t.core fun co => { co with stab := insert co.stab c.a.toNat e })
          else c.trap s 0x10 c.b

/-! ### SBIND, SSKIP, SPOS -/

/-- The write beats of stream `n` are performed (R180). -/
def State.writesDone (s : State) (uid n : Nat) : Bool :=
  !s.accesses.any fun a => a.uid == uid && decide (a.kind = .streamPut n)

/-- The stream register as bound to an entry, at position 0. -/
def Stream.bound (e : StreamEntry) : Stream := { entry := e, pos := 0, record := [], ahead := [], aheadW := e.width }

/-- SBIND (R180, R436). -/
def execSbind (d a b : BitVec 6) (e f : BitVec 1) (s : State) : Host.Outcome State Fault Refusal :=
  s.issue (.sbind d a b e f) (fun _ _ =>
    { Form.plain with a := opA .src a e, d := opD .name d, rsvd := nz b || nz f }) fun c s =>
    let n := d.toNat - 48
    let unbind := c.a.toNat.testBit 63
    if !unbind && !(s.hasStreamIndex c.t.tenant c.t.core c.a.toNat) then c.trap s 0x09 c.a
    else
      let e := if unbind then none else lookup? (s.core c.t.core).stab c.a.toNat
      if !unbind && e.isNone then c.trap s 0x10 (w64 n)
      else if !s.writesDone c.uid n then c.block s (.streamWrites n)
      else c.done ((c.popped.withdrawElements c.uid n).setStream c.uid n (e.map Stream.bound))

/-- The stream after SSKIP of `k` elements (R181, R440). -/
def Stream.skip (x : Stream) (k : Nat) : Stream :=
  { x with pos := if x.entry.wrap then (x.pos + k) % max 1 x.entry.total else min x.entry.total (x.pos + k), record := [],
           ahead := x.ahead.drop k }

/-- SSKIP (R181, R440). An element that is on its way, or has left a trap, behind the position that the skip reaches stays. -/
def execSskip (d a b : BitVec 6) (e f : BitVec 1) (s : State) : Host.Outcome State Fault Refusal :=
  s.issue (.sskip d a b e f) (fun _ _ =>
    { Form.plain with a := opA .src a e, d := opD .name d, rsvd := nz b || nz f }) fun c s =>
    let n := d.toNat - 48
    match c.t.stream? n with
    | none => c.trap s 0x10 (w64 n)
    | some _ =>
      if c.a = 0 then c.done c.popped
      else
        let p := if ((c.popped.thread? c.uid).map fun t => t.atHand n).getD 0 < c.a.toNat then c.popped.withdrawElements c.uid n else c.popped
        c.done (p.modThread c.uid fun t => { t with streams := t.streams.setIfInBounds n ((t.stream? n).map fun x => x.skip c.a.toNat) })

/-- SPOS (R181, R440). -/
def execSpos (d a b : BitVec 6) (e f : BitVec 1) (s : State) : Host.Outcome State Fault Refusal :=
  s.issue (.spos d a b e f) (fun _ _ => { Form.plain with a := opA .name a 0, d := opD .dst d, rsvd := nz b || nz f }) fun c s =>
    let n := a.toNat - 48
    match c.t.stream? n with
    | none => c.trap s 0x10 (w64 n)
    | some x => c.finish (w64 x.pos)

/-! ### Read-ahead (R184) -/

/-- Elements that one issue of a vector instruction handles at a width (R173). -/
def lanes (w : Nat) : Nat := if w = 4 then 128 else if w = 8 then 64 else if w = 16 then 32 else 8

/-- The stream unit may read one more element of stream `n` ahead: at most 4 beats, never for TAGM 2, and nothing that would trap:
the instruction that pops the element finds that itself. It passes no non-relaxed access or ordering point that is not performed (R104,
R113, R184). -/
def State.mayReadAhead (s : State) (t : Thread) (n : Nat) : Bool :=
  !t.status.suspended && t.stat != .parkedMemory && ((s.outstanding t.uid).all fun a => a.relaxed) &&
  match t.stream? n with
  | none => false
  | some x =>
    x.entry.dir != 1 && x.entry.tagm != 2 && decide (x.ahead.length < 4 * lanes x.entry.width) &&
      !(s.accesses.any fun a => a.uid == t.uid && decide (a.kind = .streamElem n)) &&
      match x.posAt x.ahead.length with
      | none => false
      | some p =>
        let pa := (x.address t.core p).1
        !s.unreadable pa &&
          (match x.windowOffset p with
           | some off => (s.leaseLost t off (max 1 (x.entry.width / 8))).isNone
           | none => true)

/-- STREAM_READ_AHEAD (R184). -/
def execStreamReadAhead (uid n : Nat) (s : State) : Host.Outcome State Fault Refusal :=
  .next (match s.thread? uid with
    | none => s
    | some t =>
      if !s.mayReadAhead t n then s
      else
        let s := s.matchAhead uid n (s.streamWidth uid n)
        match (s.thread? uid).bind (·.stream? n) with
        | none => s
        | some x =>
          match x.posAt x.ahead.length with
          | none => s
          | some p =>
            let a := { x.readAccess n uid t.core p x.entry.width s.nextId 0 0 with answered := true }
            { s with nextId := s.nextId + 1 }.startStreamAccess a)

end Sys2Proof.Machine
end

