-- ==== Sys2Proof/Machine/Copies.lean ====
section
/-! DEFINITION. The copy engine and multicast: CPYGO, CPYST, CPYCAN, SUBS, UNSUBS and the progress of transfers (R109, R188-R191,
R196, R197, R352-R356, R447). -/

namespace Sys2Proof.Machine

/-! ### Launch -/

/-- The six copy control registers of a launch (R188). -/
structure CopyRegs where
  src : Word
  dst : Word
  len : Word
  strides : Word
  rows : Word
  flg : Word
  deriving DecidableEq, Repr

def CopyRegs.sstr (r : CopyRegs) : Int := signed 32 (fieldOf r.strides 0 32)
def CopyRegs.dstr (r : CopyRegs) : Int := signed 32 (fieldOf r.strides 32 32)
/-- Rows: 0 counts as 1. -/
def CopyRegs.rowCount (r : CopyRegs) : Nat := max 1 (fieldOf r.rows 0 32)
def CopyRegs.bytes (r : CopyRegs) : Nat := fieldOf r.len 0 32

/-- The copy control registers of a thread. -/
def Thread.copyRegs (t : Thread) : CopyRegs :=
  { src := t.cpysrc, dst := t.cpydst, len := t.cpylen, strides := t.cpystr, rows := t.cpyrows, flg := t.cpyflg }

/-- The first value that is not a multiple of 8 (R189). -/
def CopyRegs.misaligned (r : CopyRegs) : Option Word :=
  [r.src, r.dst, r.len, wordI r.sstr, wordI r.dstr].find? fun v => decide (v.toNat % 8 ≠ 0)

/-- How the pages of a range are found: by walks at once, or through a thread's translation buffer. -/
abbrev Pager := (va len : Nat) → Need → Except NoPages (List (Nat × Nat × Nat))

/-- The pager of a thread (R58). -/
def State.pager (s : State) (t : Thread) : Pager := s.threadPages t

/-- The pager of a unit that has no translation buffer. -/
def State.walkPager (s : State) (v : Viewer) : Pager := fun va len need =>
  resolveRange (fun a n => s.resolve v a n need) (len / 0x10000 + 2) va len

/-- One end of one row: its pages, or the trap or miss that its translation finds (R354). -/
def copyEnd (f : Pager) (a : Int) (len : Nat) (need : Need) : Except NoPages (List (Nat × Nat × Nat)) :=
  if a < 0 ∨ (windowEnd : Int) ≤ a then .error (.bad 0x09 (wordI a).toNat)
  else match f a.toNat len need with
  | .error e => .error e
  | .ok ps =>
    match ps.find? fun p => match regionOf p.2.1 with | .wake _ _ => true | .system _ => true | _ => false with
    | some p => .error (.bad 0x09 p.1)
    | none => .ok ps

/-- The pages of every row, in row order, the source before the destination (R354). -/
def copyPages (f : Pager) (r : CopyRegs) : (fuel j : Nat) → Except NoPages (List (Nat × Nat × Nat))
  | 0, _ => .ok []
  | fuel + 1, j =>
    match copyEnd f (r.src.toNat + j * r.sstr) r.bytes .read with
    | .error e => .error e
    | .ok ps =>
      match copyEnd f (r.dst.toNat + j * r.dstr) r.bytes .write with
      | .error e => .error e
      | .ok qs =>
        match copyPages f r fuel (j + 1) with
        | .error e => .error e
        | .ok rest => .ok (ps ++ qs ++ rest)

/-- The pages of a transfer: none when it copies no byte. -/
def copyRange (f : Pager) (r : CopyRegs) : Except NoPages (List (Nat × Nat × Nat)) :=
  if r.bytes = 0 then .ok [] else copyPages f r r.rowCount 0

/-- The destination words of a transfer. -/
def Transfer.words (x : Transfer) : Nat := x.rows * (x.len / 8)

/-- Row and byte of destination word `k`. -/
def Transfer.rowByte (x : Transfer) (k : Nat) : Nat × Nat := (k / (x.len / 8), 8 * (k % (x.len / 8)))

/-- The physical address of word `k` of the source or of the destination. -/
def Transfer.srcPa (x : Transfer) (k : Nat) : Option Nat :=
  let (j, b) := x.rowByte k
  pageOf x.pages ((x.src : Int) + j * x.sstr + b).toNat
def Transfer.dstPa (x : Transfer) (k : Nat) : Option Nat :=
  let (j, b) := x.rowByte k
  pageOf x.pages ((x.dst : Int) + j * x.dstr + b).toNat

/-- An engine of core `c` may not touch the word: it lies in the core's own scratchpad, in a range that is not lent to the dusk
threads that launched (R190), or in the scratchpad of a core that refuses the tenant from core `from_` (R266). -/
def State.engineLost (s : State) (c : Nat) (from_ : Option Nat) (tenant : Nat) (dusk curator : Bool) (pa : Nat) : Bool :=
  match regionOf pa with
  | .spad c' off =>
    (dusk && decide (c' = c) && ((s.core c).openLease tenant off).isNone) || s.refusesCore c' from_ tenant curator
  | _ => false

/-- The core that the accesses of a transfer come from: a queue executor is on none (R266). -/
def Transfer.from? (x : Transfer) (c : Nat) : Option Nat := if x.queue.isSome then none else some c

/-- The word is lost to a transfer. -/
def State.copyLost (s : State) (c : Nat) (x : Transfer) (pa : Nat) : Bool := s.engineLost c (x.from? c) x.tenant x.dusk x.curatorLevel pa

/-- A word as an engine reads it: none when it is poisoned. What a peer part returns is a free value. -/
def State.engineFetch (s : State) (tenant : Nat) (dusk : Bool) (pa : Nat) : State × Option Word :=
  match regionOf pa with
  | .peer _ _ => let (v, s) := s.free; (s, some v)
  | _ =>
    let s := (s.recallFor pa tenant dusk).checkEcc pa
    (s, s.engineRead pa)

/-- The claim: P of every tagged destination word is cleared, without a watch event (R109, R189). -/
def State.claimCopy (s : State) (c : Nat) (x : Transfer) : State :=
  (List.range x.words).foldl (fun s k =>
    match x.dstPa k with
    | none => s
    | some pa => if s.copyLost c x pa then s else (s.recallFor pa x.tenant x.dusk).claim pa) s

/-- The launch queue of the core has room (R189). -/
def State.launchRoom (s : State) (c : Nat) : Bool := decide ((s.core c).transfers.length < Config.launchQueue)

/-- The subscribers of a published transfer, on the tag's root core (R197). -/
def State.subscribers (s : State) (c tenant : Nat) (flg : Word) : List (Nat × Subscription) :=
  if flg.toNat.testBit 0 then
    s.cores.flatMap fun e =>
      (e.2.subs.filter fun u => u.tenant == tenant && u.tag == fieldOf flg 16 16 && u.root == c).map fun u => (e.1, u)
  else []

/-- Launches a transfer on core `c` with the next transfer ID (R189, R355). The ID and the state. -/
def State.launchCopy (s : State) (c : Nat) (r : CopyRegs) (pages : List (Nat × Nat × Nat)) (tag : Nat) (nc : Bool)
    (t : Option Thread) (tenant : Nat) (queue : Option (Nat × Nat)) (rowFallback : Bool := false) : Nat × State :=
  let id := (s.core c).nextTransfer.toNat
  let x : Transfer :=
    { id := id, serial := s.nextId, uid := t.map (·.uid), tid := (t.map (·.tid)).getD 0, tenant := tenant,
      dusk := (t.map fun t => s.classOf t == .dusk).getD false, cls := (t.map fun t => (s.classOf t).num).getD 0, queue := queue, src := r.src.toNat, dst := r.dst.toNat,
      len := r.bytes, sstr := r.sstr, dstr := r.dstr, rows := r.rowCount, flg := r.flg, tag := tag, nc := nc,
      rowFallback := rowFallback, curatorLevel := (t.map fun t => t.level == .curator).getD false, pages := pages,
      subs := s.subscribers c tenant r.flg, state := .queued, next := 0, carried := [], written := 0, done := 0, short := false, poisoned := false, lease := false }
  let s := if nc then s else s.claimCopy c x
  (id, ({ s with nextId := s.nextId + 1 }.modCore c fun co =>
    { co with transfers := co.transfers ++ [x], nextTransfer := co.nextTransfer + 1 }).postNow (.copyCompletion c x.serial))

/-- The first page of a launch that is not in the translation buffer is one of a source (R58). -/
def State.missReads (s : State) (t : Thread) (r : CopyRegs) (va : Nat) : Bool :=
  match copyRange (fun a n need => if need = .write then .ok [] else s.pager t a n need) r with
  | .error (.miss v _) => decide (v = va)
  | _ => false

/-- CPYGO and CPYGO.nc (R189, R354, R355). -/
def State.copyGo (s : State) (i : Instr) (d a b : BitVec 6) (e f : BitVec 1) (nc : Bool) : Host.Outcome State Fault Refusal :=
  s.issue i (fun _ _ => { Form.plain with a := opA .src a e, d := opD .dst d, rsvd := nz b || nz f }) fun c s =>
    c.ordered s fun p =>
      let r := c.t.copyRegs
      match r.misaligned with
      | some v => c.trap s 0x0A v
      | none =>
        match copyRange (s.pager c.t) r with
        | .error (.miss va n) => c.miss s (w64 va) (needCode (s.missReads c.t r va) (!s.missReads c.t r va) n)
        | .error (.bad cause va) => c.raise s cause (w64 va)
        | .ok ps =>
          if !s.launchRoom c.t.core then c.block s .launchRoom
          else
            let (id, p) := p.launchCopy c.t.core r ps (fieldOf c.a 0 16) nc (some c.t) c.t.tenant none
            c.finishLater p (w64 id)

/-- CPYGO. -/
def execCpygo (d a b : BitVec 6) (e f : BitVec 1) (s : State) : Host.Outcome State Fault Refusal :=
  s.copyGo (.cpygo d a b e f) d a b e f false

/-- CPYGO.nc: no claim. -/
def execCpygoNc (d a b : BitVec 6) (e f : BitVec 1) (s : State) : Host.Outcome State Fault Refusal :=
  s.copyGo (.cpygoNc d a b e f) d a b e f true

/-! ### CPYST, CPYCAN -/

/-- The newest transfer of the core with this ID that a thread of the tenant launched (R356). -/
def State.transferOf (s : State) (c tenant id : Nat) : Option Transfer :=
  (s.core c).transfers.reverse.find? fun x => x.id == id && x.tenant == tenant && x.uid.isSome

def TransferState.num : TransferState → Nat
  | .queued => 1
  | .running => 2
  | .cancelled => 3

/-- CPYST (R191, R356). -/
def execCpyst (d a b : BitVec 6) (e f : BitVec 1) (s : State) : Host.Outcome State Fault Refusal :=
  s.issue (.cpyst d a b e f) (fun _ _ => { Form.plain with a := opA .src a e, d := opD .dst d, rsvd := nz b || nz f }) fun c s =>
    c.finishLater c.popped (match s.transferOf c.t.core c.t.tenant (fieldOf c.a 0 16) with
      | some x => w64 (x.state.num + x.done * 2 ^ 32)
      | none => 0)

/-- Replaces a transfer of a core. -/
def Core.setTransfer (c : Core) (x : Transfer) : Core :=
  { c with transfers := c.transfers.map fun y => if y.serial = x.serial then x else y }

/-- CPYCAN (R191, R353). A transfer whose last write is performed has finished: it only waits for room for its message. -/
def execCpycan (d a b : BitVec 6) (e f : BitVec 1) (s : State) : Host.Outcome State Fault Refusal :=
  s.issue (.cpycan d a b e f) (fun _ _ => { Form.plain with a := opA .src a e, rsvd := nz d || nz b || nz f }) fun c s =>
    c.done (match s.transferOf c.t.core c.t.tenant (fieldOf c.a 0 16) with
      | some x =>
        if x.state = .cancelled ∨ x.words ≤ x.next then c.popped
        else c.popped.modCore c.t.core fun co => co.setTransfer { x with state := .cancelled }
      | none => c.popped)

/-! ### The progress of a transfer (R109, R190, R197, R355) -/

/-- One replicated word at one subscriber: an `.s` write, or a poisoned word. Outside the allotment, or on a core that refuses the tenant, it
is dropped and counted (R197, R266); for an entry that has gone it may be dropped. -/
def State.replicate (s : State) (c : Nat) (x : Transfer) (k : Nat) (v : Option Word) (u : Nat × Subscription) : State :=
  let (j, b) := x.rowByte k
  let off : Int := (u.2.off : Int) + j * x.dstr + b
  if off < 0 ∨ s.allots x.tenant u.1 off.toNat 8 = false ∨ s.refusesCore u.1 (x.from? c) x.tenant x.curatorLevel = true then
    s.modCore u.1 fun co => { co with multicastDrops := co.multicastDrops + 1 }
  else
    let live := (s.core u.1).subs.contains u.2
    let (drop, s) := if live then (0, s) else s.pick 2
    if drop = 1 then s
    else match v with
      | some v => s.engineWrite (spadPa u.1 off.toNat) v (.unit x.tenant) true (none, none)
      | none => s.poisonOne (spadPa u.1 off.toNat)

/-- The number of the source word that the engine reads next. -/
def Transfer.reading (x : Transfer) : Nat := x.next + x.carried.length

/-- The source word lies in a scratchpad that refuses the tenant (R266). -/
def State.refusesSource (s : State) (c : Nat) (x : Transfer) (pa : Nat) : Bool :=
  match regionOf pa with
  | .spad c' _ => s.refusesCore c' (x.from? c) x.tenant x.curatorLevel
  | _ => false

/-- The engine reads a source word (R109). A word that it may not read it passes over (R266). -/
def State.copyRead (s : State) (c : Nat) (x : Transfer) : State × Transfer :=
  match x.srcPa x.reading with
  | none => (s, { x with carried := x.carried ++ [.skip] })
  | some pa =>
    if s.refusesSource c x pa then (s, { x with carried := x.carried ++ [.skip] })
    else
      let (s, v) := s.engineFetch x.tenant x.dusk pa
      (s, match v with
        | some v => { x with carried := x.carried ++ [.data v] }
        | none => { x with carried := x.carried ++ [.poison], poisoned := true })

/-- The transfer after its next destination word, written or not: at the end of a row that lacks none, one row more is done (R356). -/
def Transfer.past (x : Transfer) (wrote : Bool) : Transfer :=
  let whole := !x.short && wrote
  let last := decide ((x.next + 1) % (x.len / 8) = 0)
  { x with next := x.next + 1, carried := x.carried.tail, written := x.written + bitNat wrote,
           done := x.done + bitNat (last && whole), short := !last && !whole }

/-- The engine's write of the destination word at `pa`, and whether it writes it. A poisoned source word poisons the destination word: that is
its write (R86; log entry 25). An untagged word cannot hold poison and is not written. -/
def State.copyPut (s : State) (x : Transfer) (pa : Nat) (w : CopyWord) : State × Bool :=
  match w with
  | .skip => (s, false)
  | .data v => (s.engineWrite pa v (.unit x.tenant) (!x.nc || x.rowFallback) (x.uid, x.queue), true)
  | .poison =>
    (if x.rowFallback then ((s.setP pa true).poisonOne pa).written pa (.unit x.tenant) else s.poisonOne pa, tagged pa)

/-- The engine goes on past its next destination word with what it has read for it: to the subscribers and to its destination. 64 bytes
written count as an event of the launching thread (R319). -/
def State.copyWrite (s : State) (c : Nat) (x : Transfer) (w : CopyWord) : State × Transfer :=
  let s := match w with
    | .skip => s
    | .data v => x.subs.foldl (fun s u => s.replicate c x x.next (some v) u) s
    | .poison => x.subs.foldl (fun s u => s.replicate c x x.next none u) s
  match x.dstPa x.next with
  | none => (s, x.past false)
  | some pa =>
    if w = .skip ∨ s.copyLost c x pa = true then (s, { x.past false with lease := true })
    else
      let (s, wrote) := (s.recallFor pa x.tenant x.dusk).copyPut x pa w
      (if wrote && x.written % 8 == 7 then s.countOf c 0x0A (x.uid.map fun _ => x.tenant) x.cls (x.uid.bind s.thread?) else s, x.past wrote)

/-- What owes an answer at the next word's places has been done, and the messages of the watch events that it raises have room (R76, R83). -/
def State.copyMayWrite (s : State) (x : Transfer) : Bool :=
  (match x.dstPa x.next with
   | some pa => s.mayWrite [wordAddr pa]
   | none => true) &&
    x.subs.all fun u =>
      let off : Int := (u.2.off : Int) + (x.rowByte x.next).1 * x.dstr + (x.rowByte x.next).2
      decide (off < 0) || s.mayWrite [spadPa u.1 off.toNat]

/-- The transfer can read its next source word: what is owed there has been done (R76, R300). -/
def State.copyMayRead (s : State) (x : Transfer) : Bool :=
  decide (x.reading < x.words) && (match x.srcPa x.reading with | some pa => s.mayTouch [wordAddr pa] | none => true)

/-- The transfer can write the next word, which it has read, or pass over it. -/
def State.copyMayPut (s : State) (x : Transfer) : Bool :=
  match x.carried with
  | [] => false
  | .skip :: _ => true
  | _ => s.copyMayWrite x

/-- The transfer's next action can take place. -/
def State.copyMayAct (s : State) (x : Transfer) : Bool := s.copyMayPut x || s.copyMayRead x

/-- The transfer's next action: the write of the next word, or the read of a source word. The engine takes its words in ascending order, and
how far it reads ahead of its writes is not fixed (R5, R109, R189; log entry 70). -/
def State.copyAct (s : State) (c : Nat) (x : Transfer) : State × Transfer :=
  let (k, s) := if s.copyMayPut x && s.copyMayRead x then s.pick 2 else (bitNat (!s.copyMayPut x), s)
  match x.carried with
  | w :: _ => if k = 0 then s.copyWrite c x w else s.copyRead c x
  | [] => s.copyRead c x

/-- Up to `n` actions of a transfer. -/
def State.copyWords (s : State) (c : Nat) : (n : Nat) → Transfer → State × Transfer
  | 0, x => (s, x)
  | n + 1, x =>
    if x.next < x.words ∧ s.copyMayAct x = true then
      let r := s.copyAct c x
      r.1.copyWords c n r.2
    else (s, x)

/-- The status of a completion: the highest that applies (R355). -/
def Transfer.status (x : Transfer) : Nat :=
  if x.lease then 3 else if x.poisoned then 2 else if x.state = .cancelled then 1 else 0

/-- The completion message (R194, R355). -/
def Transfer.message (x : Transfer) : Msg :=
  { id := 0, slot := tidSlot x.tid, bound := x.uid, kind := 2, status := x.status, sender := x.tid,
    w0 := w64 (x.id + x.tag * 2 ^ 16), w1 := w64 x.written, popped := false, device := true }

/-- A completion sends a message unless NOMSG is set or a queue launched the transfer. -/
def Transfer.tells (x : Transfer) : Bool := x.queue.isNone && !x.flg.toNat.testBit 1

/-- Drops a transfer from the SIGNAL wait of the consumer that launched it (R284). -/
def State.copyOfQueueDone (s : State) (x : Transfer) : State :=
  match x.queue with
  | none => s
  | some (q, i) =>
    match s.queue? q with
    | none => s
    | some z =>
      let k := z.consumer i
      s.setQueue q (z.setConsumer i { k with copies := k.copies.filter fun y => !(y == x.serial) })

/-- The mailbox has room for the completion message, or none is sent (R192). -/
def State.completionRoom (s : State) (c : Nat) (x : Transfer) : Bool :=
  !x.tells || s.deviceRoom c x.message

/-- A finished or cancelled transfer ends once its message can enter the mailbox (R192, R356). -/
def State.endTransfer (s : State) (c : Nat) (x : Transfer) : State :=
  if !s.completionRoom c x then s.modCore c fun co => co.setTransfer x
  else
    let s := (s.modCore c fun co => { co with transfers := co.transfers.filter fun y => !(y.serial == x.serial) }).copyOfQueueDone x
    if x.tells then s.enterMessage c x.message else s

/-- A transfer may go on: it runs, or it is the first of the queue and fewer than 4 run (R190). -/
def Core.mayRun (c : Core) (x : Transfer) : Bool :=
  match x.state with
  | .queued =>
    decide ((c.transfers.find? fun y => y.state == .queued).map (·.serial) = some x.serial) &&
      decide ((c.transfers.filter fun y => y.state == .running).length < Config.runningTransfers)
  | _ => true

/-- A curfew stops a transfer of a core: its engine is, and no thread that keeps issuing has launched it (R198, R264). -/
def State.transferStopped (s : State) (c : Nat) (x : Transfer) : Bool :=
  (s.core c).stopped && ((x.uid.bind s.thread?).map fun t => s.frozen t) != some false

/-- A stopped transfer stands on a 64-byte boundary of its destination, or is not under way (R198). What it has read beyond is read again on
its resume. -/
def Transfer.aligned (x : Transfer) : Bool :=
  x.state != .running || decide (x.words ≤ x.next) ||
    decide (((x.dst : Int) + (x.rowByte x.next).1 * x.dstr + (x.rowByte x.next).2) % 64 = 0)

/-- A transfer can make progress: one that a curfew has stopped goes on to the next boundary only (R83, R190, R192, R198). -/
def State.copyMayGo (s : State) (c : Nat) (x : Transfer) : Bool :=
  if s.transferStopped c x then !x.aligned && s.copyMayAct x
  else (s.core c).mayRun x && (if x.state = .cancelled ∨ x.words ≤ x.next then s.completionRoom c x else s.copyMayAct x)

/-- COPY_COMPLETION: a transfer starts, makes as many reads and writes as `picks` says (all, when it says nothing), and ends after its last
write. One that a curfew has stopped makes one at a time until it stands on a boundary (R198). -/
def execCopyCompletion (core id : Nat) (s : State) : Host.Outcome State Fault Refusal :=
  .next (match (s.core core).transfers.find? fun x => x.serial == id with
    | none => s
    | some x =>
      if s.transferStopped core x then
        if x.aligned then s
        else
          let (s, x) := s.copyWords core 1 x
          s.modCore core fun co => co.setTransfer x
      else if x.state = .cancelled then s.endTransfer core x
      else if !(s.core core).mayRun x then s
      else
        let left := 2 * (x.words - x.next) - x.carried.length
        let (k, s) := s.pick (left + 1)
        let (s, x) := s.copyWords core (if k = 0 then left else k) { x with state := .running }
        if x.words ≤ x.next then s.endTransfer core x else s.modCore core fun co => co.setTransfer x)

/-! ### SUBS, UNSUBS (R196, R447) -/

/-- The tag and the root that a register names. -/
def subTag (a : Word) : Nat := fieldOf a 0 16
def subRoot (a : Word) : Nat := fieldOf a 16 11

/-- The entry of the match table with this key. -/
def Core.subOf (c : Core) (tenant tag root : Nat) : Option Subscription :=
  c.subs.find? fun u => u.tenant == tenant && u.tag == tag && u.root == root

/-- SUBS (R196, R447). -/
def execSubs (d a b : BitVec 6) (e f : BitVec 1) (s : State) : Host.Outcome State Fault Refusal :=
  s.issue (.subs d a b e f) (fun _ _ => { Form.plain with a := opA .src a e, b := opB .src b f, rsvd := nz d }) fun c s =>
    let root := subRoot c.a
    let off := fieldOf c.b 0 20
    let co := s.core c.t.core
    let old := co.subOf c.t.tenant (subTag c.a) root
    if !(s.present root && (s.tenant c.t.tenant).hasCore root) then c.trap s 0x09 c.a
    else if off % 8 ≠ 0 ∨ s.allots c.t.tenant c.t.core off 8 = false then c.trap s 0x09 c.b
    else if old.isNone ∧ Config.matchEntries ≤ co.subs.length then c.trap s 0x09 c.a
    else
      let u : Subscription := { tenant := c.t.tenant, tag := subTag c.a, root := root, off := off }
      c.done (c.popped.modCore c.t.core fun co =>
        { co with subs := match old with | some v => co.subs.map (fun x => if x = v then u else x) | none => co.subs ++ [u] })

/-- UNSUBS (R196, R447): an absent entry gives no effect. -/
def execUnsubs (d a b : BitVec 6) (e f : BitVec 1) (s : State) : Host.Outcome State Fault Refusal :=
  s.issue (.unsubs d a b e f) (fun _ _ => { Form.plain with a := opA .src a e, rsvd := nz d || nz b || nz f }) fun c _ =>
    c.done (c.popped.modCore c.t.core fun co =>
      { co with subs := co.subs.filter fun u => !(u.tenant == c.t.tenant && u.tag == subTag c.a && u.root == subRoot c.a) })

end Sys2Proof.Machine
end

