-- ==== Sys2Proof/Machine/Heap.lean ====
section
/-! DEFINITION. Fences and the tenant heap: major 0x17 (R97-R101, R110, R374, R392, R393). -/

namespace Sys2Proof.Machine

/-! ### FENCE (R110, R374) -/

/-- An engine operation of the thread has destination writes left: a copy that is not cancelled, a gather, a row operation, or
a KSEND not yet applied to its bin. -/
def State.enginesBusy (s : State) (c uid : Nat) : Bool :=
  ((s.core c).transfers.any fun x => x.uid == some uid && x.state != .cancelled && decide (x.next < x.words)) ||
    (s.gathers.any fun g => g.uid == uid) || (s.rowOps.any fun r => r.uid == uid) || (s.sends.any fun x => x.uids.contains uid)

/-- A store of the thread, or of an engine that it launched, has not reached its coherence point. -/
def State.incoherent (s : State) (uid : Nat) : Bool := s.outward.any fun o => o.uid == some uid

/-- A buffered entry is sent on. -/
def State.sendOn (s : State) (id : Nat) : State :=
  { s with sends := s.sends.map fun x : Send => if x.id = id then { x with buffered := false } else x }.postNow (.binUpdate id)

/-- The entries that hold a send of the thread are sent on (R244). -/
def State.flushSends (s : State) (uid : Nat) : State :=
  ((s.sends.filter fun x => x.buffered && x.uids.contains uid).map (·.id)).foldl (fun s i => s.sendOn i) s

/-- The form of FENCE: every field is reserved. -/
def fmtFence (d a b : BitVec 6) (e f : BitVec 1) : Form := { Form.plain with rsvd := nz d || nz a || nz b || nz e || nz f }

/-- FENCE.t: the thread's earlier accesses. -/
def execFenceT (d a b : BitVec 6) (e f : BitVec 1) (s : State) : Host.Outcome State Fault Refusal :=
  s.issue (.fenceT d a b e f) (fun _ _ => fmtFence d a b e f) fun c s => c.ordered s fun p => c.done p

/-- FENCE.d: also the engine operations. -/
def execFenceD (d a b : BitVec 6) (e f : BitVec 1) (s : State) : Host.Outcome State Fault Refusal :=
  s.issue (.fenceD d a b e f) (fun _ _ => fmtFence d a b e f) fun c s =>
    c.ordered s fun p => if s.enginesBusy c.t.core c.uid then c.block (s.flushSends c.uid) .engines else c.done p

/-- FENCE.s: also the coherence points of stores that leave the part (R111). -/
def execFenceS (d a b : BitVec 6) (e f : BitVec 1) (s : State) : Host.Outcome State Fault Refusal :=
  s.issue (.fenceS d a b e f) (fun _ _ => fmtFence d a b e f) fun c s =>
    c.ordered s fun p =>
      if s.enginesBusy c.t.core c.uid then c.block s .engines
      else if s.incoherent c.uid then c.block s .coherence
      else c.done p

/-! ### HALLOC, HALLOC.nf, HFREE -/

/-- HALLOC and HALLOC.nf (R98, R99, R101, R392). HALLOC.nf can meet no trap at its unit: it is on its way there, and its thread goes
on (R104). -/
def State.allocForm (s : State) (i : Instr) (d a b : BitVec 6) (e f : BitVec 1) (nf : Bool) : Host.Outcome State Fault Refusal :=
  s.issue i (fun _ _ => fmtR1 d a b e f) fun c s =>
    c.ordered s fun p =>
      let desc := (s.tenant c.t.tenant).heapdesc
      if nf then c.send p { Access.blank .alloc 0 0 with val := c.a, val2 := desc, dst := c.dst? }
      else match p.allocBlock c.t.tenant c.t.core c.a.toNat desc with
      | (some va, p) => c.finishLater p (w64 va)
      | (none, _) => c.trap s 0x20 c.a

/-- HALLOC: *heap exhausted* when no block is found. -/
def execHalloc (d a b : BitVec 6) (e f : BitVec 1) (s : State) : Host.Outcome State Fault Refusal :=
  s.allocForm (.halloc d a b e f) d a b e f false

/-- HALLOC.nf: 0 when no block is found. -/
def execHallocNf (d a b : BitVec 6) (e f : BitVec 1) (s : State) : Host.Outcome State Fault Refusal :=
  s.allocForm (.hallocNf d a b e f) d a b e f true

/-- HFREE (R98, R100, R393). -/
def execHfree (d a b : BitVec 6) (e f : BitVec 1) (s : State) : Host.Outcome State Fault Refusal :=
  s.issue (.hfree d a b e f) (fun _ _ => { Form.plain with a := opA .src a e, rsvd := nz d || nz b || nz f }) fun c s =>
    c.ordered s fun p =>
      match lookup? (p.tenant c.t.tenant).live c.a.toNat with
      | none => c.trap s 0x21 c.a
      | some _ =>
        match p.wrongFree c.t.tenant with
        | (true, _) => c.trap (s.wrongFree c.t.tenant).2 0x21 c.a
        | (false, p) => c.done (p.modTenant c.t.tenant fun t => { t with live := erase t.live c.a.toNat })

end Sys2Proof.Machine
end

