-- ==== Sys2Proof/Machine/Bins.lean ====
section
/-! DEFINITION. Key-routed sends: KSEND, KBIN, KFLUSH and the steps of the combining buffers and receive units (major 0x2A fn 12-14;
R227, R239-R246, R400-R403). -/

namespace Sys2Proof.Machine

/-! ### Bin sets (R239-R241) -/

/-- The configuration of a bin set: words 0 and 1 of its descriptor. -/
abbrev BinSet := Word × Word

namespace BinSet
def core0 (b : BinSet) : Nat := fieldOf b.1 0 11
def cores (b : BinSet) : Nat := fieldOf b.1 16 11
def op (b : BinSet) : Nat := fieldOf b.1 32 3
def hsel (b : BinSet) : Nat := fieldOf b.1 36 2
def base (b : BinSet) : Nat := fieldOf b.2 0 20
def bins (b : BinSet) : Nat := fieldOf b.2 32 32
/-- Bytes of a bin. -/
def size (b : BinSet) : Nat := if b.op = 2 then 64 else 8
/-- The core and the scratchpad offset of the bin of a key (R241). -/
def place (b : BinSet) (key : Word) : Nat × Nat :=
  let total := b.cores * b.bins
  let n := if b.hsel = 0 then key.toNat % total
    else (key * 0x9E3779B97F4A7C15).toNat / 2 ^ 32 * total / 2 ^ 32
  (b.core0 + n / b.bins, b.base + n % b.bins * b.size)
end BinSet

/-- The fields of a descriptor are good (R239). -/
def State.goodBins (s : State) (tenant : Nat) (b : BinSet) : Bool :=
  decide (1 ≤ b.cores) && decide (b.op < 6) && decide (b.hsel < 2) && decide (b.base % b.size = 0) && decide (1 ≤ b.bins) &&
    (List.range b.cores).all fun i => decide (b.core0 + i < Config.cores) && (s.tenant tenant).hasCore (b.core0 + i) &&
      s.allots tenant (b.core0 + i) b.base (b.bins * b.size)

/-- KBIN (R240, R403). -/
def execKbin (d a b : BitVec 6) (e f : BitVec 1) (s : State) : Host.Outcome State Fault Refusal :=
  s.issue (.kbin d a b e f) (fun _ _ => { Form.plain with a := opA .src a e, b := opB .src b f, rsvd := nz d }) fun c s =>
    let n := c.a.toNat
    if 63 < n then c.trap s 0x09 c.a
    else if c.b.toNat % 32 ≠ 0 then c.trap s 0x0A c.b
    else if c.b = 0 then c.ordered s fun p => c.done (p.modTenant c.t.tenant fun t => { t with bins := erase t.bins n })
    else c.reach s c.b 32 true false false fun pa =>
      c.ordered s fun _ =>
        c.readWords s c.b pa 4 fun ws s p =>
          let set : BinSet := (ws.getD 0 0, ws.getD 1 0)
          if p.goodBins c.t.tenant set then c.done (p.modTenant c.t.tenant fun t => { t with bins := insert t.bins n set })
          else c.trap s 0x09 c.b

/-! ### KSEND (R242, R244, R401) -/

/-- KSENDs of a thread that are not applied yet. -/
def State.sendsOf (s : State) (uid : Nat) : Nat := (s.sends.map fun x => x.uids.count uid).foldl (· + ·) 0

/-- The value that a send carries: for OP 2 units of 2^-149, or the flags PINF, NINF and NAN. -/
def sendValue (op : Nat) (v : Word) : Int × BitVec 3 :=
  match op with
  | 0 => (fieldOf v 0 32, 0)
  | 2 =>
    match fp32.unpack (fieldOf v 0 32) with
    | .nan _ => (0, 4)
    | .inf neg => (0, if neg then 2 else 1)
    | .fin neg m e =>
      let n : Int := ((m <<< (e + 149).toNat : Nat) : Int)
      (if neg then -n else n, 0)
  | 5 => (1, 0)
  | _ => (v.toInt, 0)

/-- Two values of one bin set and key combine (R244). -/
def combine (op : Nat) (x y : Int) : Int :=
  match op with
  | 3 => max x y
  | 4 => min x y
  | _ => x + y

/-- The entries of a core's combining buffer. -/
def State.buffer (s : State) (c : Nat) : List Send := s.sends.filter fun x => x.buffered && x.from_ == c

/-- Two sends merge: one tenant, set and key, under one configuration of the set (R241, R244). -/
def Send.merges (x y : Send) : Bool :=
  x.buffered && x.from_ == y.from_ && x.tenant == y.tenant && x.set == y.set && x.key == y.key && x.op == y.op &&
    x.core == y.core && x.off == y.off

/-- An entry into which a send has merged. It is a dusk or a curator-level update when both are (log entry 72). -/
def Send.merge (z x : Send) : Send :=
  { z with uids := z.uids ++ x.uids, value := combine x.op z.value x.value, flags := z.flags ||| x.flags, dusk := z.dusk && x.dusk,
           curatorLevel := z.curatorLevel && x.curatorLevel }

/-- A new send enters the network, or the combining buffer of its core: it merges, or takes an entry, for which the buffer may have
to send one on. -/
def State.enterSend (s : State) (x : Send) : State :=
  if x.op = 0 then { s with sends := s.sends ++ [x] }.postNow (.binUpdate x.id)
  else
    match s.sends.find? fun y => y.merges x with
    | some y =>
      { s with sends := s.sends.map fun z : Send => if z.id = y.id then z.merge x else z }
    | none =>
      let full := s.buffer x.from_
      let s :=
        if full.length < Config.combineEntries then s
        else
          let (k, s) := s.pick full.length
          match full[k]? with
          | some y => s.sendOn y.id
          | none => s
      { s with sends := s.sends ++ [{ x with buffered := true }] }.post (s.now + 512) (.combiningEntryTimeout x.id)

/-- KSEND: the set number names no register. -/
def execKsend (n a b : BitVec 6) (e f : BitVec 1) (s : State) : Host.Outcome State Fault Refusal :=
  s.issue (.ksend n a b e f) (fun _ _ => { Form.plain with a := opA .src a e, b := opB .src b f }) fun c s =>
    match lookup? (s.tenant c.t.tenant).bins n.toNat with
    | none => c.trap s 0x09 (w64 n.toNat)
    | some set =>
      if Config.sendLimit ≤ s.sendsOf c.uid then c.block s (.sends Config.sendLimit)
      else
        let p := c.popped
        let v := sendValue (BinSet.op set) c.b
        let at_ := BinSet.place set c.a
        let x : Send :=
          { id := p.nextId, uids := [c.uid], tid := c.t.tid, tenant := c.t.tenant, from_ := c.t.core, curatorLevel := c.t.level == .curator,
            dusk := p.classOf c.t == .dusk, set := n.toNat, key := c.a, op := BinSet.op set, core := at_.1, off := at_.2, value := v.1, flags := v.2, since := p.now,
            buffered := false }
        c.done ({ p with nextId := p.nextId + 1 }.enterSend x)

/-- COMBINING_ENTRY_TIMEOUT: an entry is 512 cycles old (R244). -/
def execCombiningEntryTimeout (id : Nat) (s : State) : Host.Outcome State Fault Refusal :=
  .next (match s.sends.find? fun x => x.id == id with
    | none => s
    | some x => if x.buffered ∧ x.since + 512 ≤ s.now then s.sendOn id else s)

/-! ### The receive units (R242, R243, R246) -/

/-- The value and the flags of an exact bin. -/
def State.exactBin (s : State) (pa : Nat) : Int × Nat :=
  ((BitVec.ofNat 320 (s.read pa 40)).toInt, fieldOf (s.word (pa + 40)) 0 4)

/-- An exact bin after an addition (R243). -/
def exactBinAdd (v : Int) (fl : Nat) (x : Int) (flags : BitVec 3) : Nat × Nat :=
  let sum := v + x
  let out := decide (sum < -(2 ^ 319)) || decide ((2 : Int) ^ 319 ≤ sum)
  ((BitVec.ofInt 320 sum).toNat, fl ||| flags.toNat ||| (if out then 8 else 0))

/-- The words that an update writes, with their addresses (R242, R243). -/
def State.binWords (s : State) (x : Send) (pa : Nat) : List (Nat × Word) :=
  let old := s.word pa
  match x.op with
  | 0 => [(pa, w64 (fp32.add .rne (fp32.unpack (fieldOf old 0 32)) (fp32.unpack x.value.toNat)).1)]
  | 2 =>
    let b := s.exactBin pa
    let r := exactBinAdd b.1 b.2 x.value x.flags
    ((List.range 5).map fun i => (pa + 8 * i, w64 (r.1 / 2 ^ (64 * i)))) ++ [(pa + 40, setField (s.word (pa + 40)) 0 4 r.2)]
  | 3 => [(pa, wordI (max old.toInt x.value))]
  | 4 => [(pa, wordI (min old.toInt x.value))]
  | _ => [(pa, old + wordI x.value)]

/-- The update of a send is dropped: it counts for its threads (R242, R245, R266). -/
def State.dropSend (s : State) (x : Send) : State :=
  x.uids.foldl (fun s u => s.modThread u fun t => { t with dropped := t.dropped + 1 }) s

/-- The words of a bin. -/
def binSpan (op pa : Nat) : List Nat := if op = 2 then (List.range 8).map fun i => pa + 8 * i else [pa]

/-- The receive unit of a core takes no update: the core refuses the tenant (R266), or a word of the bin is poisoned (R242). -/
def State.binRefused (s : State) (core : Nat) (from_ : Option Nat) (tenant : Nat) (curator : Bool) (ws : List Nat) : Bool :=
  s.refusesCore core from_ tenant curator || ws.any fun w => s.poisoned w

/-- A curfew has stopped every thread whose update the send holds: it falls out (R264, R265). One that a standby thread shares is
performed. -/
def State.sendStopped (s : State) (x : Send) : Bool := x.uids.all fun u => s.engineStopped x.from_ u

/-- A send may be performed: it is in the network, no curfew has stopped it, and the messages of its watch events have room (R83). -/
def State.sendMayGo (s : State) (x : Send) : Bool := !x.buffered && !s.sendStopped x && s.mayWrite (binSpan x.op (spadPa x.core x.off))

/-- Writes the words of an update; P stays as it is. -/
def State.writeBin (s : State) (tenant : Nat) (ws : List (Nat × Word)) : State :=
  ws.foldl (fun s e => s.engineWrite e.1 e.2 (.unit tenant) false (none, none)) s

/-- BIN_UPDATE (R242, R246). -/
def execBinUpdate (id : Nat) (s : State) : Host.Outcome State Fault Refusal :=
  .next (match s.sends.find? fun x => x.id == id with
    | none => s
    | some x =>
      let pa := spadPa x.core x.off
      let ws := binSpan x.op pa
      if !s.sendMayGo x then s
      else
        let s := { s with sends := s.sends.filter fun y => !(y.id == id) }
        let s := ws.foldl (fun s w => s.checkEcc w) (s.recallFor pa x.tenant x.dusk)
        if s.binRefused x.core (some x.from_) x.tenant x.curatorLevel ws then s.dropSend x
        else s.writeBin x.tenant (s.binWords x pa))

/-! ### KFLUSH (R245, R402) -/

/-- Requests the round-outs of every bin of a set; how many. -/
def State.requestRoundOuts (s : State) (uid : Nat) (b : BinSet) : State :=
  (List.range b.cores).foldl (fun s i => (List.range b.bins).foldl (fun s k =>
    let r : RoundOut := { id := s.nextId, uid := uid, core := b.core0 + i, off := b.base + k * 64 }
    { s with roundOuts := s.roundOuts ++ [r], nextId := s.nextId + 1 }.postNow (.binRoundOut r.id)) s) s

/-- The set that a KFLUSH rounds out: ga bit 8 asks for it, and its OP is 2. -/
def State.roundSet (s : State) (tenant : Nat) (a : Word) : Option BinSet :=
  if a.toNat.testBit 8 then (lookup? (s.tenant tenant).bins (fieldOf a 0 6)).filter fun b => BinSet.op b == 2 else none

/-- KFLUSH: its earlier KSENDs are applied, then its round-outs are performed. -/
def execKflush (d a b : BitVec 6) (e f : BitVec 1) (s : State) : Host.Outcome State Fault Refusal :=
  s.issue (.kflush d a b e f) (fun _ _ => fmtR1 d a b e f) fun c s =>
    let finish : State := c.done ((c.put c.popped (w64 c.t.dropped)).modThread c.uid fun t => { t with dropped := 0 })
    if c.t.phase ≠ 0 then (if s.roundOuts.any fun r => r.uid == c.uid then c.block s .roundOuts else finish)
    else if s.sendsOf c.uid ≠ 0 then c.block (s.flushSends c.uid) (.sends 1)
    else match s.roundSet c.t.tenant c.a with
    | none => finish
    | some set => c.block ((s.requestRoundOuts c.uid set).modThread c.uid fun t => { t with phase := 1 }) .roundOuts

/-- The round-out of an exact bin (R169, R245). -/
def roundOut (v : Int) (fl : Nat) : Nat :=
  if fl.testBit 2 || fl.testBit 3 || (fl.testBit 0 && fl.testBit 1) then 0x7FC00000
  else if fl.testBit 0 then fp32.inf false
  else if fl.testBit 1 then fp32.inf true
  else if v = 0 then 0
  else (fp32.round .rne false (decide (v < 0)) v.natAbs (-149)).1

/-- A round-out is performed. -/
def State.performRoundOut (s : State) (r : RoundOut) : State :=
  let t? := s.thread? r.uid
  let pa := spadPa r.core r.off
  let tenant := (t?.map (·.tenant)).getD 0
  let ws := binSpan 2 pa
  let s := { s with roundOuts := s.roundOuts.filter fun x => !(x.id == r.id) }
  let s := ws.foldl (fun s w => s.checkEcc w) (s.recallFor pa tenant ((t?.map fun t => s.classOf t == .dusk).getD false))
  if s.binRefused r.core (t?.map (·.core)) tenant ((t?.map fun t => t.level == .curator).getD false) ws then s
  else
    let x := s.exactBin pa
    s.writeBin tenant [(pa + 48, setField (s.word (pa + 48)) 0 32 (roundOut x.1 x.2))]

/-- The messages of the watch event of a round-out have room (R83). -/
def State.roundOutMayGo (s : State) (r : RoundOut) : Bool := s.mayWrite [spadPa r.core r.off + 48]

/-- BIN_ROUND_OUT (R245). -/
def execBinRoundOut (id : Nat) (s : State) : Host.Outcome State Fault Refusal :=
  .next (match s.roundOuts.find? fun r => r.id == id with
    | none => s
    | some r => if s.roundOutMayGo r then s.performRoundOut r else s)

end Sys2Proof.Machine
end

