-- ==== Sys2Proof/Machine/Fetch.lean ====
section
/-! DEFINITION. Fetching (R108, R57, R186, R399): the word that a thread executes next, from memory, from its repetition body or
from its retry latch, and what a failed fetch does. -/

namespace Sys2Proof.Machine

/-- The outcome of a fetch of one word. -/
inductive Fetched where
  | word (w : InstWord)
  | bad (cause : BitVec 8)
  deriving DecidableEq, Repr

/-- The instruction word at a virtual address (R21, R94, R108). A poisoned word is a read of poison (R86). -/
def State.fetchAt (s : State) (t : Thread) (pc : Word) : Fetched :=
  match s.resolve t.viewer pc.toNat 4 .fetch with
  | .ok pa => if s.unreadable pa then .bad 0x0E else .word (BitVec.ofNat 32 (s.read pa 4))
  | .bad c => .bad c
  | .miss => .bad 0x08

/-- The `n` words from `pc` on, or the cause and the address of the first that cannot be fetched. -/
def State.fetchBody (s : State) (t : Thread) : (n : Nat) → (pc : Word) → Except (BitVec 8 × Word) (List InstWord)
  | 0, _ => .ok []
  | n + 1, pc =>
    match s.fetchAt t pc with
    | .bad c => .error (c, pc)
    | .word w =>
      match s.fetchBody t n (pc + 4) with
      | .ok ws => .ok (w :: ws)
      | .error e => .error e

/-- What a thread does at its next issue: it executes an instruction, or something has been done in its place. -/
inductive Next where
  | run (i : Instr) (s : State)
  | stop (s : State)
  deriving DecidableEq, Repr

/-- A fetch fails (R397, R399): it is raised at the instruction that was to be fetched. A replayable cause holds the fetch. The
word that FLTINST and the latch show is a free value. -/
def State.fetchFailed (s : State) (t : Thread) (cause : BitVec 8) (pc : Word) : State :=
  let w := s.free.1.setWidth 32
  let s := s.free.2
  if replayable cause then (s.issued t.uid w).hold t.uid cause pc 0 w w false true false
  else s.trapAt t cause pc w w

/-- A word is decoded and is the thread's next instruction; a word that is none takes *illegal instruction* (R30). -/
def State.decoded (s : State) (t : Thread) (w : InstWord) : Next :=
  match decodeWord w with
  | .ok i => .run i s
  | .error _ => .stop (match t.hit with | some v => s.trapAt t 0x2A v w w | none => s.trapAt t 0x01 0 w w)

/-- The next instruction of the thread `uid`: a replay of its latch, a body word, or the word at its PC. The word at the PC is read at the
instant of the issue; R108 lets it be read earlier (log entry 86). -/
def State.fetch (s : State) (uid : Nat) : Next :=
  let s := { s with cur := uid }
  match s.thread? uid with
  | none => .stop s
  | some t =>
    -- an uncorrectable error in a part of the context that is no general register (R259)
    if t.ecc = .double then .stop (s.loseThread t)
    else match t.dueTrap with
    | some d => .stop ((if d.counted then s else s.issued uid d.word).takeTrap uid d.cause d.val d.word d.shown)
    | none =>
    match t.latch.filter fun l => l.trapped || (t.replay && !l.fetch) with
    | some l => if l.trapped then .stop ((if t.owed.isEmpty && !s.drained uid then s else s.issued uid l.word).trapHeld uid) else s.decoded t l.word
    | none =>
      match t.rep with
      | none =>
        match s.fetchAt t t.pc with
        | .word w => s.decoded t w
        | .bad c => .stop (s.fetchFailed t c t.pc)
      | some r =>
        match r.body[r.idx]? with
        | some w => s.decoded t w
        | none =>
          match s.fetchBody t r.len r.start with
          | .error e => .stop (s.fetchFailed t e.1 e.2)
          | .ok ws =>
            let s := s.setThread { t with rep := some { r with body := ws } }
            match ws[r.idx]? with
            | some w => s.decoded t w
            | none => .stop (s.trapAt t 0x01 0 0 0)

end Sys2Proof.Machine
end

