-- ==== Sys2Proof/Machine/Branch.lean ====
section
/-! DEFINITION. Branches, jumps, REP and hints: majors 0x18-0x1C and 0x3F (R34, R185-R187, R345, R346, R397-R399, R433). -/

namespace Sys2Proof.Machine

/-- Completes an instruction whose successor is `pc`, outside every loop (R187). -/
def Ctx.goTo (c : Ctx) (s : State) (pc : Word) : State :=
  match s.thread? c.uid with
  | none => s
  | some t =>
    (s.setThread (((t.completed (s.core t.core).prove c.raw c.rsvd false c.row).jump pc).setStat .ready)).boundary c.uid

/-- B (R345, R346): condition 6 reads no register; condition 7 is fallback row 5, always taken (R326). -/
def execB (a b : BitVec 6) (k : BitVec 3) (o : BitVec 11) (s : State) : Host.Outcome State Fault Refusal :=
  s.issue (.b a b k o) (fun _ _ =>
    if k.toNat < 6 then
      { Form.plain with a := { opA .src a 0 with lo := 20 }, b := { opB .src b 0 with lo := 14 } }
    else { Form.plain with rsvd := k = 6 && (nz a || nz b), row := if k = 7 then 5 else 0 }) fun c _ =>
    if 6 ≤ k.toNat ∨ condHolds k.toNat c.a c.b = true then c.goTo c.popped (c.t.pc + (sextTo 11 o <<< 2)) else c.done c.popped

/-- J (R397). -/
def execJ (o : BitVec 26) (s : State) : Host.Outcome State Fault Refusal :=
  s.issue (.j o) (fun _ _ => Form.plain) fun c _ => c.goTo c.popped (c.t.pc + (sextTo 26 o <<< 2))

/-- JAL (R398). -/
def execJal (d : BitVec 6) (o : BitVec 20) (s : State) : Host.Outcome State Fault Refusal :=
  s.issue (.jal d o) (fun _ _ => fmtU d) fun c _ =>
    c.goTo (c.put c.popped (c.t.pc + 4)) (c.t.pc + (sextTo 20 o <<< 2))

/-- JALR: bits 1:0 of the target are cleared; ea is reserved (R399, R324). -/
def execJalr (d a : BitVec 6) (e : BitVec 1) (i : BitVec 13) (s : State) : Host.Outcome State Fault Refusal :=
  s.issue (.jalr d a e i) (fun _ _ => { fmtI d a 0 with rsvd := nz e }) fun c _ =>
    c.goTo (c.put c.popped (c.t.pc + 4)) (handlerPc (c.a + sextTo 13 i))

/-- The pass count of REP after its limit (R186). -/
def repCount (a : Word) : Nat := Nat.min a.toNat 4096

/-- REP (R185-R187, R433): in a body it is illegal; the body is fetched with it, and a count of 0 skips the body. -/
def execRep (k : BitVec 6) (a : BitVec 6) (e : BitVec 1) (r : BitVec 9) (l : BitVec 4) (s : State) : Host.Outcome State Fault Refusal :=
  s.issue (.rep k a e r l) (fun t _ =>
    { Form.plain with a := opA .src a e, rsvd := nz r, illegal := t.rep.isSome }) fun c s =>
    let len := l.toNat + 1
    match s.fetchBody c.t len (c.t.pc + 4) with
    | .error (cause, pc) => c.raise s cause pc
    | .ok body =>
      if repCount c.a = 0 then c.goTo c.popped (c.t.pc + 4 + w64 (4 * len))
      else
        let loop : Rep := { start := c.t.pc + 4, len := len, cnt := repCount c.a, stride := k, pass := 0, idx := 0, body := body }
        let s := c.goTo c.popped (c.t.pc + 4)
        s.modThread c.uid fun t => { t with rep := some loop }

/-- A hint: a NOP; a word other than 0xFC00_0000 sets PWARN.HINTW in proving mode (R33-R35). -/
def execHint (h : BitVec 26) (s : State) : Host.Outcome State Fault Refusal :=
  s.issue (.hint h) (fun _ _ => Form.plain) fun c _ => c.popped.retire c.uid c.raw false (nz h) 0

end Sys2Proof.Machine
end

