-- ==== Sys2Proof/Machine/Watching.lean ====
section
/-! DEFINITION. WATCH and UNWATCH: major 0x16, fn 2 and 3 (R81, R316, R449, R454, R465, R466). -/

namespace Sys2Proof.Machine

/-- The pages of a range with WR, all of them tagged, or the trap. The range is translated through the page tables of the tenant for which
the thread acts; a miss is held (R58, R316, R466). -/
def Ctx.watchPages (c : Ctx) (s : State) (va len : Nat) (k : List (Nat × Nat × Nat) → State) : State :=
  c.pagesOf s c.t.acting va len .write (fun cause a => c.raise s cause (w64 a)) fun ps =>
    match ps.find? fun p => !tagged p.2.1 with
    | some p => c.trap s 0x09 (w64 p.1)
    | none => k ps

/-- WATCH (R465, R466). -/
def execWatch (d a b : BitVec 6) (e f : BitVec 1) (s : State) : Host.Outcome State Fault Refusal :=
  s.issue (.watch d a b e f) (fun _ _ => fmtR d a b e f) fun c s =>
    let len := fieldOf c.b 0 32
    let act := fieldOf c.b 32 2
    let target := fieldOf c.b 44 20
    let tenant := c.t.actsFor
    if c.a.toNat % 64 ≠ 0 ∨ len % 64 ≠ 0 then c.trap s 0x0A c.a
    else if act < 2 then c.trap s 0x09 c.b
    else if act = 3 ∧ (s.tenant tenant).hasCore (tidCore target) = false then c.trap s 0x09 c.b
    else if len = 0 then c.finish 0
    else c.watchPages s c.a.toNat len fun ps =>
      c.ordered s fun p =>
        let runs := runsOf c.a.toNat [] ps
        let es := p.entriesFor runs
        if !p.tablesHold es then c.done (c.put p 0)
        else
          let arg : BitVec 32 := BitVec.ofNat 32 (if act = 2 then fieldOf c.b 34 2 + tenant * 256 else target)
          let by_ := if c.t.level = .curator then Installer.debug else Installer.watch
          let p := p.installWatch es runs tenant act arg by_ ((p.holder? target).map (·.uid))
          c.done (c.put p (w64 es.length))

/-- The bytes from `lo` to `hi - 1` lie in the resolved pages. -/
def covered (ps : List (Nat × Nat × Nat)) : (fuel lo hi : Nat) → Bool
  | 0, lo, hi => decide (hi ≤ lo)
  | fuel + 1, lo, hi =>
    decide (hi ≤ lo) ||
      match ps.find? fun p => decide (p.2.1 ≤ lo) && decide (lo < p.2.1 + p.2.2) with
      | some p => covered ps fuel (p.2.1 + p.2.2) hi
      | none => false

/-- UNWATCH removes this entry (R454). -/
def WatchEntry.removable (e : WatchEntry) (t : Thread) (ps : List (Nat × Nat × Nat)) : Bool :=
  (match e.installer with
   | .watch => true
   | .debug => t.level == .curator
   | _ => false) && e.tenant == t.actsFor && covered ps (ps.length + 1) e.lo e.hi

/-- UNWATCH (R454). -/
def execUnwatch (d a b : BitVec 6) (e f : BitVec 1) (s : State) : Host.Outcome State Fault Refusal :=
  s.issue (.unwatch d a b e f) (fun _ _ => { Form.plain with a := opA .src a e, b := opB .src b f, rsvd := nz d }) fun c s =>
    if c.a.toNat % 64 ≠ 0 ∨ c.b.toNat % 64 ≠ 0 then c.trap s 0x0A c.a
    else if c.b = 0 then c.done c.popped
    else c.watchPages s c.a.toNat c.b.toNat fun ps => c.ordered s fun p => c.done { p with watch := p.watch.filter fun e => !(e.removable c.t ps) }

end Sys2Proof.Machine
end

