-- ==== Sys2Proof/Machine/Folios.lean ====
section
/-! DEFINITION. Folios: FPIN, FUNP, FREF, FREV, FQRY, the loader and folio-store errors (major 0x2C fn 8-12; R202, R210-R217, R220,
R221, R376-R381, R384, R481). -/

namespace Sys2Proof.Machine

/-! ### Formats and descriptors (R202, R211) -/

/-- A folio format: bits of an element, segment depth, feed-ring slots of a segment, and whether it has scales. -/
structure FolioFmt where
  width : Nat
  depth : Nat
  slots : Nat
  mx : Bool
  deriving DecidableEq, Repr

/-- The formats of R202, by their code. -/
def folioFmt? (code : Nat) : Option FolioFmt :=
  match code with
  | 2 | 3 => some { width := 16, depth := 64, slots := 2, mx := false }
  | 4 | 5 | 12 | 13 => some { width := 8, depth := 64, slots := 1, mx := false }
  | 6 | 7 => some { width := 8, depth := 64, slots := 1, mx := true }
  | 8 => some { width := 4, depth := 128, slots := 1, mx := true }
  | _ => none

/-- The eight words of a folio descriptor. -/
abbrev FolioDesc := List Word

def FolioDesc.src (d : FolioDesc) : Nat := fieldOf (d.getD 0 0) 0 52
def FolioDesc.k (d : FolioDesc) : Nat := fieldOf (d.getD 1 0) 0 32
def FolioDesc.n (d : FolioDesc) : Nat := fieldOf (d.getD 1 0) 32 32
def FolioDesc.code (d : FolioDesc) : Nat := fieldOf (d.getD 3 0) 0 4
def FolioDesc.nMajor (d : FolioDesc) : Bool := (d.getD 3 0).toNat.testBit 4
def FolioDesc.replicate (d : FolioDesc) : Bool := (d.getD 3 0).toNat.testBit 5
def FolioDesc.auto (d : FolioDesc) : Bool := (d.getD 3 0).toNat.testBit 8
/-- The rows of ROWS, counted upward. -/
def FolioDesc.rows (d : FolioDesc) : List Nat := below Config.rows fun w => (d.getD 2 0).toNat.testBit w
def FolioDesc.fmt (d : FolioDesc) : FolioFmt := (folioFmt? d.code).getD { width := 8, depth := 64, slots := 1, mx := false }

/-- Some field of the descriptor is bad (R211). -/
def FolioDesc.bad (d : FolioDesc) : Bool :=
  match folioFmt? d.code with
  | none => true
  | some f =>
    decide (d.src % 64 ≠ 0) || decide (d.k = 0) || decide (d.k % f.depth ≠ 0) || decide (d.n = 0) || decide (d.n % 64 ≠ 0) ||
      d.rows.isEmpty ||
      (if d.replicate then decide (1024 < d.n)
       else decide (d.n ≤ 1024 * (d.rows.length - 1)) || decide (1024 * d.rows.length < d.n))

/-- The bytes of the elements, and of the source range. -/
def FolioDesc.elementBytes (d : FolioDesc) : Nat := d.k * d.n * d.fmt.width / 8
def FolioDesc.bytes (d : FolioDesc) : Nat := d.elementBytes + (if d.fmt.mx then d.k / 32 * d.n else 0)

/-- The first N column of an array core of the row at position `i` of ROWS (R204, R211). -/
def FolioDesc.column (d : FolioDesc) (i slot : Nat) : Nat := (if d.replicate then 0 else 1024 * i) + 64 * slot

/-- The cores that hold columns. -/
def FolioDesc.cores (d : FolioDesc) : List Nat :=
  (List.range d.rows.length).flatMap fun i =>
    (below 16 fun j => decide (d.column i j < d.n)).map fun j => rowCore (d.rows.getD i 0) j

/-- The folio-store pages of a holding core (R212). -/
def FolioDesc.pages (d : FolioDesc) : Nat :=
  ceilDiv (d.k * 64 * d.fmt.width / 8 + (if d.fmt.mx then d.k / 32 * 64 else 0)) 65536

/-! ### The folio table -/

/-- The shelfmark of an entry (R210). -/
def shelfmark (idx : Nat) (check : BitVec 12) : Word := w64 (idx * 2 ^ 20 + check.toNat * 2 ^ 8)

/-- The live folio of a tenant that a shelfmark names (R220). -/
def State.liveFolio? (s : State) (tenant : Nat) (v : Word) : Option (Nat × Folio) :=
  let i := fieldOf v 20 12
  match s.folio? i with
  | some f => if v = shelfmark i f.check ∧ f.tenant = tenant ∧ f.state ≠ .revoked then some (i, f) else none
  | none => none

def Folio.pageCount (f : Folio) : Nat := (f.held.map (·.2)).foldl (· + ·) 0

/-- Pages that count against the tenant's quota (R213). -/
def State.folioUsed (s : State) (tenant : Nat) : Nat :=
  ((s.folios.filter fun e => e.2.tenant == tenant && (match e.2.state with | .loading | .ready | .stale => true | _ => false)).map
    fun e => e.2.pageCount).foldl (· + ·) 0

/-- Free folio-store pages of a core. -/
def State.folioFree (s : State) (c : Nat) : Nat :=
  Config.folioPages - ((s.folios.map fun e => ((e.2.held.filter fun h => h.1 == c).map (·.2)).foldl (· + ·) 0).foldl (· + ·) 0)

/-- The operations that have started and not completed and that name an entry: those of the rows, and those that a curfew has saved
(R215, R226). -/
def State.usersOfFolio (s : State) (idx : Nat) : List RowRun :=
  (s.rows ++ (s.images.filter (·.live)).flatMap (·.rows)).filterMap fun e => e.2.run.filter fun r => r.folio == idx

/-- In use (R215). -/
def State.folioInUse (s : State) (idx : Nat) : Bool := !(s.usersOfFolio idx).isEmpty

/-- Its contents are in use: an operation that still waits for the folio does not hold a deferred event back. -/
def State.contentsInUse (s : State) (idx : Nat) : Bool := (s.usersOfFolio idx).any fun r => !r.waiting

def State.modFolio (s : State) (idx : Nat) (f : Folio → Folio) : State :=
  match s.folio? idx with
  | some x => s.setFolio idx (f x)
  | none => s

/-- A folio becomes absent and its pages are released; a deferred reload stays due (R215). -/
def Folio.drop (f : Folio) (reason : Nat) : Folio :=
  { f with state := .absent, reason := reason, held := [], data := [], ecc := [], defer := if f.defer = .evict then .nothing else f.defer }

/-- Room for `need` pages of the tenant, `pg` on each of `cores`; tenant 0 has no quota (R473). -/
def State.folioRoom (s : State) (tenant need pg : Nat) (cores : List Nat) : Bool :=
  (decide (tenant = 0) || decide (s.folioUsed tenant + need ≤ (s.tenant tenant).folioQuota)) &&
    cores.all fun c => decide (pg ≤ s.folioFree c)

/-- Evicts candidates in turn until there is room; else whether a core lacked space (R212). -/
def State.evictFor (s : State) (tenant need pg : Nat) (cores : List Nat) : List Nat → Except Bool State
  | [] => if s.folioRoom tenant need pg cores then .ok s else .error (cores.any fun c => decide (s.folioFree c < pg))
  | i :: rest =>
    if s.folioRoom tenant need pg cores then .ok s
    else (s.modFolio i fun f => f.drop 0).evictFor tenant need pg cores rest

/-- The folios that FPIN or FREF of a tenant may evict, least recently used first; never `but`. -/
def State.evictable (s : State) (tenant but : Nat) : List Nat :=
  (sortBy (fun e => e.2.used) (s.folios.filter fun e =>
    e.1 != but && e.2.tenant == tenant && !e.2.pinned && !s.folioInUse e.1 &&
      (match e.2.state with | .ready | .stale => true | _ => false))).map (·.1)

/-- Gets the pages of a descriptor, evicting as FPIN does; *folio quota* with its FLTVAL when there is no room. -/
def State.acquirePages (s : State) (tenant but : Nat) (d : FolioDesc) : Except NoPages State :=
  let cores := d.cores
  let need := d.pages * cores.length
  match s.evictFor tenant need d.pages cores (s.evictable tenant but) with
  | .ok s => .ok s
  | .error lacked => .error (.bad 0x1B (need + bitNat lacked * 2 ^ 62))

/-- The physical runs of the source range, or the miss or the trap with its FLTVAL. A source word must be tagged: no other can be
watched. -/
def sourceRuns (f : Pager) (d : FolioDesc) : Except NoPages (List (Nat × Nat × Nat)) :=
  match copyEnd f d.src ((d.bytes + 63) / 64 * 64) .read with
  | .error e => .error e
  | .ok ps =>
    match ps.find? fun p => !tagged p.2.1 with
    | some p => .error (.bad 0x09 p.1)
    | none => .ok (runsOf d.src [] ps)

/-- The entries of a folio's source range. -/
def State.dropFolioWatch (s : State) (idx : Nat) : State := { s with watch := s.watch.filter fun e => e.installer != .folio idx }

/-- Installs the action-0 entries of a source range (R212). -/
def State.watchSource (s : State) (idx tenant : Nat) (runs : List (Nat × Nat × Nat)) : State :=
  s.installWatch (s.entriesFor runs) runs tenant 0 (BitVec.ofNat 32 idx) (.folio idx) none

/-- Starts the loader (R214, R215). -/
def State.startLoad (s : State) (idx : Nat) : State :=
  let s := s.modFolio idx fun f =>
    { f with state := .loading, chg := false, pinned := true, reason := 0, defer := .nothing, used := s.nextId,
             held := f.desc |> fun d : FolioDesc => d.cores.map fun c => (c, d.pages) }
  let s := { s with nextId := s.nextId + 1 }
  if s.posted (.folioLoadEnd idx) then s else s.postNow (.folioLoadEnd idx)

/-! ### FPIN (R212, R378) -/

def FolioState.num : FolioState → Nat
  | .loading => 0
  | .ready => 1
  | .stale => 2
  | .absent => 3
  | .revoked => 4

/-- The form of the folio and row instructions: illegal on a stack core (R18). -/
def arrayForm (t : Thread) (f : Form) : Form := { f with illegal := !isArray t.core }

/-- The lowest free index of the folio table; which free index FPIN takes is not given (log entry 81). -/
def State.freeFolio (s : State) : Option Nat := lowest Config.folioEntries fun i => (s.folio? i).isNone

/-- The descriptor without its reserved bits, which read as zero (R8). -/
def FolioDesc.defined (d : FolioDesc) : FolioDesc :=
  [w64 (fieldOf (d.getD 0 0) 0 52), d.getD 1 0, w64 (fieldOf (d.getD 2 0) 0 48), d.getD 3 0 &&& 0x13F, 0, 0, 0, 0]

/-- Creates a folio for a descriptor whose fields are good, or the cause and FLTVAL of the trap: nothing is changed by one. -/
def State.pinFolio (s : State) (pg : Pager) (tenant ga : Nat) (d : FolioDesc) : Except NoPages (Word × State) :=
  if d.bad then .error (.bad 0x18 ga)
  else if d.rows.any fun w => (List.range 16).any fun j => !(s.tenant tenant).hasCore (rowCore w j) then .error (.bad 0x09 ga)
  else match sourceRuns pg d with
  | .error e => .error e
  | .ok runs =>
    match s.acquirePages tenant Config.folioEntries d with
    | .error e => .error e
    | .ok s' =>
      match s.freeFolio with
      | none => .error (.bad 0x1B (2 ^ 63))
      | some i =>
        if !s.tablesHold (s.entriesFor runs) then .error (.bad 0x1B (2 ^ 63 + 1))
        else
          let check := lookupD s.folioChecks i 0 + 1
          let f : Folio :=
            { check := check, tenant := tenant, desc := d.defined, state := .loading, pinned := true, chg := false, reason := 0, held := [],
              runs := runs, data := [], ecc := [], defer := .nothing, used := 0 }
          let s := ({ s' with folioChecks := insert s'.folioChecks i check }.setFolio i f).watchSource i tenant runs
          .ok (shelfmark i check, s.startLoad i)

/-- What a thread meets whose folio has no pages: a miss is held, a fault is taken (R58, R212). -/
def Ctx.noPages (c : Ctx) (s : State) : NoPages → State
  | .miss va n => c.miss s (w64 va) (needCode true false n)
  | .bad cause v => c.raise s cause (w64 v)

/-- FPIN (R200, R212, R378). -/
def execFpin (d a b : BitVec 6) (e f : BitVec 1) (s : State) : Host.Outcome State Fault Refusal :=
  s.issue (.fpin d a b e f) (fun t _ => arrayForm t
    { Form.plain with a := opA .src a e, d := opD .dst d, rsvd := nz b || nz f }) fun c s =>
    c.ordered s fun _ => c.reach s c.a 64 true false false fun pa => c.readWords s c.a pa 8 fun ws s p =>
      match p.pinFolio (s.pager c.t) c.t.tenant c.a.toNat ws with
      | .error e => c.noPages s e
      | .ok (mark, p) => c.finishLater p mark

/-! ### FUNP, FREF, FREV, FQRY -/

/-- An instruction on a live shelfmark; another takes *bad shelfmark* (R220). -/
def State.onShelfmark (s : State) (i : Instr) (d a b : BitVec 6) (e f : BitVec 1) (k : Ctx → Nat → Folio → State → State → State) :
    Host.Outcome State Fault Refusal :=
  s.issue i (fun t _ => arrayForm t { Form.plain with a := opA .src a e, rsvd := nz d || nz b || nz f }) fun c s =>
    c.ordered s fun p =>
      match s.liveFolio? c.t.tenant c.a with
      | none => c.trap s 0x18 c.a
      | some (i, f) => k c i f s p

/-- FUNP (R384). -/
def execFunp (d a b : BitVec 6) (e f : BitVec 1) (s : State) : Host.Outcome State Fault Refusal :=
  s.onShelfmark (.funp d a b e f) d a b e f fun c i f _ p => c.done (p.setFolio i { f with pinned := false })

/-- The watch entries follow the source range when its pages have moved (R380); none when a watch table lacks room. -/
def State.moveWatch (s : State) (i : Nat) (f : Folio) (runs : List (Nat × Nat × Nat)) : Option State :=
  if runs = f.runs then some s
  else
    let s := s.dropFolioWatch i
    if s.tablesHold (s.entriesFor runs) then some ((s.modFolio i fun f => { f with runs := runs }).watchSource i f.tenant runs) else none

/-- The source range is translated again, the pages are acquired, and the watch entries follow the range (R380): the state, or the trap. -/
def State.readyReload (s : State) (pg : Pager) (i : Nat) (f : Folio) : Except NoPages State :=
  match sourceRuns pg f.desc with
  | .error e => .error e
  | .ok runs =>
    match (if f.held.isEmpty then s.acquirePages f.tenant i f.desc else .ok s) with
    | .error e => .error e
    | .ok s =>
      match s.moveWatch i f runs with
      | none => .error (.bad 0x1B (2 ^ 63 + 1))
      | some s => .ok s

/-- FREF of a folio: the state after it, or the trap (R215, R380). A folio that loads has its pages. -/
def State.refreshFolio (s : State) (pg : Pager) (i : Nat) (f : Folio) : Except NoPages State :=
  match s.readyReload pg i f with
  | .error e => .error e
  | .ok s =>
    .ok (if f.state = .loading then s.modFolio i fun f => { f with pinned := true }
      else if s.contentsInUse i then s.modFolio i fun f => { f with defer := .reload } else s.startLoad i)

/-- FREF (R215, R380). -/
def execFref (d a b : BitVec 6) (e f : BitVec 1) (s : State) : Host.Outcome State Fault Refusal :=
  s.onShelfmark (.fref d a b e f) d a b e f fun c i f s p =>
    match p.refreshFolio (s.pager c.t) i f with
    | .error e => c.noPages s e
    | .ok p => c.done p

/-- Changes the operations that name an entry. -/
def State.modUsers (s : State) (idx : Nat) (f : Row → RowRun → Row) : State :=
  { s with rows := s.rows.map fun e => (e.1, match e.2.run with
      | some r => if r.folio = idx then f e.2 r else e.2
      | none => e.2) }

/-- The operation takes no further segment and completes with a status; rows not yet dispatched stay as they stand (R224). -/
def RowRun.stop (r : RowRun) (status : Nat) : RowRun :=
  { r with ended := true, waiting := false, half := none, status := status, members := r.members.map fun m : RowMember => { m with todo := [], queued := [] } }

/-- A load has ended in `st`: the operations that waited for it go on, or complete (R221, R481). -/
def State.loaded (s : State) (idx : Nat) (st : FolioState) : State :=
  s.modUsers idx fun w r =>
    match st with
    | .absent => { w with run := some (r.stop 2), halted := false }
    | .stale => if r.waiting then { w with run := some (r.stop 3) } else { w with halted := false }
    | _ => { w with run := some { r with waiting := false }, halted := false }

/-- An event that waited for the last use of a folio takes effect (R215). The operations that wait for the folio meanwhile complete with
status 2 if it becomes absent (R224, R481). -/
def State.releaseFolio (s : State) (idx : Nat) : State :=
  match s.folio? idx with
  | none => s
  | some f =>
    if f.state = .revoked then (if s.folioInUse idx then s else { s with folios := erase s.folios idx })
    else if s.contentsInUse idx then s
    else match f.defer with
    | .nothing => s
    | .evict => (s.setFolio idx (f.drop 0)).loaded idx .absent
    | .reload =>
      if f.held.isEmpty then
        match s.acquirePages f.tenant idx f.desc with
        | .ok s => s.startLoad idx
        | .error _ => (s.setFolio idx { f with defer := .nothing }).loaded idx .absent
      else s.startLoad idx
    | .reloadEvict => (s.setFolio idx { f.drop 0 with chg := false, pinned := true, defer := .nothing }).loaded idx .absent

/-- A folio is revoked (R215, R381): operations that wait for it, or that a reload halts, complete with status 2 (R224, R481); others run on. -/
def State.revokeFolio (s : State) (idx : Nat) : State :=
  let s := (s.dropFolioWatch idx).modFolio idx fun f => { f with state := .revoked, pinned := false, chg := false, defer := .nothing }
  (s.modUsers idx fun w r => if r.waiting || w.halted then { w with run := some (r.stop 2), halted := false } else w).releaseFolio idx

/-- FREV (R381). -/
def execFrev (d a b : BitVec 6) (e f : BitVec 1) (s : State) : Host.Outcome State Fault Refusal :=
  s.onShelfmark (.frev d a b e f) d a b e f fun c i _ _ p => c.done (p.revokeFolio i)

/-- The state word of FQRY (R217). -/
def Folio.query (f : Folio) : Word :=
  w64 (f.state.num + bitNat f.pinned * 2 ^ 3 + bitNat (FolioDesc.auto f.desc) * 2 ^ 4 + bitNat f.chg * 2 ^ 5 + f.reason % 4 * 2 ^ 6 +
    bitNat (decide (f.defer ≠ .nothing)) * 2 ^ 8 + f.pageCount % 65536 * 2 ^ 16)

/-- What FQRY reads for a shelfmark. -/
def State.queryFolio (s : State) (tenant : Nat) (v : Word) : Word :=
  match s.liveFolio? tenant v with
  | some (_, f) => f.query
  | none => 4

/-- FQRY (R217, R379). -/
def execFqry (d a b : BitVec 6) (e f : BitVec 1) (s : State) : Host.Outcome State Fault Refusal :=
  s.issue (.fqry d a b e f) (fun t _ => arrayForm t
    { Form.plain with a := opA .src a e, d := opD .dst d, rsvd := nz b || nz f }) fun c s =>
    c.finishLater c.popped (s.queryFolio c.t.tenant c.a)

/-! ### The loader (R214, R215) -/

/-- The physical address lies in a run. -/
def inRun (pa : Nat) (r : Nat × Nat × Nat) : Bool := decide (r.2.1 ≤ pa) && decide (pa < r.2.1 + r.2.2)

/-- The loader's reads: they activate the DRAM rows of the source (R298), and its words are checked for errors (R301). -/
def State.readSource (s : State) (f : Folio) : State :=
  f.runs.foldl (fun s r => (s.activateRange r.2.1 r.2.2).checkRange r.2.1 r.2.2) s

/-- Some source word is poisoned. -/
def State.poisonedSource (s : State) (f : Folio) : Bool := s.tags.any fun e => e.2.poison && f.runs.any (inRun e.1)

/-- The source bytes that are not zero, by offset. -/
def State.sourceBytes (s : State) (f : Folio) : List Host.Cell :=
  f.runs.flatMap fun r => (s.mem.filter fun e => inRun e.1 r).map fun e => (r.1 + (e.1 - r.2.1), e.2)

/-- FOLIO_LOAD_END (R214, R215). -/
def execFolioLoadEnd (idx : Nat) (s : State) : Host.Outcome State Fault Refusal :=
  .next (match s.folio? idx with
    | none => s
    | some f =>
      if f.state ≠ .loading then s
      else
        let s := s.readSource f
        if s.poisonedSource f then ((s.modFolio idx fun f => f.drop 1).loaded idx .absent).releaseFolio idx
        else if f.chg ∧ FolioDesc.auto f.desc then
          (s.modFolio idx fun f => { f with chg := false }).postNow (.folioLoadEnd idx)
        else
          let st : FolioState := if f.chg then .stale else .ready
          ((s.modFolio idx fun f => { f with state := st, data := s.sourceBytes f, ecc := [] }).loaded idx st).releaseFolio idx)

/-- An uncorrectable error in a word of the folio store: it is counted; a ready folio reloads and its rows halt, a stale one becomes absent
(R215, R221); any other folio stays as it is. -/
def State.folioError (s : State) (idx : Nat) : State :=
  match s.folio? idx with
  | none => s
  | some f =>
    let s := s.modFront fun x => { x with folioErrors := x.folioErrors + 1 }
    match f.state with
    | .ready =>
      let s := (s.modFolio idx fun f => { f with state := .loading, chg := false, ecc := [] }).modUsers idx fun w _ => { w with halted := true }
      if s.posted (.folioLoadEnd idx) then s else s.postNow (.folioLoadEnd idx)
    | .stale => ((s.modFolio idx fun f => f.drop 2).loaded idx .absent).releaseFolio idx
    | _ => s

/-- FOLIO_STORE_ERROR. -/
def execFolioStoreError (idx : Nat) (s : State) : Host.Outcome State Fault Refusal := .next (s.folioError idx)

/-- The codes of the folio-store words at the given offsets are checked for core `core`: one error is corrected and counted, more are an
uncorrectable error (R301). -/
def State.checkFolio (s : State) (idx core : Nat) (used : Nat → Bool) : State :=
  match s.folio? idx with
  | none => s
  | some f =>
    let found := f.ecc.filter fun e => used e.1
    if found.any fun e => e.2 == .double then s.folioError idx
    else
      let s := s.setFolio idx { f with ecc := f.ecc.filter fun e => !used e.1 }
      found.foldl (fun s _ => s.countCorrected core) s

end Sys2Proof.Machine
end

