-- ==== Sys2Proof/Machine/Tasks.lean ====
section
/-! DEFINITION. Tasks, deques, yielding and stealing: major 0x28 fn 0-7 and their steps (R117-R129, R137, R359-R362, R426, R427,
R439, R472). -/

namespace Sys2Proof.Machine

/-- The class of a thread's children: noon for a standby thread (R120, R439). -/
def State.childClass (s : State) (t : Thread) : Cls := s.classOf t

/-- The next task ID of a context (R119). -/
def Thread.taskId (t : Thread) : Word := w64 (t.tid + t.spawns.toNat * 2 ^ 20)

/-- The task record that a thread makes (R118, R119, R247). -/
def State.makeRecord (s : State) (t : Thread) (pc : Word) (future : Bool) : TaskRec :=
  { pc := pc, g0 := (t.reg 0).val, g1 := (t.reg 1).val, g2 := (t.reg 2).val, g3 := (t.reg 3).val, id := t.taskId,
    stamp := s.time t.core, tenant := t.tenant, cls := s.childClass t, future := future, level := t.level, ecc := .ok, seeder := 0 }

/-- Counts a spawn of the context (R119). -/
def State.countSpawn (s : State) (uid : Nat) : State := s.modThread uid fun t => { t with spawns := t.spawns + 1 }

/-- The registers g0-g3, read as sources without a trap-on-empty bit, after the fields (R360, R439); single errors are corrected (R55). -/
def Ctx.needArgs (c : Ctx) (s : State) (k : Ctx → State → State) : State :=
  let read (s : State) : State := (List.range 4).foldl (fun s n => s.correctReg c.t n) s
  match firstOf ((List.range 4).map fun n => c.t.regAvailable n false n) with
  | .go => k { c with popped := read c.popped } (read s)
  | .block a => c.block s a
  | .deferred d => (s.issued c.uid c.raw).takeDeferred c.t c.raw d
  | .ecc n => c.trap (s.modThread c.uid fun t => t.setReg n { t.reg n with full := false, due := false, ecc := .ok }) 0x31 (w64 n)
  | .trap cause v => c.trap s cause v

/-- Where a record goes: placed at once, pushed, or it must wait; a push may trigger a revocation (R120). -/
def State.spawnTo (s : State) (c : Nat) (direct : Bool) (r : TaskRec) (uid : Nat) : Option State :=
  if direct && !s.away c && !(s.slotsFor c r.tenant r.cls).isEmpty then some (s.placeRecord c r)
  else
    (s.pushRecord c r).map fun s => s.pushed c r uid (s.openPool c r.tenant r.cls)

/-- A non-relaxed write of the word at `va` that the instruction itself makes, with the checks of a 64-bit store (R120, R121, R427): the page
and its alignment, the refusals of R266 and R277, a lent range, poison unless it is overwritten, and room for its watch messages
(R83). -/
def Ctx.ownWord (c : Ctx) (s p : State) (va : Word) (overwrites : Bool) (k : Nat → State → State → State) : State :=
  c.reach s va 8 false true true fun pa =>
    match s.firewalled pa c.t.tenant with
    | some n => c.trap (s.countDrop n) 0x09 va
    | none =>
      if s.refusesAt pa (some c.t) c.t.tenant (c.t.level == .curator) then c.trap s 0x09 va
      else
        let seen (s : State) : State := (s.recallBy c.t pa).checkEcc pa
        if (seen p).poisoned pa && !overwrites then c.trap (seen s) 0x0E va
        else if !(seen p).mayWrite [pa] then c.block s (.room [pa])
        else k pa (seen s) (seen p)

/-- SPAWN's own core. -/
def ownCore : Word := BitVec.allOnes 64

/-- SPAWN and SPAWN.f (R120, R121, R439): the clear of P is performed before the record is pushed, and once, however long the push waits
(`phase` 1). -/
def State.spawnForm (s : State) (i : Instr) (d a b : BitVec 6) (e f : BitVec 1) (future : Bool) : Host.Outcome State Fault Refusal :=
  s.issue i (fun _ _ => fmtR d a b e f) fun c s =>
    c.needArgs s fun c s =>
      let target := if c.a = ownCore then c.t.core else c.a.toNat
      if c.a ≠ ownCore ∧ (!(s.tenant c.t.tenant).hasCore target || !s.present target) = true then c.trap s 0x09 c.a
      else c.ordered s fun p =>
        let r := p.makeRecord c.t c.b future
        let finish (s p : State) : State :=
          match p.spawnTo target (c.a ≠ ownCore) r c.uid with
          | none => c.block s (.dequeRoom target)
          | some p => c.finishLater (p.countSpawn c.uid) r.id
        if future && c.t.phase = 0 then
          c.ownWord s p r.g3 false fun pa s p =>
            let clear (s : State) : State := (((s.setP pa false).written pa (.thread c.uid (some (.own .tagset c.uid r.g3 pa)))).serve [pa]).modThread c.uid fun t =>
              { t with phase := 1 }
            finish (clear s) (clear p)
        else finish s p

/-- SPAWN (R120). -/
def execSpawn (d a b : BitVec 6) (e f : BitVec 1) (s : State) : Host.Outcome State Fault Refusal :=
  s.spawnForm (.spawn d a b e f) d a b e f false

/-- SPAWN.f: clears P of the future word first (R120, R121). -/
def execSpawnF (d a b : BitVec 6) (e f : BitVec 1) (s : State) : Host.Outcome State Fault Refusal :=
  s.spawnForm (.spawnF d a b e f) d a b e f true

/-! ### QUIT (R426, R427) -/

/-- The QUIT completes: its PWARN flags are the thread's last, and the thread ends. -/
def Ctx.quit (c : Ctx) (s : State) : State := s.endThread c.uid

/-- QUIT (R427). -/
def execQuit (d a b : BitVec 6) (e f : BitVec 1) (s : State) : Host.Outcome State Fault Refusal :=
  s.issue (.quit d a b e f) (fun _ _ => { Form.plain with rsvd := nz d || nz a || nz b || nz e || nz f }) fun c s =>
    c.ordered s fun p => c.quit p

/-- QUIT.d; outside a drain handler it is fallback row 14, QUIT (R121, R326). -/
def execQuitD (d a b : BitVec 6) (e f : BitVec 1) (s : State) : Host.Outcome State Fault Refusal :=
  s.issue (.quitD d a b e f) (fun t _ =>
    { Form.plain with rsvd := nz d || nz a || nz b || nz e || nz f, row := if t.drain.isSome then 0 else 14 }) fun c s =>
    c.ordered s fun p => c.quit p

/-- The store that fills the future word: a non-relaxed ST.s by the thread that ends (R121). -/
def futurePut (uid : Nat) (va : Word) (pa : Nat) (v : Word) : Access := { Access.own .store uid va pa with mode := 2, val := v }

/-- QUIT.f: puts ga into the future word, then quits. In a drain handler it acts as QUIT.d; without a future address it is
fallback row 13, QUIT, which reads no register (R121, R326). -/
def execQuitF (d a b : BitVec 6) (e f : BitVec 1) (s : State) : Host.Outcome State Fault Refusal :=
  s.issue (.quitF d a b e f) (fun t _ =>
    let quits := t.drain.isNone && t.future.isNone
    { Form.plain with
      a := if quits then noOp else opA .src a e, illegal := !(opA .src a e).allowed, rsvd := nz d || nz b || nz f,
      row := if quits then 13 else 0 }) fun c s =>
    c.ordered s fun p =>
      match (if c.t.drain.isSome then none else c.t.future) with
      | none => c.quit p
      | some va => c.ownWord s p va true fun pa _ p => c.quit (p.performOwn (futurePut c.uid va pa c.a))

/-! ### DQPUSH, DQPOP (R125, R359-R361) -/

/-- DQPUSH (R360). -/
def execDqpush (d a b : BitVec 6) (e f : BitVec 1) (s : State) : Host.Outcome State Fault Refusal :=
  s.issue (.dqpush d a b e f) (fun _ _ => { Form.plain with a := opA .src a e, rsvd := nz d || nz b || nz f }) fun c s =>
    c.needArgs s fun c s =>
      c.ordered s fun p =>
        let r := p.makeRecord c.t c.a false
        match p.pushRecord c.t.core r with
        | none => c.block s (.dequeRoom c.t.core)
        | some p => c.done ((p.countSpawn c.uid).pushed c.t.core r c.uid (p.slotsFor c.t.core r.tenant r.cls))

/-- The newest record of a tenant on core `c`: from the deque, else from the overflow area (R126). -/
def State.popNewest (s : State) (c tenant : Nat) : Option (TaskRec × State) :=
  match takeNewest (fun r => r.tenant == tenant) (s.core c).deque with
  | some (r, rest) => some (r, s.modCore c fun co => { co with deque := rest })
  | none =>
    match s.ovfTake c tenant true (s.tenant tenant).ovfCount with
    | (some r, s) => some (r, s)
    | (none, _) => none

/-- DQPOP: the popped task becomes the thread's (R125, R361). gd and g0-g3 are its destinations, and empty from its issue on; without a record
g0-g3 become full again with their old values. -/
def execDqpop (d a b : BitVec 6) (e f : BitVec 1) (s : State) : Host.Outcome State Fault Refusal :=
  s.issue (.dqpop d a b e f) (fun _ _ => { Form.plain with d := opD .dst d, rsvd := nz a || nz b || nz e || nz f }) fun c s =>
    match firstOf ((List.range 4).map fun n => c.t.regDue n) with
    | .block a => c.block s a
    | .deferred d => (s.issued c.uid c.raw).takeDeferred c.t c.raw d
    | _ =>
      c.ordered s fun p =>
        let empty (p : State) : State := c.mark (p.modThread c.uid fun t => (List.range 4).foldl (fun t n => t.markDue n) t)
        let others := (List.range 4).filter fun n => n != c.dcode
        let p := p.checkDeque c.t.core c.t.tenant
        match p.popNewest c.t.core c.t.tenant with
        | none => c.done ((empty p).sendRestore c.uid others (c.result 0))
        | some (r, p) =>
          let p := (p.completeTask c.t).modThread c.uid fun t =>
            { t with future := if r.future then some r.g3 else none, task := r.id, seeder := r.seeder, start := p.now }
          let p := match p.thread? c.uid with | some t => p.startTask t r.stamp | none => p
          let gs := [(0, r.g0), (1, r.g1), (2, r.g2), (3, r.g3)].filter fun e => others.contains e.1
          c.done ((empty p).sendResult c.uid (gs ++ c.result r.pc))

/-! ### YIELD (R137, R472) -/

/-- The other contexts of the thread's class on its core that are eligible. -/
def State.peers (s : State) (t : Thread) : List Nat :=
  (s.threads.filter fun o => o.core == t.core && !o.banked && o.uid != t.uid && s.classOf o == s.classOf t && s.eligible o).map (·.uid)

/-- YIELD. -/
def execYield (d a b : BitVec 6) (e f : BitVec 1) (s : State) : Host.Outcome State Fault Refusal :=
  s.issue (.yield d a b e f) (fun _ _ => { Form.plain with rsvd := nz d || nz a || nz b || nz e || nz f }) fun c s =>
    let ps := s.peers c.t
    let s := c.done c.popped
    if ps.isEmpty then s
    else (s.modThread c.uid fun t => { t with yield := some { others := ps, till := s.now + 64 } }).post (s.now + 64) (.yieldTimeout c.uid)

/-- YIELD_TIMEOUT: 64 cycles have passed (R137). -/
def execYieldTimeout (uid : Nat) (s : State) : Host.Outcome State Fault Refusal :=
  .next (match s.thread? uid with
    | none => s
    | some t =>
      match t.yield with
      | some y => if y.till ≤ s.now then s.setThread { t with yield := none } else s
      | none => s)

/-! ### Stealing (R127, R128) -/

/-- The victims of a core for a tenant, by fabric distance, ties to the lower core number. -/
def State.victims (s : State) (c tenant : Nat) : List Nat :=
  sortBy (fabricDistance c) (below Config.cores fun v => v != c && (s.tenant tenant).hasCore v && s.present v)

/-- The core is idle for the tenant (R127): a free pool context that it may occupy, and no record of it. -/
def State.idleFor (s : State) (c tenant : Nat) : Bool :=
  decide (tenant ≠ 0) && (s.tenant? tenant).isSome && (s.tenant tenant).hasCore c && !s.away c && s.present c &&
  (!(s.slotsFor c tenant .day).isEmpty) && !(s.core c).deque.any (fun r => r.tenant == tenant)

/-- The next victim of the round: the nearest of those that are left in a first round, any of them in a later one (R127; log entry 68). -/
def State.nextVictim (s : State) (c tenant : Nat) : Option Nat × State :=
  let left := (s.victims c tenant).filter fun v => !((s.core c).accountOf tenant).tried.contains v
  if ((s.core c).accountOf tenant).first then (left.head?, s)
  else
    let (k, s) := s.pick (Nat.max 1 left.length)
    (left[k]?, s)

/-- A steal request may be sent: none is outstanding, 64 cycles have passed since the last, and no wait is in progress. -/
def State.maySteal (s : State) (c tenant : Nat) : Bool :=
  let a := (s.core c).accountOf tenant
  s.idleFor c tenant && a.asking.isNone && decide (a.askedAt ≤ s.now) && decide (a.backoff ≤ s.now)

/-- STEAL_REQUEST (R127). -/
def execStealRequest (core tenant : Nat) (s : State) : Host.Outcome State Fault Refusal :=
  .next (if s.maySteal core tenant then
      match s.nextVictim core tenant with
      | (some v, s) =>
        (s.modAccount core tenant fun a => { a with asking := some v, askedAt := s.now + 64 }).postNow (.stealServe core v tenant)
      | (none, s) => s
    else s)

/-- The oldest record that a steal may take: from the overflow area while it holds any, else from the far end (R126). -/
def State.popOldest (s : State) (c tenant : Nat) : Option (TaskRec × State) :=
  match s.ovfTake c tenant false (s.tenant tenant).ovfCount with
  | (some r, s) => some (r, s)
  | (none, s) =>
    match (s.core c).deque.find? fun r => r.tenant == tenant with
    | some r => some (r, s.modCore c fun co => { co with deque := co.deque.erase r })
    | none => none

/-- The request's cycles count as SEARCH time (R129). -/
def State.answerSteal (s : State) (thief tenant : Nat) (f : Account → Account) : State :=
  s.modAccount thief tenant fun a => f { a with asking := none, search := a.searchAt s.now }

/-- A steal fails: after a round of failures the core waits 4,096 cycles, and the round that follows is a later one (R127, R129; log entry
68). -/
def State.failSteal (s : State) (thief victim tenant : Nat) : State :=
  let tried := ((s.core thief).accountOf tenant).tried ++ [victim]
  if (s.victims thief tenant).all fun v => tried.contains v then
    (s.answerSteal thief tenant fun a => { a with fsteal := a.fsteal + 1, tried := [], first := false, backoff := s.now + 4096 }).post
      (s.now + 4096) (.stealBackoffExpiry thief tenant)
  else s.answerSteal thief tenant fun a => { a with fsteal := a.fsteal + 1, tried := tried }

/-- STEAL_SERVE: the victim's deque unit serves or fails the request; a stolen record is placed at once, or, when the thief
has no context for it any more, joins the thief's deque (R127, R128). -/
def execStealServe (thief victim tenant : Nat) (s : State) : Host.Outcome State Fault Refusal :=
  .next (if ((s.core thief).accountOf tenant).asking ≠ some victim then s
    else if s.away victim then s.failSteal thief victim tenant
    else
      let s := s.checkDeque victim tenant
      match s.popOldest victim tenant with
      | none => s.failSteal thief victim tenant
      | some (r, s) =>
        let s := s.answerSteal thief tenant fun a => { a with tried := [], first := true }
        if (s.slotsFor thief tenant r.cls).isEmpty then
          match s.pushRecord thief r with
          | some s => s.pushed thief r 0 (s.openPool thief tenant r.cls)
          | none => s.modCore victim fun co => { co with deque := r :: co.deque }
        else s.placeRecord thief r)

/-- STEAL_BACKOFF_EXPIRY: the wait after a failed round ends (R127). -/
def execStealBackoffExpiry (core tenant : Nat) (s : State) : Host.Outcome State Fault Refusal :=
  .next (if ((s.core core).accountOf tenant).backoff ≤ s.now then s.modAccount core tenant fun a => { a with backoff := 0 } else s)

end Sys2Proof.Machine
end

