-- ==== Sys2Proof/Machine/Groups.lean ====
section
/-! DEFINITION. Gangs, messages and link chains (R130-R135, R192-R195, R261, R387-R390, R404-R406, R416, R418). -/

namespace Sys2Proof.Machine

/-! ### Gangs -/

/-- The gang quota of a tenant; tenant 0 has none (R130, R473). -/
def Tenant.gangs? (t : Tenant) (id : Nat) : Nat := if id = 0 then 4096 else t.gangQuota

/-- The live gang that an ID names (R130, R131). -/
def State.findGang (s : State) (tenant : Nat) (id : Word) : Option (Nat × Gang) :=
  match lookup? (s.tenant tenant).gangs (fieldOf id 0 12) with
  | some g => if fieldOf id 12 52 = g.check.toNat then some (fieldOf id 0 12, g) else none
  | none => none

/-- A check value is never 0 (R389). -/
def nextCheck (c : BitVec 12) : BitVec 12 := if c = 4095 then 1 else c + 1

/-- GNEW (R130, R389): a gang of one member; 0 when the quota leaves no free index. -/
def execGnew (d a b : BitVec 6) (e f : BitVec 1) (s : State) : Host.Outcome State Fault Refusal :=
  s.issue (.gnew d a b e f) (fun _ _ => { Form.plain with d := opD .dst d, rsvd := nz a || nz b || nz e || nz f }) fun c _ =>
    let p := c.popped
    let ten := p.tenant c.t.tenant
    if ten.gangs? c.t.tenant ≤ ten.gangs.length then c.finish 0
    else
      let free := below 4096 fun i => (lookup? ten.gangs i).isNone
      let (k, p) := p.pick (Nat.max 1 free.length)
      let i := free.getD k 0
      let check := nextCheck (lookupD ten.checks i 0)
      let g : Gang := { check := check, n := 1, gen := 0, members := [c.uid], arrived := [], ecc := .ok, broken := false }
      let p := p.modTenant c.t.tenant fun t => { t with gangs := insert t.gangs i g }
      c.done (c.put p (gangId i check))

/-- The form of GJOIN, GLEAVE, GBAR and GEND (R387). -/
def fmtGang (d a b : BitVec 6) (e f : BitVec 1) : Form :=
  { Form.plain with a := opA .src a e, rsvd := nz d || nz b || nz f }

/-- An operation on a gang: an ordering point; a bad ID traps, and so does a gang that is broken, or found so now (R131, R261). -/
def Ctx.gang (c : Ctx) (s : State) (ok : Gang → Bool) (k : State → Nat → Gang → State) : State :=
  c.ordered s fun p =>
    match p.findGang c.t.tenant c.a with
    | none => c.trap s 0x22 c.a
    | some (i, g) =>
      if (p.checkCounters c.t.tenant c.t.core i g).2.broken then c.trap (s.checkCounters c.t.tenant c.t.core i g).1 0x23 c.a
      else
        let (p, g) := p.checkCounters c.t.tenant c.t.core i g
        if ok g then k p i g else c.trap s 0x22 c.a

/-- Puts a changed gang back. -/
def State.setGang (s : State) (tenant i : Nat) (g : Gang) : State :=
  s.modTenant tenant fun t => { t with gangs := insert t.gangs i g }

/-- GJOIN (R132): a member takes *bad gang*. -/
def execGjoin (d a b : BitVec 6) (e f : BitVec 1) (s : State) : Host.Outcome State Fault Refusal :=
  s.issue (.gjoin d a b e f) (fun _ _ => fmtGang d a b e f) fun c s =>
    c.gang s (fun g => !g.members.contains c.uid) fun p i g =>
      c.done (p.setGang c.t.tenant i { g with n := g.n + 1, members := g.members ++ [c.uid] })

/-- GLEAVE (R132). -/
def execGleave (d a b : BitVec 6) (e f : BitVec 1) (s : State) : Host.Outcome State Fault Refusal :=
  s.issue (.gleave d a b e f) (fun _ _ => fmtGang d a b e f) fun c s =>
    c.gang s (fun g => g.members.contains c.uid) fun p i _ => c.done (p.leaveGang c.t.tenant i c.uid)

/-- GBAR (R132): the thread parks, and the generation may complete. -/
def execGbar (d a b : BitVec 6) (e f : BitVec 1) (s : State) : Host.Outcome State Fault Refusal :=
  s.issue (.gbar d a b e f) (fun _ _ => fmtGang d a b e f) fun c s =>
    c.gang s (fun g => g.members.contains c.uid) fun p i g =>
      let p := p.modThread c.uid fun t =>
        { t.setStat .parkedMemory with await := .nothing, parked := c.raw, parkedShown := c.shown, parkedRsvd := c.rsvd }
      (p.setGang c.t.tenant i { g with arrived := g.arrived ++ [c.uid] }).checkGang c.t.tenant i

/-- GEND (R132): parked members take *gang broken*, and the index is freed, of a broken gang too (R261). -/
def execGend (d a b : BitVec 6) (e f : BitVec 1) (s : State) : Host.Outcome State Fault Refusal :=
  s.issue (.gend d a b e f) (fun _ _ => fmtGang d a b e f) fun c s =>
    c.ordered s fun p =>
      match p.findGang c.t.tenant c.a with
      | none => c.trap s 0x22 c.a
      | some (i, g) => (c.done p).endGang c.t.tenant i g

/-! ### Messages -/

/-- There is room for an MSEND on core `c` (R192, R416). -/
def State.mailRoom (s : State) (c : Nat) : Bool :=
  decide ((s.core c).sent < Config.mailSend) && decide ((s.core c).mail.length < Config.mailEntries)

/-- The block of core `c` in the newest save area that holds a switched-out thread of the tenant with this ID (R195). -/
def State.imageOfTid (s : State) (c tid tenant : Nat) : Option Nat :=
  (s.images.find? fun i => i.live && i.cores.contains c && i.threads.any fun t => t.tid == tid && t.tenant == tenant && t.status != .free).map fun i =>
    blockBase i.base ((i.cores.findIdx? fun x => x == c).getD 0)

/-- The MSEND entries of the mailbox image of a block (R192); one whose kind cannot be read may be one. -/
def State.imageSent (s : State) (block : Nat) : Nat :=
  ((List.range (s.imageMail block)).filter fun n =>
    ((s.areaSeen (block + 0x145000 + 32 * n)).map fun w => decide (fieldOf w 0 8 = 1)) != some false).length

/-- There is room for an MSEND in a mailbox image (R192, R195). -/
def State.imageRoom (s : State) (block : Nat) : Bool :=
  decide (s.imageSent block < Config.mailSend) && decide (s.imageMail block < Config.mailEntries)

/-- The resident or banked thread of the tenant that an MSEND is for. -/
def State.mailTarget (s : State) (tid tenant : Nat) : Option Thread := (s.holder? tid).filter fun o => o.tenant == tenant

/-- MSEND (R195, R416). -/
def execMsend (d a b : BitVec 6) (e f : BitVec 1) (s : State) : Host.Outcome State Fault Refusal :=
  s.issue (.msend d a b e f) (fun _ _ => { Form.plain with a := opA .src a e, b := opB .srcPair b f, rsvd := nz d }) fun c s =>
    let tid := fieldOf c.a 0 20
    let co := tidCore tid
    if !(s.tenant c.t.tenant).hasCore co then c.trap s 0x09 c.a
    else c.ordered s fun p =>
      let m : Msg := { id := p.nextId, slot := tidSlot tid, bound := none, kind := 1, status := 0, sender := c.t.tid, w0 := c.b,
                       w1 := c.b2, popped := false, device := false }
      match (if (p.mailTarget tid c.t.tenant).isSome then none else p.imageOfTid co tid c.t.tenant) with
      | some block => if p.imageRoom block then c.done (p.imageEnter block m) else c.block s (.imageRoom block)
      | none =>
        if !p.mailRoom co then c.block s (.mailRoom co)
        else if (p.mailTarget tid c.t.tenant).isSome then c.done (p.enterMessage co m)
        else c.done (p.modCore co fun x => { x with mailDiscards := x.mailDiscards + 1 })

/-- MWAIT (R194, R418). -/
def execMwait (d a b : BitVec 6) (e f : BitVec 1) (s : State) : Host.Outcome State Fault Refusal :=
  s.issue (.mwait d a b e f) (fun _ _ => { Form.plain with d := opD .dst d, rsvd := nz a || nz b || nz e || nz f }) fun c _ =>
    match c.popped.mailbox c.t with
    | m :: _ => c.finish m.header
    | [] => c.popped.modThread c.uid fun t =>
        { t.setStat .parkedMessage with await := .nothing, phase := 1 + c.dcode, parked := c.raw, parkedShown := c.shown, parkedRsvd := c.rsvd }

/-- DEVICE_MESSAGE_ENTRY (R192): a waiting device message enters. -/
def execDeviceMessageEntry (id : Nat) (s : State) : Host.Outcome State Fault Refusal :=
  .next (match s.devMsgs.find? fun e => e.2.id == id with
    | none => s
    | some (c, m) =>
      if s.deviceRoom c m then
        { s with devMsgs := s.devMsgs.filter fun e => !(e.2.id == id) }.enterMessage c m
      else s)

/-! ### Link chains -/

/-- A core that a link end may name (R133): the core itself or a grid neighbour on its die. -/
def linkNeighbour (a b : Nat) : Bool :=
  decide (a = b) || (decide (dieOf a = dieOf b) && decide (a < Config.cores) && decide (b < Config.cores) &&
    (if a < 512 then decide (absDiff (gridRow a) (gridRow b) + absDiff (gridCol a) (gridCol b) = 1)
     else decide (absDiff (rowOf a) (rowOf b) + absDiff (rowSlot a) (rowSlot b) = 1)))

/-- The ends that a link word names (R133). -/
def linkEnds (w : Word) : Option Nat × Option Nat :=
  (if w.toNat.testBit 20 then some (fieldOf w 0 20) else none, if w.toNat.testBit 44 then some (fieldOf w 24 20) else none)

/-- An end is permitted to the thread (R405, check 1). -/
def State.linkAllowed (s : State) (t : Thread) (e : Option Nat) : Bool :=
  match e with
  | none => true
  | some tid => (s.tenant t.tenant).hasCore (tidCore tid) && linkNeighbour t.core (tidCore tid)

/-- The word addresses of `n` words of resolved pages. -/
def wordsOf (pages : List (Nat × Nat × Nat)) (va n : Nat) : List Nat :=
  (List.range n).filterMap fun i => pageOf pages (va + 8 * i)

/-- The old downstream channel of a thread holds no word (R133). -/
def State.downDrained (s : State) (t : Thread) : Bool :=
  match s.downstream? t with
  | none => true
  | some o => match s.channel? t.uid o.uid with | none => true | some c => c.words.isEmpty && decide (c.ringLen = 0)

/-- The new ends take effect, from the state `p` with the operands popped; words in the old upstream channel are discarded (R133). -/
def Ctx.link (c : Ctx) (s p : State) (ring base : Nat) (pas : List Nat) : State :=
  if !s.downDrained c.t then c.block s .linkDrained
  else
    let p := { p with channels := p.channels.filter fun x => !(x.dst == c.uid) && !(x.src == c.uid) }
    c.done (p.modThread c.uid fun t => { t with down := (linkEnds c.a).1, up := (linkEnds c.a).2, ring := ring, ringVa := base, ringPa := pas })

/-- A range of tagged memory with RD and WR, for the ring or its descriptor: a protection fault names the descriptor (R405, check 3). -/
def Ctx.ringPages (c : Ctx) (s : State) (va len : Nat) (k : List (Nat × Nat × Nat) → State) : State :=
  c.pages s va len .both (fun cause a => if cause = 0x09 then c.trap s 0x09 c.b else c.raise s cause (w64 a)) fun ps =>
    if ps.all fun p => tagged p.2.1 then k ps else c.trap s 0x09 c.b

/-- Checks 4 and 5 of R405 on the ring that the descriptor gives, and check 3 on its words. -/
def Ctx.ring (c : Ctx) (s p : State) (ws : List Word) : State :=
  let base := ws.getD 0 0
  let lg := (ws.getD 1 0).toNat
  let ok := decide (4 ≤ lg) && decide (lg ≤ 20)
  c.ringPages s base.toNat (if ok then 8 * 2 ^ lg else 0) fun rs =>
    if base.toNat % 8 ≠ 0 then c.trap s 0x0A base
    else if !ok then c.trap s 0x09 c.b
    else c.link s p c.b.toNat base.toNat (wordsOf rs base.toNat (2 ^ lg))

/-- LCFG (R133-R135, R404, R405): the checks in their order; the descriptor is read by one non-relaxed plain access. -/
def execLcfg (d a b : BitVec 6) (e f : BitVec 1) (s : State) : Host.Outcome State Fault Refusal :=
  s.issue (.lcfg d a b e f) (fun _ _ => { Form.plain with a := opA .src a e, b := opB .src b f, rsvd := nz d }) fun c s =>
    if !(s.linkAllowed c.t (linkEnds c.a).1 && s.linkAllowed c.t (linkEnds c.a).2) then c.trap s 0x09 c.a
    else if c.b = 0 then c.link s c.popped 0 0 []
    else if c.b.toNat % 16 ≠ 0 then c.trap s 0x0A c.b
    else c.ringPages s c.b.toNat 16 fun ps => c.ordered s fun _ =>
      c.readWords s c.b ((pageOf ps c.b.toNat).getD 0) 2 fun ws s p => c.ring s p ws

/-- LINK_STALL (R134): a thread blocked on `lnk` for the tenant's limit. FLTVAL is the thread ID that its end names; for an end
that names none it is a free value. -/
def execLinkStall (uid : Nat) (s : State) : Host.Outcome State Fault Refusal :=
  .next (match s.thread? uid with
    | none => s
    | some t =>
      let stalled (end_ : Option Nat) : State :=
        if t.status != .blockedRegister || s.frozen t || !(t.blockedAt.any fun b => decide (b + (s.tenant t.tenant).linkLimit ≤ s.now)) then s
        else
          let (v, s) := match end_ with | some x => (w64 x, s) | none => s.free
          (s.setThread t.wake).trapAt t.wake 0x12 v t.parked t.parkedShown
      match t.await with
      | .upstream => stalled t.up
      | .downstream => stalled t.down
      | _ => s)

end Sys2Proof.Machine
end

