-- ==== Sys2Proof/Machine/Harvest.lean ====
section
/-! DEFINITION. Classes, slot arbitration and harvest: LEND, RECALL, CLASS and the steps of revocation (R136, R138-R146, R412,
R431, R302). -/

namespace Sys2Proof.Machine

/-- Two ranges meet. -/
def overlaps (a n b m : Nat) : Bool := decide (a < b + m) && decide (b < a + n)

/-- The ranges that a tenant has lent on a core. -/
def Core.lentBy (c : Core) (tenant : Nat) : List Lease := c.lent.filter fun l => l.tenant == tenant

/-- A LEND request is legal (R141, R412). -/
def State.mayLend (s : State) (t : Thread) (off len : Nat) : Bool :=
  decide (off % 4096 = 0) && decide (len % 4096 = 0) && s.allots t.tenant t.core off len &&
    decide (((s.core t.core).lentBy t.tenant).length < 8) &&
    ((s.core t.core).lentBy t.tenant).all fun l => !overlaps off len l.off l.len

/-- LEND (R141, R412). -/
def execLend (d a b : BitVec 6) (e f : BitVec 1) (s : State) : Host.Outcome State Fault Refusal :=
  s.issue (.lend d a b e f) (fun _ _ =>
    { Form.plain with a := opA .src a e, b := opB .src b f, rsvd := nz d, level := .runtime }) fun c s =>
    c.ordered s fun p =>
      if c.b = 0 then c.done p
      else if (s.core c.t.core).revoking.isSome then c.block s .revocation
      else if !s.mayLend c.t c.a.toNat c.b.toNat then c.trap s 0x09 c.a
      else c.done (p.modCore c.t.core fun co =>
        { co with lent := co.lent ++ [{ tenant := c.t.tenant, off := c.a.toNat, len := c.b.toNat }] })

/-- RECALL (R142, R431): 0 and more than 128 choose every dusk context, and return the tenant's ranges. -/
def execRecall (d a b : BitVec 6) (e f : BitVec 1) (s : State) : Host.Outcome State Fault Refusal :=
  s.issue (.recall d a b e f) (fun _ _ =>
    { Form.plain with a := opA .src a e, rsvd := nz d || nz b || nz f, level := .runtime }) fun c _ =>
    let all := decide (c.a = 0) || decide (128 < c.a.toNat)
    let p := c.popped
    let who := p.choosable c.t.core c.uid
    let chosen := if all then who else who.take c.a.toNat
    let ranges := if all then (p.core c.t.core).lentBy c.t.tenant else []
    let p := p.revoke c.t.core chosen ranges
    if (p.core c.t.core).revoking.isNone then c.done p else c.await p .recall

/-- A chosen context enters the reserve bank (R143): its link-stall count pauses (R134), its read-ahead is discarded (R184), and
the record of its hold is to be sent again (R144). -/
def Thread.toBank (t : Thread) (now serial : Nat) : Thread :=
  { t with
    status := .revoked, banked := true, revokedAt := serial, yield := none,
    blockedAt := t.blockedAt.map fun b => now - b,
    sendRecord := t.recorded == .heldFault && ((t.latch.map fun l => !l.walk) == some true) }

/-- REVOCATION: the chosen contexts are revoked and the ranges returned; RECALLs complete, and freed contexts take records
(R143-R145, R124). -/
def execRevocation (core : Nat) (s : State) : Host.Outcome State Fault Refusal :=
  .next (match (s.core core).revoking with
    | none => s
    | some r =>
      let s := r.chosen.foldl (fun s uid =>
        match s.thread? uid with
        | none => s
        | some t =>
          if t.status = .saving then
            { (s.setThread (t.toBank s.now s.nextId)).dropReadAhead uid with nextId := s.nextId + 1 }.count core 4 (some t)
          else s) s
      let s := r.ranges.foldl (fun s l => s.returnRange core l) s
      let s := s.modCore core fun co => { co with revoking := none }
      let s := ((s.threads.filter fun t => t.core == core && t.await == .recall).map (·.uid)).foldl (fun s u => s.completeWait u) s
      s.fillPool core)

/-- The oldest revoked context of a core whose own slot is free (R146, R484). -/
def State.restorable (s : State) (c : Nat) : Option Thread :=
  (sortBy (·.revokedAt) (s.threads.filter fun t => t.core == c && t.banked && t.status == .revoked)).find? fun t =>
    (s.freePool c).contains t.slot && (lookup? (s.core c).held t.slot).isNone

/-- A context may be restored: R139 holds, and no revocation is in progress. -/
def State.mayRestore (s : State) (c : Nat) : Bool :=
  (s.core c).revoking.isNone && !s.away c && decide ((s.residentDusk c).length + s.bankUsed c ≤ (s.core c).bankSize) &&
    (s.restorable c).isSome

/-- A context returns to the state it left (R48): a pending stop takes effect, the record of its hold is sent again (R144), and
its link-stall count goes on, from the cycles that it had waited (R134). -/
def State.returnThread (s : State) (t : Thread) : State :=
  let t' := { t with status := t.recorded, blockedAt := t.blockedAt.map fun n => s.now - n, sendRecord := false }
  let s := (s.setThread t').resumeStall t'
  let s := match t.latch with
    | some l => if t.sendRecord then (s.setThread { t' with latch := some { l with sent := false } }).sendHeld t' l else s
    | none => s
  if t'.stopPending then s.stopThread t'.uid else s

/-- The dusk context that the save engine is moving back on a core. -/
def State.restoring? (s : State) (c : Nat) : Option Thread :=
  s.threads.find? fun t => t.core == c && t.status == .restoring && (s.curfewOf c).isNone

/-- The context is back: what its check finds is corrected and counted, or ends the thread (R259, R301). -/
def State.endRestore (s : State) (t : Thread) : State :=
  match t.ecc with
  | .ok => s.returnThread t
  | .single => (s.countCorrected t.core).returnThread { t with ecc := .ok }
  | .double => s.loseThread t

/-- RESTORE_CONTEXT (R48, R146): a revoked context leaves the bank, and is restoring; then it returns. -/
def execRestoreContext (core : Nat) (s : State) : Host.Outcome State Fault Refusal :=
  .next (match s.restoring? core with
    | some t => s.endRestore t
    | none =>
      if s.mayRestore core then
        match s.restorable core with
        | some t => s.setThread { t with status := .restoring, banked := false }
        | none => s
      else s)

/-- The class that a write of CLASS leaves (R138). A write of dusk is refused while the core revokes, as no dusk thread is placed then (R139; log
entry 87). -/
def State.newClass (s : State) (t : Thread) (v : Word) : Cls :=
  match Cls.ofNum (fieldOf v 0 2) with
  | none => t.cls
  | some k =>
    if s.isStandby t ∨ k = t.cls then t.cls
    else match k with
    | .noon => if s.noonCount t.core t.tenant < (s.tenant t.tenant).noonLimit then .noon else t.cls
    | .day => .day
    | .dusk => if s.duskRoom t.core then .dusk else t.cls

/-- CLASS_WRITE (R138). -/
def execClassWrite (uid : Nat) (v : Word) (s : State) : Host.Outcome State Fault Refusal :=
  .next (s.sysWrite uid fun t s => s.modThread uid fun x => { x with cls := s.newClass t v })

/-- SLOT_REASSIGN (R136). -/
def execSlotReassign (core : Nat) (s : State) : Host.Outcome State Fault Refusal := .next (s.reassign core)

/-- ZERO_ON_TOUCH_SCRUB: the pass over a core's returned ranges ends (R145, R302). Their words have read as zero since the
return. -/
def execZeroOnTouchScrub (core : Nat) (s : State) : Host.Outcome State Fault Refusal :=
  .next (s.modCore core fun c => { c with zot := [] })

end Sys2Proof.Machine
end

