-- ==== Sys2Proof/Machine/Consumers.lean ====
section
/-! DEFINITION. The consumers of command queues: records, LAUNCH, WAIT, SIGNAL, COPY, FOLIO, NOP, and the dispatch of queue handlers
(R279-R285, R289, R483, R484). -/

namespace Sys2Proof.Machine

/-! ### Records (R280, R281, R285) -/

/-- For whom a queue executor translates: it ignores H, and has no local window (R282, R295). -/
def Queue.viewer (x : Queue) : Viewer := { tenant := x.tenant, curator := false, core := none, ignoreH := true }

/-- The curator core that executes a queue: the role-0 cores in turn (log entry 24). -/
def State.executor (s : State) (q : Nat) : Nat :=
  let cores := s.front.columns.flatMap fun e => (List.range 8).map fun r => e.1 * 64 + r * 8 + e.2
  let mine := ((cores.zip s.front.roles).filter fun e => e.2 == 0).map (·.1)
  (mine[q % max 1 mine.length]?).getD 0

/-- A word that a queue executor may not touch: a scratchpad that refuses the tenant (R266), or what a firewall guards (R277). -/
def State.unitRefused (s : State) (tenant pa : Nat) : Bool :=
  (s.firewalled pa tenant).isSome ||
    match regionOf pa with
    | .spad c _ => s.refusesCore c none tenant false
    | _ => false

/-- The firewall counts what it drops (R277). -/
def State.countRefused (s : State) (tenant pa : Nat) : State :=
  match s.firewalled pa tenant with
  | some c => s.countDrop c
  | none => s

/-- The physical address of the slot of record `n`, or the cause that makes it unreadable. -/
def State.slotPa (s : State) (x : Queue) (n : Nat) : Xlat :=
  match s.resolve x.viewer (x.ring + 64 * (n % x.len)) 64 .read with
  | .ok pa => if s.unitRefused x.tenant pa then .bad 0x09 else .ok pa
  | r => r

/-- What a consumer finds at its cursor. -/
inductive Look where
  | none                                    -- no record is due
  | mismatch                                -- the header is not written yet
  | skip                                    -- the mask excludes the consumer
  | bad (err : Nat) (cause : BitVec 8)      -- the record fails before it executes
  | record (kind : Nat) (ws : List Word)
  deriving DecidableEq, Repr

/-- The checks of R281 and R285 on the header of record `n`: a header that passes is the record's first word. Mask bits above NCONS are
ignored (R280; log entry 26). -/
def State.lookHead (s : State) (x : Queue) (i n : Nat) : Look :=
  match s.slotPa x n with
  | .bad cause => .bad 5 cause
  | .miss => .bad 5 0x08
  | .ok pa =>
    if s.unreadable pa then .bad 5 0x0E
    else
      let h := (s.engineRead pa).getD 0
      let mask := fieldOf h 0 4 % 2 ^ (x.last + 1)
      let kind := fieldOf h 40 8
      if fieldOf h 48 16 ≠ n % 65536 then .mismatch
      else if mask ≠ 0 ∧ mask.testBit i = false then .skip
      else if kind = 0 ∨ 6 < kind then .bad 1 0
      else if fieldOf h 32 8 ≠ x.version then .bad 2 0
      else .record kind [h]

/-- The words of an accepted record that are not read yet. -/
def Accepted.missing (r : Accepted) : List Nat := (List.range 8).filter fun j => (lookup? r.words j).isNone

/-- An accepted record with the words that were still to be read; a poisoned word makes it unreadable. -/
def State.lookBody (s : State) (x : Queue) (n : Nat) (r : Accepted) : Look :=
  let all (pa : Nat) : List Word := (List.range 8).map fun j => (lookup? r.words j).getD ((s.engineRead (pa + 8 * j)).getD 0)
  if r.missing.isEmpty then .record r.kind (all 0)
  else match s.slotPa x n with
  | .bad cause => .bad 5 cause
  | .miss => .bad 5 0x08
  | .ok pa => if r.missing.any fun j => s.unreadable (pa + 8 * j) then .bad 5 0x0E else .record r.kind (all pa)

/-- Queue consumer `i` executes records (R279): it is one of the queue's, and not its handler. -/
def Queue.executes (x : Queue) (i : Nat) : Bool := decide (i ≤ x.last) && !(x.hnd && decide (i = x.last))

/-- What a consumer finds at its cursor. A record once accepted is not looked at again. -/
def State.look (s : State) (x : Queue) (i : Nat) : Look :=
  let c := x.consumer i
  if !x.executes i || decide (c.wait ≠ .running) || decide ((s.wakeValue x).toNat ≤ c.cur) then .none
  else match c.accepted with
  | r :: _ => s.lookBody x c.cur r
  | [] =>
    match s.lookHead x i c.cur with
    | .record kind (h :: _) => s.lookBody x c.cur { kind := kind, words := [(0, h)] }
    | l => l

/-- What a unit's plain read of `n` words finds before the data is taken: a lent range is recalled (R141), and the error codes are checked (R301). -/
def State.checkWords (s : State) (v : Viewer) (va n : Nat) : State :=
  (List.range n).foldl (fun s j =>
    match s.resolve v (va + 8 * j) 8 .read with
    | .ok pa => (s.recallFor pa v.tenant false).checkEcc pa
    | _ => s) s

/-- `State.checkWords` of the first `n` words of the record at a consumer's cursor. -/
def State.checkSlot (s : State) (x : Queue) (i n : Nat) : State := s.checkWords x.viewer (x.ring + 64 * ((x.consumer i).cur % x.len)) n

/-- What a consumer can do ahead of its cursor: accept the next record, up to 8 ahead, or read a word of one that it has accepted; the word's
address and the consumer after it (R281, R290). -/
def State.aheadOf (s : State) (x : Queue) (i : Nat) : List (Nat × Consumer) :=
  let c := x.consumer i
  let n := c.cur + c.accepted.length
  if !x.executes i || c.wait == .stopped then []
  else
    (match s.slotPa x n, s.lookHead x i n with
     | .ok pa, .record kind (h :: _) =>
       if c.accepted.length ≤ 8 ∧ n < (s.wakeValue x).toNat ∧ s.unreadable pa = false then
         [(pa, { c with accepted := c.accepted ++ [{ kind := kind, words := [(0, h)] }] })]
       else []
     | _, _ => []) ++
    (List.range c.accepted.length).flatMap fun k =>
      match c.accepted[k]?, s.slotPa x (c.cur + k) with
      | some r, .ok pa =>
        (r.missing.filter fun j => !s.unreadable (pa + 8 * j)).map fun j =>
          (pa + 8 * j, { c with accepted := c.accepted.set k { r with words := r.words ++ [(j, (s.engineRead (pa + 8 * j)).getD 0)] } })
      | _, _ => []

/-- A consumer accepts a record, or reads a word of one, ahead of its cursor. -/
def State.acceptAhead (s : State) (q i : Nat) : State :=
  match s.queue? q with
  | none => s
  | some x =>
    let os := s.aheadOf x i
    let (k, s) := s.pick os.length
    match os[k]? with
    | none => s
    | some (pa, c) => (s.checkEcc pa).modConsumer q i fun _ => c

/-- A consumer executes its record when it is of kind `kind`; a record that fails its checks stops the consumer. -/
def State.consume (s : State) (q i kind : Nat) (run : Queue → Consumer → List Word → State → State) : State :=
  match s.queue? q with
  | none => s
  | some x =>
    if s.look x i = .none then s
    else
      let s := s.checkSlot x i 8
      match s.look x i with
      | .record k ws =>
        let r : Accepted := { kind := k, words := (List.range 8).map fun j => (j, ws.getD j 0) }
        if k = kind then run x (x.consumer i) ws (s.modConsumer q i fun c => { c with accepted := r :: c.accepted.tail }) else s
      | .bad err cause => s.failRecord q i err cause
      | _ => s

/-- RECORD_SKIP (R281). -/
def execRecordSkip (queue cons : Nat) (s : State) : Host.Outcome State Fault Refusal :=
  .next (match s.queue? queue with
    | none => s
    | some x => if s.look x cons = .skip then (s.checkSlot x cons 1).commit queue cons else s)

/-- SEQ_WAIT_TIMEOUT (R281): a consumer that finds a mismatched SEQ waits 65,536 cycles or for a write of the wake value, and then
looks again. -/
def execSeqWaitTimeout (queue cons : Nat) (s : State) : Host.Outcome State Fault Refusal :=
  .next (match s.queue? queue with
    | none => s
    | some x =>
      if (x.consumer cons).wait = .seq then s.modConsumer queue cons fun c => { c with wait := .running }
      else if s.look x cons = .mismatch then
        ((s.checkSlot x cons 1).modConsumer queue cons fun c => { c with wait := .seq }).post (s.now + 65536) (.seqWaitTimeout queue cons)
      else s)

/-- NOP (R282); also the consumer's stop at a record of no kind or version. -/
def execNop (queue cons : Nat) (s : State) : Host.Outcome State Fault Refusal :=
  .next (s.consume queue cons 6 fun _ _ _ s => s.commit queue cons)

/-! ### LAUNCH (R282, R283) -/

/-- The cores of a LAUNCH. -/
def State.launchCores (s : State) (tenant : Nat) (w6 : Word) : List Nat :=
  let n := fieldOf w6 16 11
  let lo := fieldOf w6 0 11
  (below Config.cores fun c => (decide (n = 0) || (decide (lo ≤ c) && decide (c < lo + n)))).filter fun c =>
    (s.tenant tenant).hasCore c && s.present c

/-- A LAUNCH with a field outside its limits: error 3. -/
def State.launchBad (s : State) (tenant : Nat) (ws : List Word) : Bool :=
  let w6 := ws.getD 6 0
  decide (fieldOf (ws.getD 1 0) 0 2 ≠ 0) || decide (fieldOf w6 28 2 = 3) || decide (fieldOf (ws.getD 7 0) 0 32 = 0) ||
    (decide (fieldOf w6 28 2 = 0) && decide ((s.tenant tenant).noonLimit = 0)) || (s.launchCores tenant w6).isEmpty

/-- The i-th seeded record (R283). -/
def launchRecord (q cons tenant cur i : Nat) (stamp : Word) (ws : List Word) : TaskRec :=
  let w6 := ws.getD 6 0
  { pc := ws.getD 1 0, g0 := ws.getD 2 0, g1 := ws.getD 3 0, g2 := ws.getD 4 0, g3 := ws.getD 5 0 + w64 i,
    id := w64 (2 ^ 63 + q * 2 ^ 48 + cur % 65536 * 2 ^ 32 + i), stamp := stamp, tenant := tenant,
    cls := (Cls.ofNum (fieldOf w6 28 2)).getD .day, future := false, level := Level.ofNum (fieldOf w6 30 1), ecc := .ok, seeder := cons }

/-- Pushes the records from `i` on, as far as there is room; the number of the first that has none. -/
def State.launchFrom (s : State) (q cons tenant cur : Nat) (cores : List Nat) (ws : List Word) : (n i : Nat) → State × Nat
  | 0, i => (s, i)
  | n + 1, i =>
    match s.spawnTo (cores.getD (i % cores.length) 0) false (launchRecord q cons tenant cur i (s.time (s.executor q)) ws) 0 with
    | none => (s, i)
    | some s => s.launchFrom q cons tenant cur cores ws n (i + 1)

/-- LAUNCH: the consumer pushes its records in order, and commits after the last. -/
def execLaunch (queue cons : Nat) (s : State) : Host.Outcome State Fault Refusal :=
  .next (s.consume queue cons 1 fun x c ws s =>
    if s.launchBad x.tenant ws then s.failRecord queue cons 3 0
    else
      let count := fieldOf (ws.getD 7 0) 0 32
      let s := if c.step = 0 then s.modConsumer queue cons fun c => { c with tasks := c.tasks ++ [(c.cur % 65536, count)] } else s
      let (s, n) := s.launchFrom queue cons x.tenant c.cur (s.launchCores x.tenant (ws.getD 6 0)) ws (count - c.step) c.step
      if n = count then s.commit queue cons else s.modConsumer queue cons fun c => { c with step := n })

/-! ### WAIT (R284) -/

/-- The record fails at an access that was refused, for what it does as error 4. -/
def State.failAccess (s : State) (q i : Nat) (x : Queue) (va : Word) (need : Need) (cause : BitVec 8) : State :=
  (match s.resolve x.viewer va.toNat 8 need with
   | .ok pa => s.countRefused x.tenant pa
   | _ => s).failRecord q i 4 cause

/-- The data access of a record: its physical address, or the cause that error 4 reports. -/
def State.recordPa (s : State) (x : Queue) (va : Word) (need : Need) : Except (BitVec 8) Nat :=
  match s.resolve x.viewer va.toNat 8 need with
  | .ok pa => if s.unitRefused x.tenant pa then .error 0x09 else .ok pa
  | .bad cause => .error cause
  | .miss => .error 0x08

/-- A mode-0 WAIT parks as an LD.f of the tenant. -/
def State.parkWait (s : State) (q i pa : Nat) (va : Word) : State :=
  let a : Access := { id := s.nextId, uid := 0, kind := .queueWait q i, mode := 1, size := 3, signed := false, relaxed := false, va := va.toNat,
                      pa := pa, val := 0, val2 := 0, dst := none, word := 0, shown := 0, rsvd := false, row := 0, phase := .sent,
                      answered := false }
  ({ s with nextId := s.nextId + 1, accesses := s.accesses ++ [a] }.modConsumer q i fun c => { c with wait := .present pa }).postNow
    (.accessPerformed s.nextId)

/-- A plain load of a unit: the word, or the cause of its refusal. A peer may refuse, and what it holds is a free value (R86, R111, R297). -/
def State.unitLoad (s : State) (pa : Nat) : Except (BitVec 8) Word × State :=
  match regionOf pa with
  | .peer _ _ =>
    let (k, s) := s.pick 2
    if k = 1 then (.error 0x09, s) else let (v, s) := s.free; (.ok v, s)
  | _ =>
    let s := s.checkEcc pa
    (match s.engineRead pa with | some w => .ok w | none => .error 0x0E, s)

/-- A mode-1 WAIT reads its word: it commits when the word has reached the value, else it polls again. -/
def State.pollWait (s : State) (q i pa : Nat) (v : Word) : State :=
  match s.unitLoad pa with
  | (.error cause, s) => s.failRecord q i 4 cause
  | (.ok w, s) =>
    if v.toNat ≤ w.toNat then s.commit q i
    else (s.modConsumer q i fun c => { c with wait := .poll }).post (s.now + 4096) (.waitPoll q i)

/-- WAIT. -/
def execWait (queue cons : Nat) (s : State) : Host.Outcome State Fault Refusal :=
  .next (s.consume queue cons 2 fun x _ ws s =>
    let va := ws.getD 1 0
    if va.toNat % 8 ≠ 0 then s.failRecord queue cons 3 0
    else match s.recordPa x va .read with
    | .error cause => s.failAccess queue cons x va .read cause
    | .ok pa =>
      if (ws.getD 3 0).toNat.testBit 0 then (s.recallFor pa x.tenant false).pollWait queue cons pa (ws.getD 2 0)
      else if !tagged pa then s.failRecord queue cons 4 0x09
      else s.parkWait queue cons pa va)

/-- WAIT_POLL: the consumer looks at its WAIT again. -/
def execWaitPoll (queue cons : Nat) (s : State) : Host.Outcome State Fault Refusal :=
  match s.queue? queue with
  | none => .next s
  | some x =>
    if (x.consumer cons).wait = .poll then execWait queue cons (s.modConsumer queue cons fun c => { c with wait := .running })
    else .next s

/-! ### SIGNAL (R282, R284) -/

/-- What an ST.s of a unit can reach: tagged memory; the windows take a plain store. -/
def storable (pa : Nat) : Bool :=
  tagged pa || (match regionOf pa with | .host | .peer _ _ => true | _ => false)

/-- Everything that a SIGNAL waits for before its store has completed (R284). -/
def Consumer.quiet (c : Consumer) : Bool := c.tasks.isEmpty && c.copies.isEmpty

/-- A store of the consumer has not reached its coherence point (R111). -/
def State.unsettled (s : State) (q i : Nat) : Bool := s.outward.any fun o => o.queue == some (q, i)

/-- The interrupt of a SIGNAL, and its commit. -/
def State.endSignal (s : State) (q i : Nat) (x : Queue) (w3 : Word) : State :=
  (if w3.toNat.testBit 0 then s.interrupt x.tenant (fieldOf w3 8 3) else s).commit q i

/-- SIGNAL: the store, the FENCE.s wait, the interrupt. -/
def execSignal (queue cons : Nat) (s : State) : Host.Outcome State Fault Refusal :=
  .next (s.consume queue cons 3 fun x c ws s =>
    let va := ws.getD 1 0
    let w3 := ws.getD 3 0
    if va.toNat % 8 ≠ 0 ∨ (s.tenant x.tenant).vectors ≤ fieldOf w3 8 3 then s.failRecord queue cons 3 0
    else if !c.quiet then s
    else if c.step = 0 ∧ va ≠ 0 then
      match s.recordPa x va .write with
      | .error cause => s.failAccess queue cons x va .write cause
      | .ok pa =>
        if !storable pa then s.failRecord queue cons 4 0x09
        else if tagged pa && !s.mayWrite [pa] then s
        else
          (s.recallFor pa x.tenant false).engineWrite pa (ws.getD 2 0) (.unit x.tenant) true (none, some (queue, cons))
            |>.modConsumer queue cons fun c => { c with step := 1 }
    else if s.unsettled queue cons then s
    else s.endSignal queue cons x w3)

/-! ### COPY (R282) -/

/-- The cause that a failed translation of a unit reports. -/
def NoPages.cause : NoPages → BitVec 8
  | .bad c _ => c
  | .miss _ _ => 0x08

/-- The copy registers of a COPY record. -/
def recordCopy (ws : List Word) : CopyRegs :=
  { src := ws.getD 1 0 &&& 0xFFFFFFFFFFFFF, dst := ws.getD 2 0 &&& 0xFFFFFFFFFFFFF, len := ws.getD 3 0 &&& 0xFFFFFFFF,
    strides := ws.getD 4 0, rows := ws.getD 5 0 &&& 0xFFFFFFFF, flg := ws.getD 6 0 &&& 0xFFFF0003 }

/-- A row of the source or the destination meets the local window. -/
def CopyRegs.meetsWindow (r : CopyRegs) : Bool :=
  let hit (a : Int) : Bool := decide ((windowBase : Int) < a + r.bytes) && decide (a < (windowEnd : Int)) && decide (0 < r.bytes)
  (List.range r.rowCount).any fun j => hit (r.src.toNat + j * r.sstr) || hit (r.dst.toNat + j * r.dstr)

/-- COPY: the executor's copy engine carries the transfer out, without a completion message. -/
def execCopy (queue cons : Nat) (s : State) : Host.Outcome State Fault Refusal :=
  .next (s.consume queue cons 4 fun x _ ws s =>
    let r := recordCopy ws
    let core := s.executor queue
    if r.misaligned.isSome then s.failRecord queue cons 4 0x0A
    else if r.meetsWindow then s.failRecord queue cons 3 0
    else match copyRange (s.walkPager x.viewer) r with
    | .error e => s.failRecord queue cons 4 e.cause
    | .ok ps =>
      if !s.launchRoom core then s
      else
        let serial := s.nextId
        let (_, s) := s.launchCopy core r ps 0 ((ws.getD 7 0).toNat.testBit 0) none x.tenant (some (queue, cons))
        (s.modConsumer queue cons fun c => { c with copies := c.copies ++ [serial] }).commit queue cons)

/-! ### FOLIO (R282) -/

/-- The eight words of a folio descriptor that a record names, or the cause of the fault. -/
def State.readDesc (s : State) (x : Queue) (va : Word) : Except (BitVec 8) (List Word) :=
  if va.toNat % 64 ≠ 0 then .error 0x0A
  else match s.resolve x.viewer va.toNat 64 .read with
  | .ok pa =>
    if s.unitRefused x.tenant pa then .error 0x09
    else if (List.range 8).any fun j => s.unreadable (pa + 8 * j) then .error 0x0E
    else .ok ((List.range 8).map fun j => (s.engineRead (pa + 8 * j)).getD 0)
  | .bad cause => .error cause
  | .miss => .error 0x08

/-- The folio instruction of a record: what it stores at its result address, and the state after it, or its trap. -/
def State.recordFolio (s : State) (x : Queue) (op : Nat) (v : Word) : Except (BitVec 8) (Word × State) :=
  if op = 0 then
    match s.readDesc x v with
    | .error cause => .error cause
    | .ok d =>
      match s.pinFolio (s.walkPager x.viewer) x.tenant v.toNat d with
      | .error e => .error e.cause
      | .ok r => .ok r
  else match s.liveFolio? x.tenant v with
  | none => .error 0x18
  | some (i, f) =>
    let r : Except (BitVec 8) State :=
      match op with
      | 1 => .ok (s.setFolio i { f with pinned := false })
      | 2 => (match s.refreshFolio (s.walkPager x.viewer) i f with | .error e => .error e.cause | .ok s => .ok s)
      | _ => .ok (s.revokeFolio i)
    match r with
    | .error cause => .error cause
    | .ok s => .ok (s.queryFolio x.tenant v, s)

/-- FOLIO: FPIN, FUNP, FREF or FREV for the tenant; then the result goes to its address as ST.s (R282). -/
def execFolio (queue cons : Nat) (s : State) : Host.Outcome State Fault Refusal :=
  .next (s.consume queue cons 5 fun x c ws s =>
    let w3 := ws.getD 3 0
    if c.step = 0 then
      let s := if fieldOf (ws.getD 1 0) 0 2 = 0 then s.checkWords x.viewer (ws.getD 2 0).toNat 8 else s
      match s.recordFolio x (fieldOf (ws.getD 1 0) 0 2) (ws.getD 2 0) with
      | .error cause => s.failRecord queue cons 4 cause
      | .ok (v, s) =>
        if w3 = 0 then s.commit queue cons else s.modConsumer queue cons fun c => { c with step := 1, result := v }
    else if w3.toNat % 8 ≠ 0 then s.failRecord queue cons 4 0x0A
    else match s.recordPa x w3 .write with
    | .error cause => s.failAccess queue cons x w3 .write cause
    | .ok pa =>
      if !tagged pa then s.failRecord queue cons 4 0x09
      else if !s.mayWrite [pa] then s
      else ((s.recallFor pa x.tenant false).engineWrite pa c.result (.unit x.tenant) true (none, some (queue, cons))).commit queue cons)

/-! ### Queue handlers (R289, R483, R484) -/

def Queue.hcore (x : Queue) : Nat := fieldOf (x.words.getD 10 0) 0 11
def Queue.hstby (x : Queue) : Nat := fieldOf (x.words.getD 10 0) 11 2
def Queue.hpool (x : Queue) : Nat := fieldOf (x.words.getD 10 0) 16 7
def Queue.hlend (x : Queue) : Nat := fieldOf (x.words.getD 11 0) 0 20
def Queue.hllen (x : Queue) : Nat := fieldOf (x.words.getD 11 0) 20 21

/-- The thread ID of the handler's standby context. -/
def State.handlerTid (s : State) (x : Queue) : Nat := x.hcore * 512 + (s.core x.hcore).standbySlot x.hstby

/-- The handler's standby context can take it: it holds no thread, and its core is in service. -/
def State.handlerRoom (s : State) (x : Queue) : Bool := (s.occupant? (s.handlerTid x)).isNone && !s.away x.hcore

/-- A dispatch that had to wait happens only while WAKE exceeds the handler consumer's PROG (R289). -/
def Queue.handlerStale (x : Queue) : Bool := x.late && decide (x.wake.toNat ≤ (x.progress x.last).toNat)

/-- A due dispatch can be dealt with: it is dropped, or carried out, or found to have to wait (R289). -/
def State.handlerMayGo (s : State) (x : Queue) : Bool := !x.due || x.handlerStale || !x.late || s.handlerRoom x

/-- Holds HPOOL pool contexts for the handler, revoking dusk contexts as far as free ones are too few, and recalls the range
(R142, R484). -/
def State.bindHandler (s : State) (q : Nat) (x : Queue) : State :=
  let c := x.hcore
  let free := ((s.freePool c).filter fun n => (lookup? (s.core c).held n).isNone).take x.hpool
  let chosen := (s.choosable c 0).take (x.hpool - free.length)
  let ranges := ((s.core c).lentBy x.tenant).filter fun l => decide (0 < x.hllen) && overlaps x.hlend x.hllen l.off l.len
  (s.modCore c fun co => { co with held := co.held ++ ((free ++ chosen.map (·.slot)).map fun n => (n, q)) }).revoke c chosen ranges

/-- The task ID of a handler (R483). -/
def handlerTask (q : Nat) (wake : Word) : Word := w64 (2 ^ 63 + 2 ^ 62 + q * 2 ^ 48 + fieldOf wake 0 48)

/-- QUEUE_HANDLER_DISPATCH. -/
def execQueueHandlerDispatch (queue : Nat) (s : State) : Host.Outcome State Fault Refusal :=
  .next (match s.queue? queue with
    | none => s
    | some x =>
      if !(x.due && x.hnd) then s
      else if x.handlerStale then s.setQueue queue { x with due := false, late := false }
      else if !s.handlerRoom x then s.setQueue queue { x with late := true }
      else
        let s := (s.setQueue queue { x with due := false, late := false }).bindHandler queue x
        let lvl : Level := if (x.words.getD 10 0).toNat.testBit 13 then .runtime else .user
        let slot := (s.core x.hcore).standbySlot x.hstby
        let uid := s.nextUid
        let s := s.placeThread x.hcore slot x.tenant lvl .noon (w64 (fieldOf (x.words.getD 8 0) 0 52))
          [w64 queue, x.wake, x.progress x.last, x.words.getD 9 0] fun t => { t with handler := some queue, task := handlerTask queue x.wake }
        match s.thread? uid with
        | some t => s.trace x.hcore 4 (some t) t.pc t.task
        | none => s)

end Sys2Proof.Machine
end

