-- ==== Sys2Proof/Machine/Vector.lean ====
section
/-! DEFINITION. Vector instructions on streams: the V-F and V-I groups, VRED and VPERM (majors 0x20, 0x21 and 0x22; R165, R173-R176,
R182, R183, R455-R459, R463). -/

namespace Sys2Proof.Machine

/-! ### Lanes -/

/-- The active count (R175): the smaller of `n` and what each non-wrapping stream operand has left per lane. -/
def activeCount (t : Thread) (reads writes : List Nat) (n : Nat) : Nat :=
  let src := reads.filterMap fun m => ((t.stream? m).bind Stream.left).map (· / reads.count m)
  let dst := writes.filterMap fun m =>
    match t.stream? m with
    | some x => if reads.contains m || !x.record.isEmpty then none else x.left
    | none => none
  (src ++ dst).foldl min n

/-- The elements of one source operand: the next `k` of its stream, or `k` copies of its value (R174). -/
def State.takeLanes (s : State) (uid : Nat) (o : Opnd) (v : Word) (k w : Nat) : State × List Word :=
  match (if o.role.reads then o.stream else none) with
  | some n =>
    let r := s.popStream uid n k
    (match r.1.thread? uid with | some t => r.1.count t.core 9 (some t) | none => r.1, r.2)
  | none => (s, List.replicate k (w64 (lowBits w v)))

/-- What a vector instruction works on: its active count, the lanes of ra, rb and rd, the state with the elements at
hand, and the state with the operands popped. -/
structure Lanes where
  c : Ctx
  k : Nat
  a : List Word
  b : List Word
  d : List Word
  held : State
  p : State
  deriving DecidableEq, Repr

/-- Brings `need n` elements of each stream in `reads` to hand. -/
def State.fillLanes (s : State) (c : Ctx) (w : Nat) (reads : List Nat) (k : Nat) : State :=
  reads.eraseDups.foldl (fun s n =>
    (s.matchAhead c.uid n w).fill c.uid n w c.raw c.shown (k * reads.count n + 1) (k * reads.count n)) s

/-- The outcome of the stream checks of a vector instruction. -/
inductive LaneAttempt where
  | stops (s : State)
  | runs (l : Lanes)
  deriving DecidableEq, Repr

/-- The reads of a vector instruction, `k` lanes of each operand. -/
def Ctx.readLanes (c : Ctx) (f : Form) (k w : Nat) (row12 fresh : Bool) (held : State) : Lanes :=
  let reads := f.streamReads
  let p := c.popped.fillLanes c w reads k
  let p := if fresh then reads.eraseDups.foldl (fun s n => s.newRecord c.uid n) p else p
  let ra := p.takeLanes c.uid f.a c.a k w
  let rb := ra.1.takeLanes c.uid f.b c.b k w
  let rd := rb.1.takeLanes c.uid f.d c.d k w
  { c := { c with row := if c.row = 0 ∧ row12 = true then 12 else c.row }, k := k, a := ra.2, b := rb.2, d := rd.2, held := held, p := rd.1 }

/-- The operands of a vector instruction: the stream checks of R182 on every operand, then the elements of `count` lanes at most.
`w` and `ww` are the element widths read and written; `fresh`: its reads record anew (R183); `one`: it writes one element in all, in the
end (R458). -/
def Ctx.tryLanes (c : Ctx) (s : State) (f : Form) (count w ww : Nat) (fresh one : Bool) : LaneAttempt :=
  let reads := f.streamReads
  let writes := f.streamWrites
  let k := activeCount c.t reads (if one then [] else writes) count
  match s.checkStreams c.t reads writes (some w) (some ww) (fun n => max 1 k * reads.count n) (if one then 1 else max 1 k)
      (s.core c.t.core).prove with
  | .trap cause v => .stops (c.trap s cause v)
  | .ok row12 =>
    if !(reads ++ writes).isEmpty && s.allocBusy c.uid then .stops (c.block s .accesses)
    else
    let s' := s.fillLanes c w reads k
    match s'.thread? c.uid with
    | none => .stops s'
    | some t' =>
      if t'.left c.t then .stops s'
      else match reads.find? fun n => decide (t'.atHand n < k * reads.count n) with
      | some n => .stops (s'.blockOn c.uid (.streamElement n) c.raw c.shown)
      | none =>
        match (if one then none else s'.putsStop t' writes k c.raw c.shown) with
        | some s => .stops s
        | none => .runs (c.readLanes f k w row12 fresh s')

/-- A vector instruction goes on with its lanes. -/
def Ctx.lanes (c : Ctx) (s : State) (f : Form) (count w ww : Nat) (fresh : Bool) (go : Lanes → State) (one : Bool := false) : State :=
  match c.tryLanes s f count w ww fresh one with
  | .stops s => s
  | .runs l => go l

/-- Writes the result elements: to a stream all of them, to another destination element 0 (R174). -/
def Ctx.putLanes (c : Ctx) (s : State) (ww : Nat) (vs : List Nat) : State :=
  if 48 ≤ c.dcode ∧ c.dcode < 56 then s.pushStream c.uid (c.dcode - 48) ww (vs.map w64) c.raw c.shown
  else c.put s (w64 (vs.headD 0))

/-- A vector instruction with one result element a lane (R456): `op` gets the elements of ra, rb and rd. -/
def State.elementwise (s : State) (i : Instr) (f : Form) (w : Nat) (op : Ctx → Nat → Nat → Nat → Nat × Flags) :
    Host.Outcome State Fault Refusal :=
  let f := { f with vector := true }
  s.issue i (fun _ _ => f) fun c s =>
    c.lanes s f (lanes w) w w true fun l =>
      let rs := (List.range l.k).map fun j => op c (lowBits w (l.a.getD j 0)) (lowBits w (l.b.getD j 0)) (lowBits w (l.d.getD j 0))
      l.c.done ((l.c.putLanes l.p w (rs.map (·.1))).raiseFlags c.uid ((rs.map (·.2)).foldl (· ||| ·) 0))

/-- A mask element (R457). -/
def maskOf (w : Nat) (b : Bool) : Nat := if b then 2 ^ w - 1 else 0

/-! ### V-F (R457) -/

/-- VADD (R457). -/
def execVaddF (d a b : BitVec 6) (e f : BitVec 1) (t : BitVec 2) (s : State) :
    Host.Outcome State Fault Refusal :=
  let x := fmtOf t.toNat
  s.elementwise (.vaddF d a b e f t) (fmtR d a b e f) x.width fun c a b _ => x.add c.arith (x.unpack a) (x.unpack b)

/-- VSUB (R457). -/
def execVsubF (d a b : BitVec 6) (e f : BitVec 1) (t : BitVec 2) (s : State) :
    Host.Outcome State Fault Refusal :=
  let x := fmtOf t.toNat
  s.elementwise (.vsubF d a b e f t) (fmtR d a b e f) x.width fun c a b _ => x.add c.arith (x.unpack a) (x.unpack b).neg

/-- VMUL (R457). -/
def execVmulF (d a b : BitVec 6) (e f : BitVec 1) (t : BitVec 2) (s : State) :
    Host.Outcome State Fault Refusal :=
  let x := fmtOf t.toNat
  s.elementwise (.vmulF d a b e f t) (fmtR d a b e f) x.width fun c a b _ => x.mul c.arith (x.unpack a) (x.unpack b)

/-- VFMA (R457). -/
def execVfma (d a b : BitVec 6) (e f : BitVec 1) (t : BitVec 2) (s : State) :
    Host.Outcome State Fault Refusal :=
  let x := fmtOf t.toNat
  s.elementwise (.vfma d a b e f t) (fmtR3 d a b e f) x.width fun c a b d => x.fma c.arith false (x.unpack d) (x.unpack a) (x.unpack b)

/-- VFMA.n (R457). -/
def execVfmaN (d a b : BitVec 6) (e f : BitVec 1) (t : BitVec 2) (s : State) :
    Host.Outcome State Fault Refusal :=
  let x := fmtOf t.toNat
  s.elementwise (.vfmaN d a b e f t) (fmtR3 d a b e f) x.width fun c a b d => x.fma c.arith true (x.unpack d) (x.unpack a) (x.unpack b)

/-- VMIN (R162, R457). -/
def execVminF (d a b : BitVec 6) (e f : BitVec 1) (t : BitVec 2) (s : State) :
    Host.Outcome State Fault Refusal :=
  let x := fmtOf t.toNat
  s.elementwise (.vminF d a b e f t) (fmtR d a b e f) x.width fun _ a b _ => x.minmax false false a b

/-- VMAX (R162, R457). -/
def execVmaxF (d a b : BitVec 6) (e f : BitVec 1) (t : BitVec 2) (s : State) :
    Host.Outcome State Fault Refusal :=
  let x := fmtOf t.toNat
  s.elementwise (.vmaxF d a b e f t) (fmtR d a b e f) x.width fun _ a b _ => x.minmax true false a b

/-- VMINN (R162, R457). -/
def execVminn (d a b : BitVec 6) (e f : BitVec 1) (t : BitVec 2) (s : State) :
    Host.Outcome State Fault Refusal :=
  let x := fmtOf t.toNat
  s.elementwise (.vminn d a b e f t) (fmtR d a b e f) x.width fun _ a b _ => x.minmax false true a b

/-- VMAXN (R162, R457). -/
def execVmaxn (d a b : BitVec 6) (e f : BitVec 1) (t : BitVec 2) (s : State) :
    Host.Outcome State Fault Refusal :=
  let x := fmtOf t.toNat
  s.elementwise (.vmaxn d a b e f t) (fmtR d a b e f) x.width fun _ a b _ => x.minmax true true a b

/-- VCMP.eq (R162, R457). -/
def execVcmpEqF (d a b : BitVec 6) (e f : BitVec 1) (t : BitVec 2) (s : State) :
    Host.Outcome State Fault Refusal :=
  let x := fmtOf t.toNat
  s.elementwise (.vcmpEqF d a b e f t) (fmtR d a b e f) x.width fun _ a b _ => (maskOf x.width (x.compare 0 a b).1, (x.compare 0 a b).2)

/-- VCMP.lt (R162, R457). -/
def execVcmpLtF (d a b : BitVec 6) (e f : BitVec 1) (t : BitVec 2) (s : State) :
    Host.Outcome State Fault Refusal :=
  let x := fmtOf t.toNat
  s.elementwise (.vcmpLtF d a b e f t) (fmtR d a b e f) x.width fun _ a b _ => (maskOf x.width (x.compare 1 a b).1, (x.compare 1 a b).2)

/-- VCMP.le (R162, R457). -/
def execVcmpLeF (d a b : BitVec 6) (e f : BitVec 1) (t : BitVec 2) (s : State) :
    Host.Outcome State Fault Refusal :=
  let x := fmtOf t.toNat
  s.elementwise (.vcmpLeF d a b e f t) (fmtR d a b e f) x.width fun _ a b _ => (maskOf x.width (x.compare 2 a b).1, (x.compare 2 a b).2)

/-- VSEL: tests bits (R457). -/
def execVselF (d a b : BitVec 6) (e f : BitVec 1) (t : BitVec 2) (s : State) :
    Host.Outcome State Fault Refusal :=
  let x := fmtOf t.toNat
  s.elementwise (.vselF d a b e f t) (fmtR d a b e f) x.width fun _ a b _ => (if a = 0 then 0 else b, 0)

/-! ### V-I (R459) -/

/-- The width of a V-I width field. -/
def widthOf (w : BitVec 2) : Nat := 64 / 2 ^ w.toNat

/-- A V-I instruction: bits to bits, no flag. -/
def State.elementwiseI (s : State) (i : Instr) (f : Form) (w : Nat) (op : Nat → Nat → Nat) : Host.Outcome State Fault Refusal :=
  s.elementwise i f w fun _ a b _ => (op a b, 0)

/-- The shift amount of a V-I shift: the low log2(w) bits (R459). -/
def vShift (w b : Nat) : Nat := b % w

/-- An integer modulo 2^w. -/
def wrapTo (w : Nat) (x : Int) : Nat := (x % (2 ^ w : Nat)).toNat

/-- VADD (R459). -/
def execVaddI (d a b : BitVec 6) (e f : BitVec 1) (w : BitVec 2) (s : State) :
    Host.Outcome State Fault Refusal :=
  let n := widthOf w
  s.elementwiseI (.vaddI d a b e f w) (fmtR d a b e f) n fun a b => (a + b) % 2 ^ n

/-- VSUB (R459). -/
def execVsubI (d a b : BitVec 6) (e f : BitVec 1) (w : BitVec 2) (s : State) :
    Host.Outcome State Fault Refusal :=
  let n := widthOf w
  s.elementwiseI (.vsubI d a b e f w) (fmtR d a b e f) n fun a b => (2 ^ n + a - b) % 2 ^ n

/-- VMUL (R459). -/
def execVmulI (d a b : BitVec 6) (e f : BitVec 1) (w : BitVec 2) (s : State) :
    Host.Outcome State Fault Refusal :=
  let n := widthOf w
  s.elementwiseI (.vmulI d a b e f w) (fmtR d a b e f) n fun a b => a * b % 2 ^ n

/-- VMIN, signed (R459). -/
def execVminI (d a b : BitVec 6) (e f : BitVec 1) (w : BitVec 2) (s : State) :
    Host.Outcome State Fault Refusal :=
  let n := widthOf w
  s.elementwiseI (.vminI d a b e f w) (fmtR d a b e f) n fun a b => if signed n a ≤ signed n b then a else b

/-- VMAX, signed (R459). -/
def execVmaxI (d a b : BitVec 6) (e f : BitVec 1) (w : BitVec 2) (s : State) :
    Host.Outcome State Fault Refusal :=
  let n := widthOf w
  s.elementwiseI (.vmaxI d a b e f w) (fmtR d a b e f) n fun a b => if signed n a ≤ signed n b then b else a

/-- VAND (R459). -/
def execVand (d a b : BitVec 6) (e f : BitVec 1) (w : BitVec 2) (s : State) :
    Host.Outcome State Fault Refusal :=
  let n := widthOf w
  s.elementwiseI (.vand d a b e f w) (fmtR d a b e f) n fun a b => a &&& b

/-- VOR (R459). -/
def execVor (d a b : BitVec 6) (e f : BitVec 1) (w : BitVec 2) (s : State) :
    Host.Outcome State Fault Refusal :=
  let n := widthOf w
  s.elementwiseI (.vor d a b e f w) (fmtR d a b e f) n fun a b => a ||| b

/-- VXOR (R459). -/
def execVxor (d a b : BitVec 6) (e f : BitVec 1) (w : BitVec 2) (s : State) :
    Host.Outcome State Fault Refusal :=
  let n := widthOf w
  s.elementwiseI (.vxor d a b e f w) (fmtR d a b e f) n fun a b => a ^^^ b

/-- VSHL (R459). -/
def execVshl (d a b : BitVec 6) (e f : BitVec 1) (w : BitVec 2) (s : State) :
    Host.Outcome State Fault Refusal :=
  let n := widthOf w
  s.elementwiseI (.vshl d a b e f w) (fmtR d a b e f) n fun a b => a * 2 ^ vShift n b % 2 ^ n

/-- VSHR (R459). -/
def execVshr (d a b : BitVec 6) (e f : BitVec 1) (w : BitVec 2) (s : State) :
    Host.Outcome State Fault Refusal :=
  let n := widthOf w
  s.elementwiseI (.vshr d a b e f w) (fmtR d a b e f) n fun a b => a / 2 ^ vShift n b

/-- VSHR.a (R459). -/
def execVshrA (d a b : BitVec 6) (e f : BitVec 1) (w : BitVec 2) (s : State) :
    Host.Outcome State Fault Refusal :=
  let n := widthOf w
  s.elementwiseI (.vshrA d a b e f w) (fmtR d a b e f) n fun a b => wrapTo n (signed n a / (2 ^ vShift n b : Nat))

/-- VCMP.eq (R459). -/
def execVcmpEqI (d a b : BitVec 6) (e f : BitVec 1) (w : BitVec 2) (s : State) :
    Host.Outcome State Fault Refusal :=
  let n := widthOf w
  s.elementwiseI (.vcmpEqI d a b e f w) (fmtR d a b e f) n fun a b => maskOf n (decide (a = b))

/-- VCMP.lt, signed (R459). -/
def execVcmpLtI (d a b : BitVec 6) (e f : BitVec 1) (w : BitVec 2) (s : State) :
    Host.Outcome State Fault Refusal :=
  let n := widthOf w
  s.elementwiseI (.vcmpLtI d a b e f w) (fmtR d a b e f) n fun a b => maskOf n (decide (signed n a < signed n b))

/-- VSEL (R459). -/
def execVselI (d a b : BitVec 6) (e f : BitVec 1) (w : BitVec 2) (s : State) :
    Host.Outcome State Fault Refusal :=
  let n := widthOf w
  s.elementwiseI (.vselI d a b e f w) (fmtR d a b e f) n fun a b => if a = 0 then 0 else b

/-! ### VRED (R165, R175, R458) -/

/-- One level of the pairwise tree; a last element without a partner passes unchanged. -/
def pairLevel (op : Nat → Nat → Nat × Flags) : List Nat → List Nat × Flags
  | x :: y :: rest =>
    let r := pairLevel op rest
    let z := op x y
    (z.1 :: r.1, z.2 ||| r.2)
  | l => (l, 0)

/-- The pairwise tree over one beat (R165). -/
def treeReduce (op : Nat → Nat → Nat × Flags) : (fuel : Nat) → List Nat → Nat × Flags
  | 0, l => (l.headD 0, 0)
  | fuel + 1, l =>
    match l with
    | [] => (0, 0)
    | [x] => (x, 0)
    | l =>
      let r := pairLevel op l
      let z := treeReduce op fuel r.1
      (z.1, r.2 ||| z.2)

/-- The partial result that the beats before have left for this VRED. -/
def Ctx.part (c : Ctx) : Option VredPart := c.t.vred.filter fun v => c.t.atVred v

/-- The partial result after one beat more (R165); the flags of its beats wait for the completion (R155). There is one place for a partial
result (R269): that of a VRED in a trap handler takes the place of the interrupted VRED's (log entry 83). -/
def nextPart (op : Nat → Nat → Nat × Flags) (old : Option VredPart) (t : Thread) (beat : Nat × Flags) : VredPart :=
  match old with
  | none => { val := w64 beat.1, beats := 1, flags := beat.2, pc := t.pc, rep := t.repPos, depth := 0 }
  | some v =>
    let r := op v.val.toNat beat.1
    { v with val := w64 r.1, beats := v.beats + 1, flags := v.flags ||| r.2 ||| beat.2 }

/-- One beat of a VRED at width `w`: its tree, combined with the beats before; after the last beat of a non-wrapping stream the
result is written and the flags are raised (R155, R458). Each beat is one issue. -/
def State.reduce (s : State) (i : Instr) (f : Form) (w : Nat) (op : Ctx → Nat → Nat → Nat × Flags) : Host.Outcome State Fault Refusal :=
  let f := { f with vector := true }
  s.issue i (fun _ _ => f) fun c s =>
    c.lanes s f (lanes w) w w c.part.isNone (one := true) fun l =>
      let v := nextPart (op c) c.part c.t (treeReduce (op c) 8 (l.a.map (lowBits w)))
      let more := match f.a.stream.bind fun n => (l.p.thread? c.uid).bind fun t => t.stream? n with
        | some x => decide (x.left.getD 0 ≠ 0)
        | none => false
      if more then l.p.modThread c.uid fun t => { t with vred := some v }
      else match l.held.putsStop ((l.held.thread? c.uid).getD c.t) f.streamWrites 1 c.raw c.shown with
      | some s => s
      | none =>
        l.c.done (((l.c.putLanes l.p w [v.val.toNat]).raiseFlags c.uid v.flags).modThread c.uid fun t =>
          if c.part.isNone then t else { t with vred := none })

/-- VRED (V-F) (R458). -/
def execVred (d a b : BitVec 6) (e f : BitVec 1) (t : BitVec 2) (s : State) :
    Host.Outcome State Fault Refusal :=
  let x := fmtOf t.toNat
  s.reduce (.vred d a b e f t) (fmtR1 d a b e f) x.width fun c a b => x.add c.arith (x.unpack a) (x.unpack b)

/-- VRED.max (R162, R458). -/
def execVredMax (d a b : BitVec 6) (e f : BitVec 1) (t : BitVec 2) (s : State) :
    Host.Outcome State Fault Refusal :=
  let x := fmtOf t.toNat
  s.reduce (.vredMax d a b e f t) (fmtR1 d a b e f) x.width fun _ a b => x.minmax true false a b

/-- VRED.min (R162, R458). -/
def execVredMin (d a b : BitVec 6) (e f : BitVec 1) (t : BitVec 2) (s : State) :
    Host.Outcome State Fault Refusal :=
  let x := fmtOf t.toNat
  s.reduce (.vredMin d a b e f t) (fmtR1 d a b e f) x.width fun _ a b => x.minmax false false a b

/-- VRED (V-I): a wrapping sum (R458, R459). -/
def execVredW (d a b : BitVec 6) (e f : BitVec 1) (w : BitVec 2) (s : State) :
    Host.Outcome State Fault Refusal :=
  let n := widthOf w
  s.reduce (.vredW d a b e f w) (fmtR1 d a b e f) n fun _ a b => ((a + b) % 2 ^ n, 0)

/-! ### VPERM (R463) -/

/-- Lane `i` of the result of a permutation. -/
def permLane (op : Nat) (a b : List Word) (i : Nat) : Nat :=
  let s := (b.headD 0).toNat % 8
  let at_ (l : List Word) (j : Nat) : Nat := (l.getD j 0).toNat
  match op with
  | 0 => at_ a (7 - i)
  | 1 => at_ a ((i + 8 - s) % 8)
  | 2 => at_ a s
  | 3 => if i % 2 = 0 then at_ a (i / 2) else at_ b (i / 2)
  | 4 => if i % 2 = 0 then at_ a (4 + i / 2) else at_ b (4 + i / 2)
  | _ => i

/-- The form of a permutation: which fields it reads. -/
def permForm (d a b : BitVec 6) (e f : BitVec 1) (op : Nat) : Form :=
  let base : Form := match op with
    | 0 => fmtR1 d a b e f
    | 1 | 2 | 3 | 4 => fmtR d a b e f
    | 5 => { Form.plain with d := opD .dst d, rsvd := nz a || nz b || nz e || nz f }
    | _ => { Form.plain with illegal := true }
  { base with vector := true }

/-- VPERM: 8 lanes of 64 bits (R463). -/
def execVperm (d a b : BitVec 6) (e f : BitVec 1) (p : BitVec 4) (s : State) : Host.Outcome State Fault Refusal :=
  let form := permForm d a b e f p.toNat
  s.issue (.vperm d a b e f p) (fun _ _ => form) fun c s =>
    c.lanes s form 8 64 64 true fun l =>
      l.c.done (l.c.putLanes l.p 64 ((List.range l.k).map fun i => permLane p.toNat l.a l.b i))

end Sys2Proof.Machine
end

