-- ==== Sys2Proof/Machine/Convert.lean ====
section
/-! DEFINITION. VCVT and VCVT.sat with the microscaling formats (R152-R154, R158-R160, R325, R326, R460-R462). -/

namespace Sys2Proof.Machine

/-! ### Format codes (R148) -/

/-- The element format of a floating-point or MX code; none for an integer code. -/
def codeFmt (c : Nat) : Option FpFmt :=
  match c with
  | 0 => some fp64
  | 1 => some fp32
  | 2 => some fp16
  | 3 => some bf16
  | 4 | 6 => some e4m3
  | 5 | 7 => some e5m2
  | 8 | 14 => some e2m1
  | _ => none

/-- The code of a microscaling format. -/
def isMx (c : Nat) : Bool := decide (6 ≤ c) && decide (c ≤ 8)

/-- The range of an integer code. -/
def intRange (c : Nat) : Int × Int :=
  match c with
  | 9 => (-(2 ^ 63), 2 ^ 63 - 1)
  | 10 => (-(2 ^ 31), 2 ^ 31 - 1)
  | 11 => (-(2 ^ 15), 2 ^ 15 - 1)
  | 12 => (-(2 ^ 7), 2 ^ 7 - 1)
  | _ => (0, 255)

/-- Every value of `src` is a value of `dst` (R372). -/
def FpFmt.holds (dst src : FpFmt) : Bool :=
  decide (src.mbits ≤ dst.mbits) && decide (dst.qmin ≤ src.qmin) &&
    decide ((src.unpack src.maxEnc).cmp (dst.unpack dst.maxEnc) ≤ 0) && (src.top != .ieee || dst.top == .ieee)

/-- The destination code is narrower than the source code (R154): the values of an MX format reach from below 2^-127 to above
2^128, and only FP64 holds them. -/
def narrower (src dst : Nat) : Bool :=
  match codeFmt src, codeFmt dst with
  | some x, some y => if isMx src then dst != 0 else !y.holds x
  | _, _ => false

/-- `.sr` is permitted (R154). -/
def srPermitted (src dst : Nat) : Bool :=
  (codeFmt src).isSome && (isMx dst || ((codeFmt dst).isSome && narrower src dst))

/-! ### Elements -/

/-- A source element: a floating-point value, or an integer. -/
inductive Elem where
  | fp (v : FpVal)
  | int (v : Int)
  deriving DecidableEq, Repr

/-- The element of a source code, with its MX scale byte (R152). -/
def readElem (c x scale : Nat) : Elem :=
  match codeFmt c with
  | some f =>
    if isMx c then
      if scale = 0xFF then .fp (.nan false)
      else match f.unpack x with
        | .fin n m e => .fp (.fin n m (e + scale - 127))
        | v => .fp v
    else .fp (f.unpack x)
  | none => .int (if c = 13 then (x % 256 : Nat) else signed (formatWidth c) x)

/-- An element as an exact value. -/
def Elem.val : Elem → FpVal
  | .fp v => v
  | .int v => .fin (decide (v < 0)) v.natAbs 0

/-- One element converted to a code that is not MX (R160). -/
def convertElem (dst : Nat) (rm : Rm) (sat : Bool) (x : Elem) : Nat × Flags :=
  match codeFmt dst with
  | some f => f.convert rm sat x.val
  | none =>
    let r := intRange dst
    match x with
    | .int v => (wrapTo (formatWidth dst) (if v < r.1 then r.1 else if r.2 < v then r.2 else v), 0)
    | .fp v =>
      let z := v.toInt rm r.1 r.2
      (wrapTo (formatWidth dst) z.1, z.2)

/-- The modes of `k` elements: stochastic rounding takes one step of the generator for each (R158). -/
def draws : (k : Nat) → Word → List Rm × Word
  | 0, x => ([], x)
  | k + 1, x =>
    let x := srStep x
    let r := draws k x
    (.sr (fieldOf x 32 32) :: r.1, r.2)

/-- The modes of `k` elements for a rounding code of VCVT, and the generator after them (R154, R461). -/
def Ctx.modes (c : Ctx) (code k : Nat) : List Rm × Word :=
  match code with
  | 0 => (List.replicate k c.t.rm, c.t.srseed)
  | 2 => (List.replicate k .rtz, c.t.srseed)
  | 3 => draws k c.t.srseed
  | _ => (List.replicate k .rne, c.t.srseed)

/-! ### MX blocks (R153) -/

/-- The magnitude of a finite value. -/
def FpVal.abs : FpVal → FpVal
  | .fin _ m e => .fin false m e
  | v => v

/-- The greatest magnitude of a block. -/
def amax (vs : List FpVal) : FpVal := vs.foldl (fun b v => if b.cmp v.abs < 0 then v.abs else b) (.fin false 0 0)

/-- The greatest exponent of an element format (R153). -/
def emaxOf (f : FpFmt) : Int := if f = e4m3 then 8 else if f = e5m2 then 15 else 2

/-- A block converted into an MX format: its scale byte, its elements and its flags. -/
def convertBlock (f : FpFmt) (vs : List FpVal) (rms : List Rm) : Nat × List Nat × Flags :=
  if vs.any fun v => match v with | .fin _ _ _ => false | _ => true then
    (0xFF, vs.map fun _ => 0, flIf (vs.any fun v => v.isSnan || (match v with | .inf _ => true | _ => false)) flNV)
  else
    match amax vs with
    | .fin _ 0 _ => (0, vs.map fun v => f.sign v.isNeg, 0)
    | .fin _ m e =>
      let sc : Int := max (-127) (min 127 (e + log2 m - emaxOf f))
      let rs := (vs.zip rms).map fun v =>
        match v.1 with
        | .fin n m e => f.round v.2 true n m (e - sc)
        | _ => (0, 0)
      ((sc + 127).toNat, rs.map (·.1), (rs.map (·.2)).foldl (· ||| ·) 0)
    | _ => (0, [], 0)

/-! ### The instruction -/

/-- What the fields of a VCVT mean after their fallbacks: the source code, the destination code, the rounding code, the
saturating form, and the lowest fallback row (R326, R460). -/
structure Cvt where
  src : Nat
  dst : Nat
  rnd : Nat
  sat : Bool
  row : Nat
  deriving DecidableEq, Repr

/-- The destination is a stream register that is bound to an entry with a scale array (R153, R177). -/
def Thread.scaleStream (t : Thread) (d : Nat) : Option Stream :=
  if 48 ≤ d ∧ d < 56 then (t.stream? (d - 48)).filter fun x => x.entry.scaled else none

/-- Decodes the fields of a VCVT. Whether `.sr` is permitted is judged on the codes of the word: code 15 is none of those that R154 lists. -/
def cvtOf (t : Thread) (d src dst rnd : Nat) (sat : Bool) : Cvt :=
  let s' := if src = 15 then 0 else src
  let d' := if dst = 15 then 0 else dst
  let r8 := decide (rnd = 3) && !srPermitted src dst
  let r9 := decide (src = 15) || decide (dst = 15)
  let r10 := isMx d' && (t.scaleStream d).isNone
  let r11 := sat && !(decide (4 ≤ d') && decide (d' ≤ 8))
  { src := s', dst := if r10 then (if d' = 6 then 4 else if d' = 7 then 5 else 14) else d', rnd := if r8 then 1 else rnd,
    sat := sat && !r11, row := if r8 then 8 else if r9 then 9 else if r10 then 10 else if r11 then 11 else 0 }

/-- The form of a VCVT for a thread. -/
def cvtForm (c : Cvt) (d a : BitVec 6) (e f : BitVec 1) : Form :=
  { Form.plain with a := opA .src a e, d := opD .dst d, rsvd := nz f, row := c.row, vector := true }

/-- The place of the scale byte of position `p`: physical and virtual address (R178). -/
def Stream.scalePlace (x : Stream) (c p : Nat) : Nat × Nat :=
  let off := x.entry.scaleAt p
  if x.entry.inAcc then (accPa c off, off) else (spadPa c off, windowBase + off)

/-- The scale bytes of the `k` positions of an MX source (R462): 127 for another source. -/
def State.scalesOf (s : State) (t : Thread) (c : Cvt) (a : Nat) (k : Nat) : List Nat :=
  match (if isMx c.src then t.scaleStream a else none) with
  | some x => (List.range k).map fun i => ((x.posAt i).map fun p => (s.byte (x.scalePlace t.core p).1).toNat).getD 127
  | none => List.replicate k 127

/-- The first poisoned scale byte that the conversion reads (R86). -/
def State.badScale (s : State) (t : Thread) (c : Cvt) (a : Nat) (k : Nat) : Option Nat :=
  match (if isMx c.src then t.scaleStream a else none) with
  | some x => ((List.range k).filterMap fun i => (x.posAt i).map fun p => x.scalePlace t.core p).findSome? fun q =>
      if s.unreadable q.1 then some q.2 else none
  | none => none

/-- An earlier access of the thread to a word of the scale bytes that the conversion reads is not performed (R107). -/
def State.scaleBusy (s : State) (t : Thread) (c : Cvt) (a : Nat) (k : Nat) : Bool :=
  match (if isMx c.src then t.scaleStream a else none) with
  | some x => (s.outstanding t.uid).any fun o => (List.range k).any fun i =>
      ((x.posAt i).map fun p => o.words.contains (wordAddr (x.scalePlace t.core p).1)) == some true
  | none => false

/-- The position that the next push writes first. -/
def Stream.pushPos (x : Stream) : Nat := (x.targets 1).headD 0

/-- Writes the scale byte of a block to the destination's scale array (R153, R462). -/
def State.putScale (s : State) (c : Ctx) (d : Nat) (scale : Nat) : State :=
  match (s.thread? c.uid).bind fun t => (t.scaleStream d).map fun x => (x, t) with
  | some (x, t) =>
    let q := x.scalePlace t.core x.pushPos
    s.putBytes c.uid (d - 48) q.1 q.2 0 0 (w64 scale) 0 c.raw c.shown
  | none => s

/-- The elements of one issue: a beat of the source, or a block of 32 (R461, R462). -/
def Cvt.count (c : Cvt) : Nat := if isMx c.dst then 32 else lanes (formatWidth c.src)

/-- The issues that one block takes: its beats (R462). -/
def Cvt.beats (c : Cvt) (k : Nat) : Nat := if isMx c.dst then ceilDiv (max 1 k) (lanes (formatWidth c.src)) else 1

/-- VCVT in both forms (R460-R462). The beats of a block but its last only issue. -/
def State.vcvt (s : State) (i : Instr) (d a : BitVec 6) (m : BitVec 2) (src : BitVec 4) (e f : BitVec 1) (dst : BitVec 4) (sat : Bool) :
    Host.Outcome State Fault Refusal :=
  s.issue i (fun t _ => cvtForm (cvtOf t d.toNat src.toNat dst.toNat m.toNat sat) d a e f) fun c s =>
    let v := cvtOf c.t d.toNat src.toNat dst.toNat m.toNat sat
    let form := cvtForm v d a e f
    let ww := formatWidth v.dst
    c.lanes s form v.count (formatWidth v.src) ww true fun l =>
      if s.scaleBusy c.t v a.toNat l.k then c.block l.held .accesses
      else match s.badScale c.t v a.toNat l.k with
      | some va => c.trap l.held 0x0E (w64 va)
      | none =>
        if c.t.phase + 1 < v.beats l.k then
          (s.issued c.uid c.raw).modThread c.uid fun t => { t with phase := t.phase + 1 }
        else
          let scales := s.scalesOf c.t v a.toNat l.k
          let xs := (l.a.zip scales).map fun x => readElem v.src x.1.toNat x.2
          let ms := c.modes v.rnd l.k
          let p := l.p.modThread c.uid fun t => { t with srseed := ms.2 }
          match (if isMx v.dst then codeFmt v.dst else none) with
          | some fmt =>
            let r := convertBlock fmt (xs.map Elem.val) ms.1
            l.c.done ((l.c.putLanes (p.putScale c d.toNat r.1) ww r.2.1).raiseFlags c.uid r.2.2)
          | none =>
            let rs := (xs.zip ms.1).map fun x => convertElem v.dst x.2 v.sat x.1
            l.c.done ((l.c.putLanes p ww (rs.map (·.1))).raiseFlags c.uid ((rs.map (·.2)).foldl (· ||| ·) 0))

/-- VCVT (R460-R462). -/
def execVcvt (d a : BitVec 6) (m : BitVec 2) (r : BitVec 4) (e f : BitVec 1) (k : BitVec 4) (s : State) : Host.Outcome State Fault Refusal :=
  s.vcvt (.vcvt d a m r e f k) d a m r e f k false

/-- VCVT.sat (R160, R460-R462). -/
def execVcvtSat (d a : BitVec 6) (m : BitVec 2) (r : BitVec 4) (e f : BitVec 1) (k : BitVec 4) (s : State) : Host.Outcome State Fault Refusal :=
  s.vcvt (.vcvtSat d a m r e f k) d a m r e f k true

end Sys2Proof.Machine
end

