-- ==== Sys2Proof/Machine/Matrix.lean ====
section
/-! DEFINITION. Matrix rows: MXCFG, MXGO, MXHND, MXSTAT, ACLR, the feeder, the accumulators and the drain (major 0x2C fn 0-4; R199-R209,
R218-R225, R334, R335, R419-R423, R481, R487). -/

namespace Sys2Proof.Machine

/-! ### Row-operation descriptors (R208) -/

/-- The eight words of a row-operation descriptor. -/
abbrev RowDesc := List Word

def RowDesc.ring (d : RowDesc) : Nat := fieldOf (d.getD 0 0) 0 20
def RowDesc.ringLen (d : RowDesc) : Nat := fieldOf (d.getD 0 0) 32 16
def RowDesc.m (d : RowDesc) : Nat := fieldOf (d.getD 1 0) 0 11
def RowDesc.kSegs (d : RowDesc) : Nat := fieldOf (d.getD 1 0) 32 16
def RowDesc.shelf (d : RowDesc) : Nat := fieldOf (d.getD 2 0) 0 32
def RowDesc.accBase (d : RowDesc) : Nat := fieldOf (d.getD 3 0) 0 10
def RowDesc.overwrite (d : RowDesc) : Bool := (d.getD 3 0).toNat.testBit 16
def RowDesc.drain (d : RowDesc) : Nat := fieldOf (d.getD 3 0) 18 2

/-- The word number of the first field outside its limits (R208). -/
def RowDesc.badWord (d : RowDesc) : Option Nat :=
  if d.ring % 64 ≠ 0 ∨ d.ringLen = 0 ∨ 16384 < d.ringLen then some 0
  else if d.m = 0 ∨ 1024 < d.m ∨ d.kSegs = 0 then some 1
  else if 1024 < d.accBase + d.m ∨ 2 ≤ d.drain then some 3
  else none

/-- The first word in which two descriptors of a row disagree (R209). -/
def RowDesc.disagree (x y : RowDesc) : Option Nat :=
  if x.ring ≠ y.ring ∨ x.ringLen ≠ y.ringLen then some 0
  else if x.m ≠ y.m ∨ x.kSegs ≠ y.kSegs then some 1
  else if x.shelf ≠ y.shelf then some 2
  else if x.overwrite ≠ y.overwrite then some 3
  else none

/-- The descriptor without its reserved bits, which read as zero (R8). -/
def RowDesc.defined (d : RowDesc) : RowDesc :=
  [d.getD 0 0 &&& 0x0000FFFF000FFFFF, d.getD 1 0 &&& 0x0000FFFF000007FF, d.getD 2 0 &&& 0xFFFFFFFF, d.getD 3 0 &&& 0xD03FF, 0, 0, 0, 0]

/-- MXCFG (R200, R208, R420). -/
def execMxcfg (d a b : BitVec 6) (e f : BitVec 1) (s : State) : Host.Outcome State Fault Refusal :=
  s.issue (.mxcfg d a b e f) (fun t _ => arrayForm t { Form.plain with a := opA .src a e, rsvd := nz d || nz b || nz f }) fun c s =>
    c.ordered s fun _ => c.reach s c.a 64 true false false fun pa => c.readWords s c.a pa 8 fun ws s p =>
      match RowDesc.badWord ws with
      | some w => c.trap s 0x1D (w64 w)
      | none => c.done (p.modCore c.t.core fun co => { co with rowDesc := some (RowDesc.defined ws, c.t.tenant) })

/-! ### The state of a row -/

/-- Every segment that the operation will take is taken and applied on the member. -/
def RowRun.applied (r : RowRun) (m : RowMember) : Bool :=
  (r.ended || decide (RowDesc.kSegs m.desc ≤ r.k)) && r.half.isNone && m.todo.isEmpty

/-- The operation has completed on the member's core (R224). -/
def RowRun.doneOn (r : RowRun) (m : RowMember) : Bool := r.applied m && m.queued.isEmpty && m.drained.isEmpty

def RowRun.member? (r : RowRun) (core : Nat) : Option RowMember := r.members.find? fun m => m.core == core

/-- An operation is running or draining on the core, with the core's part in it. -/
def State.rowBusy (s : State) (core : Nat) : Option RowMember :=
  match (s.row (rowOf core)).run with
  | none => none
  | some r => (r.member? core).filter fun m => !r.doneOn m

/-- The state field of MXSTAT (R225). -/
def Row.state (r : Row) : Nat :=
  match r.run with
  | some x => if x.members.all fun m => x.applied m then 3 else 2
  | none => if r.arrivals.isEmpty then 0 else 1

/-- The word of MXSTAT (R225, R423). -/
def State.rowStatus (s : State) (core : Nat) : Word :=
  let r := s.row (rowOf core)
  match r.run with
  | none => w64 (r.state * 2 ^ 28)
  | some x =>
    let rows := match x.member? core with | some m => m.queued.length + m.drained.length | none => 0
    w64 (x.k + x.m * 2 ^ 16 + r.state * 2 ^ 28 + rows * 2 ^ 32)

/-- MXSTAT (R423). -/
def execMxstat (d a b : BitVec 6) (e f : BitVec 1) (s : State) : Host.Outcome State Fault Refusal :=
  s.issue (.mxstat d a b e f) (fun t _ => arrayForm t
    { Form.plain with d := opD .dst d, rsvd := nz a || nz b || nz e || nz f }) fun c s =>
    c.finishLater c.popped (s.rowStatus c.t.core)

/-- ACLR (R225, R335): one non-relaxed access, which clears a row at a time in increasing order (`State.performClear`). -/
def execAclr (d a b : BitVec 6) (e f : BitVec 1) (s : State) : Host.Outcome State Fault Refusal :=
  s.issue (.aclr d a b e f) (fun t _ => arrayForm t
    { Form.plain with a := opA .src a e, b := opB .src b f, rsvd := nz d }) fun c s =>
    c.ordered s fun p =>
      let r := c.a.toNat
      let n := c.b.toNat
      let core := c.t.core
      let meets := match (s.row (rowOf core)).run.bind fun x => x.member? core with
        | some m => decide (r < RowDesc.accBase m.desc + RowDesc.m m.desc) && decide (RowDesc.accBase m.desc < r + n)
        | none => false
      if n = 0 then c.done p
      else if 1024 < r + n then c.trap s 0x09 c.a
      else if meets then c.trap s 0x1C (w64 (rowOf core))
      else c.send p { Access.blank .clear c.a (accPa core (256 * r)) with val := c.b }

/-! ### MXHND (R222, R422) -/

/-- Sets a reservation of `n` contexts from the slots it has and the free ones. -/
def State.reserveContexts (s : State) (core : Nat) (pc : Word) (tenant n : Nat) (had : List Nat) : State :=
  let slots := (had ++ s.freePool core).take n
  (s.modCore core fun co =>
    { co with reserve := some { pc := pc, count := n, tenant := tenant, slots := slots } }).fillPool core

/-- The reservation of another tenant gives its contexts back: those that no handler holds are free (R222). -/
def State.dropReserve (s : State) (core tenant : Nat) : State :=
  if ((s.core core).reserve.map (·.tenant)) == some tenant then s else s.modCore core fun co => { co with reserve := none }

/-- MXHND: the thread waits while too few contexts are free; dusk contexts are revoked for it, as for a day SPAWN. -/
def execMxhnd (d a b : BitVec 6) (e f : BitVec 1) (s : State) : Host.Outcome State Fault Refusal :=
  s.issue (.mxhnd d a b e f) (fun t _ => arrayForm t
    { Form.plain with a := opA .src a e, b := opB .src b f, rsvd := nz d }) fun c s =>
    let core := c.t.core
    let n := min c.b.toNat 64
    if c.a.toNat % 4 ≠ 0 then c.trap s 0x0A c.a
    else if (s.rowBusy core).isSome then c.trap s 0x1C (w64 (rowOf core))
    else
      let same := ((s.core core).reserve.map (·.tenant)) == some c.t.tenant
      let had := if same then ((s.core core).reserve.map (·.slots)).getD [] else []
      let p := c.popped.dropReserve core c.t.tenant
      let more := n - had.length
      if more ≤ (p.freePool core).length then c.done (p.reserveContexts core c.a c.t.tenant n had)
      else
        let s := if (s.core core).revoking.isSome then s else s.revokeN core (more - (p.freePool core).length) c.uid
        c.block s (.poolContexts more)

/-! ### MXGO and its barrier (R218, R219, R421) -/

/-- Every member of the barrier takes a trap at its MXGO, and the barrier clears. -/
def State.failBarrier (s : State) (w : Nat) (cause : BitVec 8) (val : Word) : State :=
  let r := s.row w
  r.arrivals.foldl (fun s a => (s.modThread a.uid Thread.wake).takeTrap a.uid cause val a.word a.shown)
    (s.setRow w { r with arrivals := [] })

/-- Every member is held at its MXGO with a replayable cause, all under one serial number; one record tells of the feed core's member
(R219). -/
def State.holdBarrier (s : State) (w : Nat) (cause : BitVec 8) (val : Word) : State :=
  let r := s.row w
  let (serial, s) := s.fresh
  let holdOne (s : State) (a : Arrival) : State :=
    match s.thread? a.uid with
    | none => s
    | some t =>
      let l : Latch :=
        { word := a.word, shown := a.shown, pc := t.pc, pass := (t.rep.map (·.pass)).getD 0, idx := (t.rep.map (·.idx)).getD 0, cause := cause,
          val := val, detail := 0, sent := false, walk := false, double := false, fetch := false, barrier := serial, trapped := false }
      let s := (s.setThread { t.setStat .heldFault with latch := some l, await := .nothing, replay := false }).count t.core 7 (some t)
      if a.core = rowCore w 0 then s.sendHeld t l else s
  r.arrivals.foldl holdOne (s.setRow w { r with arrivals := [] })

/-- Check 2 of R218: the FLTVAL of *row descriptor mismatch*. -/
def mismatch (as : List Arrival) : Option Nat :=
  if as.any fun a => a.desc.isNone then some 6
  else match as with
  | [] => none
  | first :: _ =>
    let d (a : Arrival) : RowDesc := (a.desc.map (·.1)).getD []
    match (as.filterMap fun a => RowDesc.disagree (d first) (d a)).foldl (fun (b : Option Nat) w => some (min (b.getD w) w)) none with
    | some w => some w
    | none =>
      let ten := (first.desc.map (·.2)).getD 0
      if as.all fun a => a.tenant == ten && (a.desc.map (·.2)) == some ten then none else some 7

/-- What the 16th arrival finds (R218): the operation may start on a folio, or the cause, the FLTVAL, and whether it is held. -/
inductive BarrierCheck where
  | start (idx : Nat) (folio : Folio)
  | fail (cause : BitVec 8) (val : Word) (held : Bool)
  deriving DecidableEq, Repr

/-- The checks of R218 in their order. -/
def State.checkBarrier (s : State) (w : Nat) : BarrierCheck :=
  let r := s.row w
  let as := r.arrivals
  let feed := rowCore w 0
  if r.run.isSome then .fail 0x1C (w64 w) false
  else match mismatch as with
  | some n => .fail 0x1D (w64 (2 ^ 63 + n)) false
  | none =>
    let d : RowDesc := ((as.head?.bind (·.desc)).map (·.1)).getD []
    let ten := ((as.head?.bind (·.desc)).map (·.2)).getD 0
    let unready (a : Arrival) : Bool :=
      RowDesc.drain ((a.desc.map (·.1)).getD []) == 0 &&
        !(match (s.core a.core).reserve with | some x => x.tenant == ten && !x.slots.isEmpty | none => false)
    if as.any unready then .fail 0x1D 3 false
    else if !s.allots ten feed d.ring (64 * d.ringLen) then .fail 0x09 (w64 d.ring) false
    else match s.liveFolio? ten (w64 d.shelf) with
    | none => .fail 0x18 (w64 d.shelf) false
    | some (i, f) =>
      let fd : FolioDesc := f.desc
      if !fd.rows.contains w then .fail 0x18 (w64 d.shelf) false
      else if fd.fmt.mx && !s.allots ten feed (d.ring + 64 * d.ringLen) (8 * d.ringLen) then
        .fail 0x09 (w64 (d.ring + 64 * d.ringLen)) false
      else if fd.k < d.kSegs * fd.fmt.depth then .fail 0x1D 1 false
      else match f.state with
      | .absent => .fail 0x19 (w64 d.shelf) true
      | .stale => if fd.auto then .start i f else .fail 0x1A (w64 d.shelf) false
      | _ => .start i f

/-- The operation starts: the MXGO instructions complete, and the row waits for its folio if it is not ready (R218, R481). -/
def State.startRow (s : State) (w idx : Nat) : State :=
  let r := s.row w
  let d : RowDesc := ((r.arrivals.head?.bind (·.desc)).map (·.1)).getD []
  let waiting := decide ((s.folio? idx).map (·.state) ≠ some .ready)
  let run : RowRun :=
    { tenant := ((r.arrivals.head?.bind (·.desc)).map (·.2)).getD 0, folio := idx,
      check := ((s.folio? idx).map (·.check)).getD 0, waiting := waiting, k := 0, m := 0, half := none,
      poisoned := false, status := 0, ended := decide (d.kSegs = 0),
      members := r.arrivals.map fun a =>
        { core := a.core, uid := a.uid, tid := a.tid, tag := a.tag, desc := (a.desc.map (·.1)).getD [], todo := [], nv := false,
          ovf := false, wrote := 0, queued := [], drained := [] } }
  let s := { s with nextId := s.nextId + 1 }.modFolio idx fun f => { f with used := s.nextId }
  r.arrivals.foldl (fun s a => s.release a.uid) (s.setRow w { arrivals := [], run := some run, halted := false })

/-- The checks of the 16th arrival, and the outcome for all members. -/
def State.completeBarrier (s : State) (w : Nat) (v : Viewer) : State :=
  let raise (cause : BitVec 8) (val : Word) (held : Bool) : State :=
    if held then s.holdBarrier w cause val else s.failBarrier w cause val
  match s.checkBarrier w with
  | .fail cause val held => raise cause val held
  | .start i f =>
    if f.state = .stale then
      match s.refreshFolio (s.walkPager v) i f with
      | .error (.bad cause val) => raise cause (w64 val) (replayable cause)
      | .error (.miss val _) => raise 0x08 (w64 val) true
      | .ok s => s.startRow w i
    else s.startRow w i

/-- MXGO: the arrival is counted and the thread parks; its WAITLIM count starts (R77, R218, R421). -/
def execMxgo (d a b : BitVec 6) (e f : BitVec 1) (s : State) : Host.Outcome State Fault Refusal :=
  s.issue (.mxgo d a b e f) (fun t _ => arrayForm t { Form.plain with a := opA .src a e, rsvd := nz d || nz b || nz f }) fun c s =>
    c.ordered s fun p =>
      let core := c.t.core
      let w := rowOf core
      if (s.row w).arrivals.any fun x => x.core == core then c.trap s 0x1C (w64 w)
      else
        let arrival : Arrival :=
          { id := p.nextId, core := core, uid := c.uid, tid := c.t.tid, tenant := c.t.tenant, tag := fieldOf c.a 0 16,
            desc := (s.core core).rowDesc, since := p.now, word := c.raw, shown := c.shown }
        let p := { p with nextId := p.nextId + 1 }.modThread c.uid fun t =>
          { t.setStat .parkedMemory with await := .nothing, latch := none, replay := false, parked := c.raw, parkedShown := c.shown, parkedRsvd := c.rsvd }
        let p := p.setRow w { p.row w with arrivals := insertBy (·.core) arrival (p.row w).arrivals }
        let p := if c.t.waitlim = 0 then p else p.postLimit (p.now + c.t.waitlim.toNat) arrival.id
        if (p.row w).arrivals.length = 16 then p.completeBarrier w c.t.viewer else p

/-! ### The feeder (R205, R206) -/

/-- The slot of the segment that comes next, and its second slot. -/
def RowRun.slot (r : RowRun) (d : RowDesc) (slots : Nat) : Nat := (r.k * d.m + r.m) * slots % d.ringLen

/-- The words of a ring slot, and its scale word. -/
def slotWords (feed : Nat) (d : RowDesc) (i : Nat) (mx : Bool) : List Nat :=
  ((List.range 8).map fun j => spadPa feed (d.ring + 64 * i + 8 * j)) ++
    (if mx then [spadPa feed (d.ring + 64 * d.ringLen + 8 * i)] else [])

/-- The descriptor and the folio of an operation. -/
def State.rowParts (s : State) (r : RowRun) : Option (RowDesc × FolioDesc) :=
  match r.members, s.folio? r.folio with
  | m :: _, some f => some (m.desc, f.desc)
  | _, _ => none

/-- The words that the feeder takes next, and those that it needs to be present (R206). -/
def State.feederWords (s : State) (w : Nat) (r : RowRun) : List Nat × List Nat :=
  match s.rowParts r with
  | none => ([], [])
  | some (d, fd) =>
    let feed := rowCore w 0
    let i := r.slot d fd.fmt.slots
    let first := slotWords feed d i fd.fmt.mx
    if fd.fmt.slots = 1 then (first, first)
    else
      let second := slotWords feed d ((i + 1) % d.ringLen) false
      if r.half.isSome then (second, second) else (first, first ++ second)

/-- The feeder may take a slot. Once it has taken the first slot of a 16-bit segment it takes the second in the next cycle (R206). -/
def State.mayFeed (s : State) (w : Nat) : Bool :=
  let x := s.row w
  match x.run with
  | none => false
  | some r =>
    let (take, need) := s.feederWords w r
    !r.ended && !r.waiting && !x.halted && !s.away (rowCore w 0) && !take.isEmpty &&
      (r.members.all fun m => decide (r.k < RowDesc.kSegs m.desc)) &&
      (r.half.isSome || (need.all (fun a => (s.tag a).p || s.poisoned a) && s.mayWrite need))

/-- The row whose feeder has taken the first slot of a segment and takes the second one now. -/
def State.halfTaken (s : State) : Option Nat :=
  (s.rows.find? fun e => ((e.2.run.map fun r => r.half.isSome) == some true) && s.mayFeed e.1).map (·.1)

/-- The take of one word: P is cleared and a watch event raised; a poisoned word stays as it is. -/
def State.feedWord (s : State) (tenant a : Nat) : State :=
  if s.poisoned a then s else (s.setP a false).written a (.unit tenant)

/-- The position after the present segment. -/
def RowRun.advance (r : RowRun) (d : RowDesc) : RowRun :=
  if r.m + 1 < d.m then { r with m := r.m + 1 } else { r with m := 0, k := r.k + 1 }

/-- The operation after a slot with the data `ws`: a whole segment goes to every core of the row. -/
def RowRun.taken (r : RowRun) (d : RowDesc) (slots : Nat) (ws : List Word) (scale : Word) (bad : Bool) : RowRun :=
  if slots = 2 ∧ r.half.isNone = true then { r with half := some (ws, bad), poisoned := r.poisoned || bad }
  else
    let (pre, bad0) := r.half.getD ([], false)
    let seg : Segment := { k := r.k, m := r.m, words := pre ++ ws, scale := scale, poisoned := bad || bad0 }
    { (r.advance d) with half := none, poisoned := r.poisoned || bad,
                         members := r.members.map fun m : RowMember => { m with todo := m.todo ++ [seg] } }

/-- FEEDER_TAKE (R206): one take access of the feed core's scratchpad. A segment taken counts on the feed core (R319). -/
def execFeederTake (row : Nat) (s : State) : Host.Outcome State Fault Refusal :=
  .next (if !s.mayFeed row then s
    else match (s.row row).run with
    | none => s
    | some r =>
      match s.rowParts r with
      | none => s
      | some (d, fd) =>
        let ws := (s.feederWords row r).1
        let s := ws.foldl (fun s a => s.checkEcc a) s
        let bad := ws.any fun a => s.poisoned a
        let data := (ws.take 8).map s.word
        let scale := match ws[8]? with | some a => s.word a | none => 0
        let s := ws.foldl (fun s a => s.feedWord r.tenant a) s
        let r' := r.taken d fd.fmt.slots data scale bad
        let s := if r'.half.isNone then s.count (rowCore row 0) 0x0B none else s
        (s.setRow row { s.row row with run := some r' }).serve ws)

/-! ### The arithmetic (R152, R203, R487) -/

/-- The element format of a folio code; none for the integer formats. -/
def elementFp (code : Nat) : Option FpFmt :=
  match code with
  | 2 => some fp16
  | 3 => some bf16
  | 4 | 6 => some e4m3
  | 5 | 7 => some e5m2
  | 8 => some e2m1
  | _ => none

/-- A running exact sum: whether it is a NaN, whether it holds either infinity, the sum in units of `2^lo`, whether every term so
far is -0, and NV. -/
structure Exact where
  nan : Bool
  pinf : Bool
  ninf : Bool
  sum : Int
  lo : Int
  negZero : Bool
  nv : Bool
  deriving DecidableEq, Repr

def Exact.empty : Exact := { nan := false, pinf := false, ninf := false, sum := 0, lo := 0, negZero := true, nv := false }

/-- Adds a term; none is an invalid product. -/
def Exact.add (x : Exact) : Option FpVal → Exact
  | none => { x with nan := true, nv := true }
  | some (.nan q) => { x with nan := true, nv := x.nv || q }
  | some (.inf n) => { x with pinf := x.pinf || !n, ninf := x.ninf || n, negZero := false }
  | some (.fin n m e) =>
    let lo := min x.lo e
    { x with sum := (x.sum * (2 ^ (x.lo - lo).toNat : Nat)) + scaled n m e lo, lo := lo, negZero := x.negZero && n && decide (m = 0) }

/-- The sum rounded once to FP32, with its flags. -/
def Exact.round (x : Exact) : Nat × Flags :=
  if x.nan then (fp32.qnan, flIf x.nv flNV)
  else if x.pinf && x.ninf then (fp32.qnan, flNV)
  else if x.pinf then (fp32.inf false, 0)
  else if x.ninf then (fp32.inf true, 0)
  else if x.sum = 0 then (fp32.sign x.negZero, 0)
  else fp32.round .rne false (decide (x.sum < 0)) x.sum.natAbs x.lo

/-- A value with an MX scale byte; a NaN scale gives a NaN (R152). -/
def applyScale (v : FpVal) (x : Nat) : FpVal :=
  if x = 0xFF then .nan false
  else match v with
  | .fin n m e => .fin n m (e + x - 127)
  | v => v

/-- The byte of a folio's contents at an offset. -/
def Folio.byteAt (f : Folio) (off : Nat) : Nat := (Memory.read f.data off).toNat

/-- The bits of element `i` of an array of `w`-bit elements whose bytes are given. -/
def elementOf (byte : Nat → Nat) (w i : Nat) : Nat :=
  match w with
  | 4 => bits (byte (i / 2)) (4 * (i % 2)) 4
  | 8 => byte i
  | _ => byte (2 * i) + 256 * byte (2 * i + 1)

/-- The element b(k, n) of a folio, 0 beyond its last column, and its scale byte (R204, R211). -/
def Folio.element (f : Folio) (k n : Nat) : Nat × Nat :=
  let d : FolioDesc := f.desc
  if d.n ≤ n then (0, 127)
  else
    let i := if d.nMajor then n * d.k + k else k * d.n + n
    let j := if d.nMajor then n * (d.k / 32) + k / 32 else k / 32 * d.n + n
    (elementOf f.byteAt d.fmt.width i, if d.fmt.mx then f.byteAt (d.elementBytes + j) else 127)

/-- Element `i` of a segment. -/
def Segment.element (g : Segment) (w i : Nat) : Nat := bits ((g.words.getD (i * w / 64) 0).toNat) (i * w % 64) w

/-- The product of a(m, k) and b(k, n), with both scales; none is invalid. -/
def Folio.product (f : Folio) (fp : FpFmt) (g : Segment) (n i : Nat) : Option FpVal :=
  let d : FolioDesc := f.desc
  let a := fp.unpack (g.element d.fmt.width i)
  let (bb, bs) := f.element (g.k * d.fmt.depth + i) n
  let b := fp.unpack bb
  if d.fmt.mx then mulExact (applyScale a (bits g.scale.toNat (8 * (i / 32)) 8)) (applyScale b bs) else mulExact a b

/-- The exact integer sum of the products of a segment (R203). -/
def Folio.intSum (f : Folio) (g : Segment) (n : Nat) : Int :=
  let d : FolioDesc := f.desc
  let val (x : Nat) : Int := if d.code = 12 then signed 8 x else x
  (List.range d.fmt.depth).foldl (fun acc i => acc + val (g.element 8 i) * val (f.element (g.k * d.fmt.depth + i) n).1) 0

/-- The folio-store word at byte offset `o` holds an element or a scale that segment `g` needs for the 64 columns from `first` on. -/
def Folio.wordUsed (f : Folio) (g : Segment) (first o : Nat) : Bool :=
  let d : FolioDesc := f.desc
  let inside (k n : Nat) : Bool := decide (k / d.fmt.depth = g.k) && decide (first ≤ n) && decide (n < first + 64)
  if o < d.elementBytes then
    (List.range (64 / d.fmt.width)).any fun j =>
      let i := o * 8 / d.fmt.width + j
      if d.nMajor then inside (i % d.k) (i / d.k) else inside (i / d.n) (i % d.n)
  else
    (List.range 8).any fun j =>
      let i := o - d.elementBytes + j
      if d.nMajor then inside (32 * (i % (d.k / 32))) (i / (d.k / 32)) else inside (32 * (i / d.n)) (i % d.n)

/-- The new accumulator value of column `n`, and its flags (R203, R206, R487). `fresh`: the first segment in overwrite mode. -/
def Folio.update (f : Folio) (g : Segment) (n c : Nat) (fresh : Bool) : Nat × Flags :=
  let d : FolioDesc := f.desc
  match elementFp d.code with
  | none =>
    if g.poisoned then (0x80000000, 0)
    else (((f.intSum g n + (if fresh then 0 else (c : Int))) % (2 ^ 32 : Int)).toNat, 0)
  | some fp =>
    if g.poisoned then (fp32.qnan, 0)
    else
      let start := if fresh then Exact.empty else Exact.empty.add (some (fp32.unpack c))
      ((List.range d.fmt.depth).foldl (fun x i => x.add (f.product fp g n i)) start).round

/-! ### ACCUMULATOR_UPDATE (R203-R207) -/

/-- The first folio column of a core of row `w` (R204). -/
def Folio.firstColumn (f : Folio) (w core : Nat) : Nat :=
  FolioDesc.column f.desc (((FolioDesc.rows f.desc).findIdx? fun x => x == w).getD 0) (rowSlot core)

/-- One core applies a segment to the 64 values of its accumulator row. -/
def State.applySegment (s : State) (f : Folio) (w : Nat) (m : RowMember) (g : Segment) : State × Flags :=
  let d : RowDesc := m.desc
  let first := f.firstColumn w m.core
  (List.range 64).foldl (fun (x : State × Flags) c =>
    let pa := accPa m.core (256 * (d.accBase + g.m) + 4 * c)
    let r := f.update g (first + c) (x.1.read pa 4) (decide (g.k = 0) && d.overwrite)
    (x.1.store pa 4 r.1, x.2 ||| r.2)) (s, 0)

/-- The member after a segment: sticky flags, and the row's place in the drain queue after its last segment (R223, R224). -/
def RowMember.after (m : RowMember) (g : Segment) (fl : Flags) : RowMember :=
  let d : RowDesc := m.desc
  { m with todo := m.todo.tail, nv := m.nv || decide (fl &&& flNV ≠ 0), ovf := m.ovf || decide (fl &&& flOF ≠ 0),
           wrote := max m.wrote (g.m + 1),
           queued := if g.k + 1 = d.kSegs ∧ d.drain = 0 then m.queued ++ [g.m] else m.queued }

/-- A member of the row has a segment to apply. -/
def State.mayUpdate (s : State) (w j : Nat) : Bool :=
  let x := s.row w
  match x.run with
  | none => false
  | some r => !x.halted && !s.away (rowCore w j) && (match r.member? (rowCore w j) with | some m => !m.todo.isEmpty | none => false)

/-- The next segment of the core in slot `slot` of a row: the operation, the core's part, the folio and the segment. -/
def State.nextSegment (s : State) (row slot : Nat) : Option (RowRun × RowMember × Folio × Segment) :=
  if !s.mayUpdate row slot then none
  else match (s.row row).run with
  | none => none
  | some r =>
    match r.member? (rowCore row slot), s.folio? r.folio with
    | some m, some f => m.todo.head?.map fun g => (r, m, f, g)
    | _, _ => none

/-- ACCUMULATOR_UPDATE: the core in slot `slot` of the row applies its next segment. The folio-store words that it needs are checked
first (R221, R301). -/
def execAccumulatorUpdate (row slot : Nat) (s : State) : Host.Outcome State Fault Refusal :=
  .next (match s.nextSegment row slot with
    | none => s
    | some (r, m, f, g) =>
      let s := s.checkFolio r.folio m.core (f.wordUsed g (f.firstColumn row m.core))
      match s.nextSegment row slot with
      | none => s
      | some (r, m, f, g) =>
        let (s, fl) := s.applySegment f row m g
        s.setRow row { s.row row with run := some { r with members := r.members.map fun x => if x.core = m.core then m.after g fl else x } })

/-! ### Drain (R223, R224) -/

/-- A reserved context of a core that holds no thread. -/
def State.freeReserved (s : State) (core : Nat) : Option (Nat × Reservation) :=
  match (s.core core).reserve with
  | none => none
  | some x => (x.slots.find? fun n => (s.occupant? (core * 512 + n)).isNone).map fun n => (n, x)

/-- A queued row and a free reserved context are at hand. -/
def State.mayDrain (s : State) (core : Nat) : Bool :=
  isArray core && !s.away core && (s.freeReserved core).isSome &&
    match (s.row (rowOf core)).run with
    | some r => (match r.member? core with | some m => !m.queued.isEmpty | none => false)
    | none => false

/-- DRAIN_DISPATCH (R49, R223): the next row goes to a handler. -/
def execDrainDispatch (core : Nat) (s : State) : Host.Outcome State Fault Refusal :=
  .next (if !s.mayDrain core then s
    else match (s.row (rowOf core)).run, s.freeReserved core with
    | some r, some (slot, x) =>
      match r.member? core with
      | none => s
      | some m =>
        match m.queued with
        | [] => s
        | q :: rest =>
          let accRow := RowDesc.accBase m.desc + q
          let m' := { m with queued := rest, drained := m.drained ++ [q] }
          let s := s.setRow (rowOf core) { s.row (rowOf core) with
            run := some { r with members := r.members.map fun y => if y.core = core then m' else y } }
          s.placeThread core slot r.tenant .user .noon x.pc [w64 q, w64 (256 * accRow), w64 m.tag, 0] fun t =>
            { t with drain := some { m := q, accRow := accRow } }
    | _, _ => s)

/-- Status of a completion (R224). -/
def RowRun.result (r : RowRun) : Nat := if r.status ≠ 0 then r.status else bitNat r.poisoned

/-- The completion message of one core (R194, R224). -/
def RowRun.message (r : RowRun) (m : RowMember) : Msg :=
  { id := 0, slot := tidSlot m.tid, bound := some m.uid, kind := 4, status := r.result, sender := m.tid,
    w0 := w64 (m.tag + bitNat m.nv * 2 ^ 16 + bitNat m.ovf * 2 ^ 17), w1 := w64 m.wrote, popped := false, device := true }

/-- Every core of the row has completed, and every completion message can enter its mailbox or will be discarded (R192, R224). -/
def State.mayComplete (s : State) (w : Nat) : Bool :=
  match (s.row w).run with
  | none => false
  | some r => r.members.all fun m =>
      r.doneOn m && !s.away m.core && s.deviceRoom m.core (r.message m)

/-- ROW_OPERATION_COMPLETE (R215, R224). -/
def execRowOperationComplete (row : Nat) (s : State) : Host.Outcome State Fault Refusal :=
  .next (if !s.mayComplete row then s
    else match (s.row row).run with
    | none => s
    | some r =>
      let s := (s.setRow row { s.row row with run := none, halted := false }).releaseFolio r.folio
      r.members.foldl (fun s m => s.enterMessage m.core (r.message m)) s)

end Sys2Proof.Machine
end

