-- ==== Sys2Proof/Machine/Tables.lean ====
section
/-! DEFINITION. Embedding tables and gathers: major 0x2A fn 8-11 and their steps (R227-R238, R385, R386, R452). -/

namespace Sys2Proof.Machine

/-! ### Table descriptors (R228) -/

namespace TableSlot
def base (t : TableSlot) : Nat := fieldOf (t.words.getD 0 0) 0 52
/-- Bytes of a row. -/
def rowBytes (t : TableSlot) : Nat := 64 * fieldOf (t.words.getD 1 0) 0 9
def rows (t : TableSlot) : Nat := fieldOf (t.words.getD 1 0) 32 32
def fmt (t : TableSlot) : Nat := fieldOf (t.words.getD 2 0) 0 4
def wantsHot (t : TableSlot) : Bool := (t.words.getD 2 0).toNat.testBit 4
def version (t : TableSlot) : Nat := fieldOf (t.words.getD 3 0) 0 32
/-- The descriptor words without their reserved bits, which read as zero (R8). -/
def defined (ws : List Word) : List Word :=
  [w64 (fieldOf (ws.getD 0 0) 0 52), ws.getD 1 0 &&& 0xFFFFFFFF000001FF, w64 (fieldOf (ws.getD 2 0) 0 5), w64 (fieldOf (ws.getD 3 0) 0 32), 0, 0, 0, 0]
/-- Every field is good, for a slot whose current VER is `cur`. -/
def good (t : TableSlot) (cur : Nat) : Bool :=
  decide (t.base % 64 = 0) && decide (1 ≤ fieldOf (t.words.getD 1 0) 0 9) && decide (fieldOf (t.words.getD 1 0) 0 9 ≤ 256) &&
    decide (1 ≤ t.rows) && decide (t.fmt ≠ 15) && decide (cur < t.version)
end TableSlot

/-- The current VER of a slot: 0 while it is empty (R229). -/
def Tenant.tableVersion (t : Tenant) (slot : Nat) : Nat := ((lookup? t.tables slot).map TableSlot.version).getD 0

/-- The version in a slot becomes old (R229). -/
def Tenant.retire (t : Tenant) (slot : Nat) : Tenant :=
  match lookup? t.tables slot with
  | some v => { t with tables := erase t.tables slot, oldTables := t.oldTables ++ [(slot, v)] }
  | none => t

/-- The pages of a table that are mapped to tagged memory: its runs lie in them. -/
def State.tablePages (s : State) (v : Viewer) (t : TableSlot) : List (Nat × Nat × Nat) :=
  let hi := t.base + t.rows * t.rowBytes
  (List.range (hi / 0x10000 - t.base / 0x10000 + 1)).flatMap fun i =>
    let a := max t.base ((t.base / 0x10000 + i) * 0x10000)
    let b := min hi ((t.base / 0x10000 + i + 1) * 0x10000)
    match (if a < b then s.pages v a (b - a) .read else .ok []) with
    | .ok ps => ps.filter fun p => tagged p.2.1
    | .error _ => []

/-- Installs a version: HOT takes effect when its watch entries could be installed (R229). -/
def State.installTable (s : State) (v : Viewer) (tenant slot : Nat) (ws : List Word) : State :=
  let serial := s.nextId
  let s := { s with nextId := s.nextId + 1 }
  let t : TableSlot := { words := ws, hot := false, serial := serial }
  let put (s : State) (hot : Bool) : State := s.modTenant tenant fun x =>
    { x.retire slot with tables := insert (x.retire slot).tables slot { t with hot := hot } }
  if !t.wantsHot then put s false
  else
    let runs := runsOf t.base [] (s.tablePages v t)
    let es := s.entriesFor runs
    if s.tablesHold es then put (s.installWatch es runs tenant 1 (BitVec.ofNat 32 slot) (.hot tenant slot serial) none) true
    else put (s.modFront fun f => { f with hotRefused := f.hotRefused + 1 }) false

/-- TBSW (R229, R452). -/
def execTbsw (d a b : BitVec 6) (e f : BitVec 1) (s : State) : Host.Outcome State Fault Refusal :=
  s.issue (.tbsw d a b e f) (fun _ _ => { Form.plain with a := opA .src a e, b := opB .src b f, rsvd := nz d }) fun c s =>
    let slot := c.a.toNat
    if 255 < slot then c.trap s 0x09 c.a
    else if c.b.toNat % 64 ≠ 0 then c.trap s 0x0A c.b
    else if c.b = 0 then c.ordered s fun p => c.done (p.modTenant c.t.tenant fun t => t.retire slot)
    else c.reach s c.b 64 true false false fun pa =>
      c.ordered s fun _ =>
        c.readWords s c.b pa 8 fun ws s p =>
          if ({ words := ws, hot := false, serial := 0 } : TableSlot).good ((p.tenant c.t.tenant).tableVersion slot) then
            c.done (p.installTable c.t.viewer c.t.tenant slot (TableSlot.defined ws))
          else c.trap s 0x09 c.b

/-- The serial numbers of the old versions of a slot. -/
def Tenant.oldVersions (t : Tenant) (slot : Nat) : List Nat := (t.oldTables.filter fun o => o.1 == slot).map fun o => o.2.serial

/-- A gather of the tenant, in progress or saved by a curfew, uses one of the versions `old` of the slot (R230, R236). -/
def State.oldGathers (s : State) (tenant slot : Nat) (old : List Nat) : Bool :=
  (s.gathers ++ (s.images.filter (·.live)).flatMap (·.gathers)).any fun g =>
    g.tenant == tenant && g.slot == slot && old.contains g.table.serial

/-- Removes what is left of the versions `old` of a slot (R230). -/
def State.drainTable (s : State) (tenant slot : Nat) (old : List Nat) : State :=
  let s := { s with
    watch := s.watch.filter fun e => match e.installer with
      | .hot t k n => !(t == tenant && k == slot && old.contains n)
      | _ => true
    hotRows := s.hotRows.filter fun h => !(h.tenant == tenant && h.slot == slot && old.contains h.serial) }
  s.modTenant tenant fun t => { t with oldTables := t.oldTables.filter fun o => !(o.1 == slot && old.contains o.2.serial) }

/-- TBDRN (R230, R452): it waits for the versions that are old when it begins. -/
def execTbdrn (d a b : BitVec 6) (e f : BitVec 1) (s : State) : Host.Outcome State Fault Refusal :=
  s.issue (.tbdrn d a b e f) (fun _ _ => { Form.plain with a := opA .src a e, rsvd := nz d || nz b || nz f }) fun c s =>
    let slot := c.a.toNat
    let old := if c.t.phase = 0 then (s.tenant c.t.tenant).oldVersions slot else c.t.waits
    if 255 < slot then c.trap s 0x09 c.a
    else if s.oldGathers c.t.tenant slot old then
      c.block (s.modThread c.uid fun t => { t with phase := 1, waits := old }) (.oldGathers slot)
    else c.done ((c.popped.drainTable c.t.tenant slot old).modThread c.uid fun t => { t with waits := [] })

/-! ### Gather requests (R231, R232) -/

def reqSlot (q : List Word) : Nat := fieldOf (q.getD 0 0) 0 8
/-- Bytes of an index or offset. -/
def reqSize (q : List Word) : Nat := if (q.getD 0 0).toNat.testBit 8 then 8 else 4
def reqBags (q : List Word) : Nat := fieldOf (q.getD 0 0) 16 16
def reqCount (q : List Word) : Nat := fieldOf (q.getD 0 0) 32 32
def reqIdx (q : List Word) : Nat := fieldOf (q.getD 1 0) 0 52
def reqDst (q : List Word) : Nat := fieldOf (q.getD 2 0) 0 52
def reqOffs (q : List Word) : Nat := fieldOf (q.getD 3 0) 0 52

/-- The fields of a request are good (R231). -/
def reqGood (q : List Word) (sum : Bool) : Bool :=
  decide (1 ≤ reqCount q) && decide (reqCount q ≤ 65536) && decide (reqIdx q % reqSize q = 0) && decide (reqDst q % 64 = 0) &&
    (!sum || (decide (1 ≤ reqBags q) && decide (reqOffs q % reqSize q = 0)))

/-- The formats that GATH.sum adds (R232). -/
def sumFormat (f : Nat) : Bool := [0, 1, 2, 3, 9, 10].contains f

/-- A page of the destination outside DRAM, scratchpad and accumulator memory (R386). -/
def badDest (p : Nat × Nat × Nat) : Bool :=
  match regionOf p.2.1 with
  | .dram | .spad _ _ | .acc _ _ => false
  | _ => true

/-- The request without its reserved bits, which read as zero (R8); NBAGS and OFFS are reserved in GATH. -/
def reqDefined (q : List Word) (sum : Bool) : List Word :=
  [q.getD 0 0 &&& (if sum then 0xFFFFFFFFFFFF01FF else 0xFFFFFFFF000001FF), w64 (reqIdx q), w64 (reqDst q), if sum then w64 (reqOffs q) else 0]

/-- The pages of a gather: index list, offset list, destination, through the translation buffer (R58, R232, R386). -/
def Ctx.gatherPages (c : Ctx) (s : State) (q : List Word) (sum : Bool) (bytes : Nat) (k : List (Nat × Nat × Nat) → State) : State :=
  let bad (cause : BitVec 8) (a : Nat) : State := c.raise s cause (w64 a)
  c.pages s (reqIdx q) (reqCount q * reqSize q) .read bad fun ps =>
    c.pages s (reqOffs q) (if sum then (reqBags q + 1) * reqSize q else 0) .read bad fun os =>
      c.pages s (reqDst q) bytes .write bad fun ds =>
        match ds.find? badDest with
        | some p => c.trap s 0x09 (w64 p.1)
        | none => k (ps ++ os ++ ds)

/-- The claim of a destination range (R109, R232). -/
def State.claimRange (s : State) (c tenant : Nat) (dusk curator : Bool) (pages : List (Nat × Nat × Nat)) (va words : Nat) : State :=
  (List.range words).foldl (fun s k =>
    match pageOf pages (va + 8 * k) with
    | none => s
    | some pa => if s.engineLost c (some c) tenant dusk curator pa then s else (s.recallFor pa tenant dusk).claim pa) s

/-- GATH and GATH.sum (R232, R385, R386). -/
def State.gatherForm (s : State) (i : Instr) (d a b : BitVec 6) (e f : BitVec 1) (sum : Bool) : Host.Outcome State Fault Refusal :=
  s.issue i (fun _ _ => { Form.plain with a := opA .src a e, rsvd := nz d || nz b || nz f }) fun c s =>
    if c.a.toNat % 32 ≠ 0 then c.trap s 0x0A c.a
    else c.reach s c.a 32 true false false fun pa =>
      c.ordered s fun _ =>
        c.readWords s c.a pa 4 fun q s p =>
          match lookup? (p.tenant c.t.tenant).tables (reqSlot q) with
          | none => c.trap s 0x09 c.a
          | some t =>
            if !reqGood q sum || (sum && !sumFormat t.fmt) then c.trap s 0x09 c.a
            else
              let rows := if sum then reqBags q else reqCount q
              c.gatherPages s q sum (rows * t.rowBytes) fun ps =>
                let dusk := p.classOf c.t == .dusk
                let curator := c.t.level == .curator
                let g : Gather :=
                  { id := p.nextId, uid := c.uid, tenant := c.t.tenant, core := c.t.core, stack := homeStack c.t.core, sum := sum,
                    curatorLevel := curator, req := reqDefined q sum, slot := reqSlot q, table := t, next := 0, rows := rows,
                    lookups := reqCount q, dusk := dusk, window := 0, seen := [], got := [], pages := ps }
                let p := p.claimRange c.t.core c.t.tenant dusk curator ps (reqDst q) (rows * t.rowBytes / 8)
                c.done ({ p with nextId := p.nextId + 1, gathers := p.gathers ++ [g] }.postNow (.gatherRowWrite g.id))

/-- GATH. -/
def execGath (d a b : BitVec 6) (e f : BitVec 1) (s : State) : Host.Outcome State Fault Refusal :=
  s.gatherForm (.gath d a b e f) d a b e f false

/-- GATH.sum. -/
def execGathSum (d a b : BitVec 6) (e f : BitVec 1) (s : State) : Host.Outcome State Fault Refusal :=
  s.gatherForm (.gathSum d a b e f) d a b e f true

/-! ### The hot-row store (R237, R238) -/

/-- The index of a lookup count: the hash is not architected, and it affects timing only (log entry 23). -/
def hotKey (slot serial idx : Nat) : Nat := (idx + 256 * serial + slot) % 2 ^ 16

def State.hotCount (s : State) (h : HotRow) : Nat :=
  (lookupD s.front.hotCounts (h.stack * 2 ^ 16 + hotKey h.slot h.serial h.idx) 0).toNat

/-- A lookup is counted; after 2^20 of them the store halves its counts. -/
def State.countLookup (s : State) (h : HotRow) : State :=
  let key := h.stack * 2 ^ 16 + hotKey h.slot h.serial h.idx
  let n := lookupD s.front.hotLookups h.stack 0 + 1
  let s := s.modFront fun f =>
    { f with hotCounts := insert f.hotCounts key (BitVec.ofNat 8 (min 255 (s.hotCount h + 1))), hotLookups := insert f.hotLookups h.stack n }
  if n = 2 ^ 20 then s.postNow (.hotRowCountHalving h.stack) else s

/-- The bytes of a store's rows. -/
def hotBytes (hs : List HotRow) : Nat := (hs.map (·.size)).foldl (· + ·) 0

/-- The rows that a missed row replaces: those of the lowest counts, as many as make room for it in 32 MiB; none when one of them does
not have a lower count than its own (R237, R238). -/
def State.replaced (s : State) (h : HotRow) : List HotRow → Option (List HotRow)
  | [] => some []
  | x :: rest =>
    if hotBytes (x :: rest) + h.size ≤ 2 ^ 25 then some []
    else if s.hotCount x < s.hotCount h then (s.replaced h rest).map (x :: ·)
    else none

/-- A missed row is admitted while the store has room, or in place of rows with lower counts. -/
def State.admitRow (s : State) (h : HotRow) : State :=
  match s.replaced h (sortBy s.hotCount (s.hotRows.filter fun x => x.stack == h.stack)) with
  | some out => { s with hotRows := (s.hotRows.filter fun y => !out.contains y) ++ [h] }
  | none => s

/-- A lookup of a hot version passes the store: a hit changes nothing, since a held row equals what memory holds (R237). -/
def State.passHotStore (s : State) (g : Gather) (idx : Nat) (ws : List (Option Word)) : State :=
  if !g.table.hot then s
  else
    let h : HotRow := { stack := g.stack, tenant := g.tenant, slot := g.slot, serial := g.table.serial, idx := idx, size := g.table.rowBytes }
    let s := s.countLookup h
    if s.hotRows.contains h || ws.any Option.isNone then s else s.admitRow h

/-- HOT_ROW_COUNT_HALVING (R238). -/
def execHotRowCountHalving (stack : Nat) (s : State) : Host.Outcome State Fault Refusal :=
  .next (if lookupD s.front.hotLookups stack 0 < 2 ^ 20 then s
    else s.modFront fun f =>
      { f with hotCounts := f.hotCounts.map fun e => if e.1 / 2 ^ 16 = stack then (e.1, BitVec.ofNat 8 (e.2.toNat / 2)) else e,
               hotLookups := insert f.hotLookups stack (lookupD f.hotLookups stack 0 - 2 ^ 20) })

/-! ### The rows of a gather (R232-R236) -/

/-- What the engine finds: a value, a poisoned word, or a reason to skip the row. -/
inductive Got (α : Type) where
  | value (v : α)
  | poison
  | skip
  deriving DecidableEq, Repr

/-- A word as the engine reads it, with a plain read that ignores P: now, or at the earlier instant at which it was read (R109). -/
def State.gatherFetch (s : State) (g : Gather) (pa : Nat) : State × Option Word :=
  match lookup? g.got pa with
  | some v => (s, v)
  | none => s.engineFetch g.tenant g.dusk pa

/-- One index or offset. -/
def State.gatherIndex (s : State) (g : Gather) (va : Nat) : State × Got Nat :=
  match pageOf g.pages va with
  | none => (s, .skip)
  | some pa =>
    if s.engineLost g.core (some g.core) g.tenant g.dusk g.curatorLevel pa then (s, .skip)
    else
      let r := s.gatherFetch g (wordAddr pa)
      (r.1, match r.2 with
        | none => .poison
        | some w => .value (if reqSize g.req = 8 then w.toNat else bits w.toNat (pa % 8 * 8) 32))

/-- The words of a table row, none for one that the engine may not read: the translation is made when the engine reaches the row. -/
def State.tableWords (s : State) (g : Gather) (idx : Nat) : Option (List Nat) :=
  let v : Viewer := { tenant := g.tenant, curator := g.curatorLevel, core := some g.core, ignoreH := false }
  if g.table.rows ≤ idx then none
  else match s.pages v (g.table.base + idx * g.table.rowBytes) g.table.rowBytes .read with
  | .error _ => none
  | .ok ps =>
    let pas := (List.range (g.table.rowBytes / 8)).filterMap fun k => pageOf ps (g.table.base + idx * g.table.rowBytes + 8 * k)
    if pas.any fun pa => s.engineLost g.core (some g.core) g.tenant g.dusk g.curatorLevel pa then none else some pas

/-- A table row from memory. -/
def State.tableRow (s : State) (g : Gather) (idx : Nat) : State × Got (List (Option Word)) :=
  match s.tableWords g idx with
  | none => (s, .skip)
  | some pas =>
    let r := pas.foldl (fun (r : State × List (Option Word)) pa =>
      let x := r.1.gatherFetch g pa
      (x.1, x.2 :: r.2)) (s, [])
    (r.1, .value r.2.reverse)

/-- The engine reads the word at `pa` and keeps it for its row. -/
def State.gatherSee (s : State) (g : Gather) (pa : Nat) : State × Gather :=
  if (lookup? g.got pa).isSome || !s.mayTouch [pa] then (s, g)
  else
    let r := s.engineFetch g.tenant g.dusk pa
    (r.1, { g with got := insert g.got pa r.2 })

/-- The engine reads one of the words of its lists, when it may. -/
def State.gatherSeeList (s : State) (g : Gather) (va : Nat) : State × Gather :=
  match pageOf g.pages va with
  | none => (s, g)
  | some pa =>
    if s.engineLost g.core (some g.core) g.tenant g.dusk g.curatorLevel pa then (s, g) else s.gatherSee g (wordAddr pa)

/-- The engine reads a word ahead of the destination row that it is for, since every source word is read at some instant between the launch and the
completion (R109): number 0 of lookup `k` is its index, and the next ones are the words of its row; the offsets of a GATH.sum follow the
lookups. -/
def State.gatherPeek (s : State) (g : Gather) (k j : Nat) : State × Gather :=
  if g.lookups ≤ k then s.gatherSeeList g (reqOffs g.req + (k - g.lookups) * reqSize g.req)
  else
    let va := reqIdx g.req + k * reqSize g.req
    let (s, g) := s.gatherSeeList g va
    match (s.gatherIndex g va).2 with
    | .value idx =>
      (match s.tableWords g idx with
       | some pas => if j = 0 then (s, g) else (match pas[j - 1]? with | some pa => s.gatherSee g pa | none => (s, g))
       | none => (s, g))
    | _ => (s, g)

/-- The key of a row among the rows that a gather has read: its window and its index (R234). -/
def seenKey (k idx : Nat) : Nat := k / 4096 * 2 ^ 64 + idx

/-- The row of lookup `k`: within a window of 4096 lookups every lookup of one row shares a single read (R234). GATH passes its windows
once; the bags of a GATH.sum may return to an earlier one. -/
def State.lookupRow (s : State) (g : Gather) (k : Nat) : State × Gather × Got (List (Option Word)) :=
  let g := if g.sum || g.window = k / 4096 then g else { g with window := k / 4096, seen := [] }
  let r := s.gatherIndex g (reqIdx g.req + k * reqSize g.req)
  match r.2 with
  | .skip => (r.1, g, .skip)
  | .poison => (r.1, g, .poison)
  | .value idx =>
    match lookup? g.seen (seenKey k idx) with
    | some ws => (r.1.passHotStore g idx ws, g, .value ws)
    | none =>
      let q := r.1.tableRow g idx
      match q.2 with
      | .value ws => (q.1.passHotStore g idx ws, { g with seen := insert g.seen (seenKey k idx) ws }, .value ws)
      | x => (q.1, g, x)

/-- The elements of row words. -/
def elements (w : Nat) (ws : List Word) : List Nat := ws.flatMap fun x => (List.range (64 / w)).map fun i => bits x.toNat (w * i) w

/-- Row words from elements. -/
def packWords (w : Nat) : (fuel : Nat) → List Nat → List Word
  | 0, _ => []
  | fuel + 1, l => if l.isEmpty then [] else
      w64 ((l.take (64 / w)).foldr (fun x r => x + 2 ^ w * r) 0) :: packWords w fuel (l.drop (64 / w))

/-- An element as it enters the sum: the 16-bit formats are summed in FP32 (R233). -/
def poolIn (fmt x : Nat) : Nat :=
  match fmt with
  | 2 => (fp32.convert .rne false (fp16.unpack x)).1
  | 3 => (fp32.convert .rne false (bf16.unpack x)).1
  | _ => x

/-- One addition of GATH.sum. -/
def poolAdd (fmt x y : Nat) : Nat :=
  match fmt with
  | 0 => (fp64.add .rne (fp64.unpack x) (fp64.unpack y)).1
  | 9 => (x + y) % 2 ^ 64
  | 10 => (x + y) % 2 ^ 32
  | _ => (fp32.add .rne (fp32.unpack x) (fp32.unpack y)).1

/-- The sum as it leaves: a NaN is canonical. -/
def poolOut (fmt x : Nat) : Nat :=
  match fmt with
  | 0 => (fp64.convert .rne false (fp64.unpack x)).1
  | 1 => (fp32.convert .rne false (fp32.unpack x)).1
  | 2 => (fp16.convert .rne false (fp32.unpack x)).1
  | 3 => (bf16.convert .rne false (fp32.unpack x)).1
  | _ => x

/-- The pooled row of the rows of a bag, in the order of their lookups; an empty bag gives zeros (R233). -/
def poolRows (fmt bytes : Nat) (rows : List (List Word)) : List Word :=
  let w := formatWidth fmt
  let es := rows.map fun r => (elements w r).map (poolIn fmt)
  match es with
  | [] => List.replicate (bytes / 8) 0
  | r :: rest => packWords w (bytes / 8) ((rest.foldl (fun x y => List.zipWith (poolAdd fmt) x y) r).map (poolOut fmt))

/-- The lookups `k`, `k + 1`, … of a bag: their rows, or poison, or a reason to skip the bag. -/
def State.bagRows (s : State) (g : Gather) : (n k : Nat) → State × Gather × Got (List (List Word))
  | 0, _ => (s, g, .value [])
  | n + 1, k =>
    let r := s.lookupRow g k
    let q := r.1.bagRows r.2.1 n (k + 1)
    (q.1, q.2.1, match r.2.2, q.2.2 with
      | .skip, _ => .skip
      | _, .skip => .skip
      | .value ws, .value rows => if ws.any Option.isNone then .poison else .value (ws.map (·.getD 0) :: rows)
      | _, _ => .poison)

/-- A bag's lookups: its two offsets, in order and not above COUNT (R231, R235). -/
def State.bag (s : State) (g : Gather) (b : Nat) : State × Gather × Got (List (Option Word)) :=
  let x := s.gatherIndex g (reqOffs g.req + b * reqSize g.req)
  let y := x.1.gatherIndex g (reqOffs g.req + (b + 1) * reqSize g.req)
  match x.2, y.2 with
  | .value lo, .value hi =>
    if hi < lo ∨ g.lookups < hi then (y.1, g, .skip)
    else
      let r := y.1.bagRows g (hi - lo) lo
      (r.1, r.2.1, match r.2.2 with
        | .value rows => .value ((poolRows g.table.fmt g.table.rowBytes rows).map some)
        | .poison => .poison
        | .skip => .skip)
  | .skip, _ => (y.1, g, .skip)
  | _, .skip => (y.1, g, .skip)
  | _, _ => (y.1, g, .poison)

/-- The physical addresses of a destination row. -/
def Gather.rowPas (g : Gather) (k : Nat) : List Nat :=
  wordsAt g.pages (reqDst g.req + k * g.table.rowBytes) (g.table.rowBytes / 8)
where
  wordsAt (pages : List (Nat × Nat × Nat)) (va n : Nat) : List Nat := (List.range n).filterMap fun i => pageOf pages (va + 8 * i)

/-- Writes a destination row; a poisoned word poisons its word. -/
def State.putRow (s : State) (g : Gather) (pas : List Nat) (ws : List (Option Word)) : State :=
  (pas.zip ws).foldl (fun s e =>
    let s := s.recallFor e.1 g.tenant g.dusk
    match e.2 with
    | some v => s.engineWrite e.1 v (.unit g.tenant) true (some g.uid, none)
    | none => s.poisonOne e.1) s

/-- The words that lookup `k` reads: its index and its row. -/
def State.lookupReads (s : State) (g : Gather) (k : Nat) : List Nat :=
  let va := reqIdx g.req + k * reqSize g.req
  ((pageOf g.pages va).toList.map wordAddr) ++ (match (s.gatherIndex g va).2 with | .value idx => (s.tableWords g idx).getD [] | _ => [])

/-- The words that the next destination row is made of. -/
def State.gatherReads (s : State) (g : Gather) : List Nat :=
  if !g.sum then s.lookupReads g g.next
  else
    let at_ (b : Nat) : Nat := reqOffs g.req + b * reqSize g.req
    (((pageOf g.pages (at_ g.next)).toList ++ (pageOf g.pages (at_ (g.next + 1))).toList).map wordAddr) ++
      match (s.gatherIndex g (at_ g.next)).2, (s.gatherIndex g (at_ (g.next + 1))).2 with
      | .value lo, .value hi => if hi < lo ∨ g.lookups < hi then [] else (List.range (hi - lo)).flatMap fun i => s.lookupReads g (lo + i)
      | _, _ => []

/-- The next destination row can be written: no curfew has stopped the gather, what is owed at the words that it reads has been done, and the
messages of its watch events have room (R76, R83, R236). -/
def State.gatherMayWrite (s : State) (g : Gather) : Bool :=
  !s.engineStopped g.core g.uid && s.mayTouch (s.gatherReads g) && s.mayWrite (g.rowPas g.next)

/-- The gather goes on to its next row, or ends. -/
def State.gatherNext (s : State) (g : Gather) : State :=
  if g.next + 1 < g.rows then
    { s with gathers := s.gathers.map fun x : Gather => if x.id = g.id then { g with next := g.next + 1 } else x }.postNow (.gatherRowWrite g.id)
  else { s with gathers := s.gathers.filter fun x => !(x.id == g.id) }

/-- The engine writes or skips its next destination row (R232-R235). -/
def State.gatherRow (s : State) (g : Gather) : State :=
  let (s, g, r) := if g.sum then s.bag g g.next else s.lookupRow g g.next
  let pas := g.rowPas g.next
  let lost := pas.any fun pa => s.engineLost g.core (some g.core) g.tenant g.dusk g.curatorLevel pa
  let skipped (s : State) : State := s.countSkipped g.stack g.tenant
  (match r with
    | .skip => skipped s
    | .poison => if lost then skipped s else s.putRow g pas (pas.map fun _ => none)
    | .value ws => if lost then skipped s else s.putRow g pas ws).gatherNext g

/-- GATHER_ROW_WRITE: the engine writes or skips one destination row, or, where `picks` says so, reads one source word ahead (R5, R109). -/
def execGatherRowWrite (id : Nat) (s : State) : Host.Outcome State Fault Refusal :=
  .next (match s.gathers.find? fun g => g.id == id with
    | none => s
    | some g =>
      if !s.gatherMayWrite g then s
      else
        let n := 1 + g.table.rowBytes / 8
        let (k, s) := s.pick (1 + n * (g.lookups + (if g.sum then reqBags g.req + 1 else 0)))
        if k = 0 then s.gatherRow g
        else
          let r := s.gatherPeek g ((k - 1) / n) ((k - 1) % n)
          { r.1 with gathers := r.1.gathers.map fun x : Gather => if x.id = id then r.2 else x }.postNow (.gatherRowWrite id))

end Sys2Proof.Machine
end

