-- ==== Sys2Proof/Machine/SaveArea.lean ====
section
/-! DEFINITION. The save area of a curfew as the save engines write it, byte by byte (R118, R195, R198, R226, R236, R265, R267-R269, R482,
R486). Where the manual names the content of a region and no bit positions, the packing is the model's (log entry 20). -/

namespace Sys2Proof.Machine

/-- Stores words from `pa` on; the area is zero before, so that zeros need no store. -/
def State.putWords (s : State) (pa : Nat) (ws : List Word) : State :=
  ((List.range ws.length).zip ws).foldl (fun s e => if e.2 = 0 then s else s.storeWord (pa + 8 * e.1) e.2) s

/-- The bytes of a save area without its fall-out region (R268). -/
def areaBytes (n : Nat) : Nat := 0x10000 + n * 0x400000

/-- The area lies wholly in device DRAM or in the host memory window (R263). -/
def areaOk (base len : Nat) : Bool :=
  decide (base + len ≤ 0x00C000000000) || (decide (0x014000000000 ≤ base) && decide (base + len ≤ 0x018000000000))

/-- The partition bitmap. -/
def coreBitmap (cores : List Nat) : List Word :=
  (List.range 20).map fun w => w64 ((cores.filter fun c => decide (c / 64 = w)).foldl (fun x c => x + 2 ^ (c % 64)) 0)

def StreamEntry.words (e : StreamEntry) : List Word := [e.w0, e.w1, e.w2, e.w3]

/-- A list of words in a place for `n`. -/
def padded (n : Nat) (ws : List Word) : List Word := (ws ++ List.replicate n 0).take n

/-- 64 bits, one for each number of a list that lies in the word `w`. -/
def bitWord (ns : List Nat) (w : Nat) : Word := w64 ((ns.filter fun n => decide (n / 64 = w)).foldl (fun x n => x + 2 ^ (n % 64)) 0)

/-! ### Contexts (R264, R269) -/

/-- The latch in which a withdrawn access, or the arrival of a parked member of a gang or a matrix row, is kept (R264). -/
def Thread.withdrawnLatch (t : Thread) (word shown : InstWord) (val : Word) : Latch :=
  { word := word, shown := shown, pc := t.pc, pass := (t.rep.map (·.pass)).getD 0, idx := (t.rep.map (·.idx)).getD 0, cause := 0, val := val,
    detail := 0, sent := false, walk := false, double := false, fetch := false, barrier := 0, trapped := false }

/-- The context as its record shows it: a non-relaxed access that a curfew has withdrawn, and an arrival, are in the retry latch. -/
def Thread.withdrawn (t : Thread) (as : List Access) : Thread :=
  match t.latch, as.find? fun a => !a.relaxed with
  | some _, _ => t
  | none, some a => { t with latch := some (t.withdrawnLatch a.word a.shown (w64 a.va)) }
  | none, none => if t.stat = .parkedMemory then { t with latch := some (t.withdrawnLatch t.parked t.parkedShown 0) } else t

/-- A relaxed waiter is kept as a re-issue record (R264). An element that a stream reads is read again by the instruction that pops it. -/
def Access.kept (a : Access) : Bool := a.relaxed && (match a.kind with | .streamElem _ => false | _ => true)

/-- The words of the context record of a saved thread: the state is the one that the save engine found. -/
def SaveImage.record (i : SaveImage) (t : Thread) : List Word :=
  let as := i.withdrawn.filter fun a => a.uid == t.uid
  (t.withdrawn as).recordWords (lookupD i.coreStates t.core Core.reset).regCount t.away (as.filter (·.kept))

/-! ### The units of a core (R267, R268) -/

/-- The core header (R486). -/
def SaveImage.coreHeader (i : SaveImage) (c : Nat) : List Word :=
  let co := lookupD i.coreStates c Core.reset
  let slots := (i.contexts c).map (·.slot)
  [w64 c, if co.deep then 1 else 0, 0, 0, 0, 0, 0, 0] ++ ((List.range 8).map fun w => bitWord slots w) ++
    ((List.range 2).map fun w => bitWord (List.range (i.bank c).length) w) ++
    [w64 co.deque.length, w64 co.mail.length, bitWord (co.stab.map (·.1)) 0,
      bitWord (below 8 fun j => ((co.xacc[j]?).bind (·.owner)).isSome) 0, co.nextTransfer.setWidth 64]

/-- A 32-bit stride as it stands in a word. -/
def strideBits (x : Int) : Nat := (x % (2 ^ 32 : Int)).toNat

/-- A transfer: its snapshot, its tag and its resume offset (R198). -/
def Transfer.saved (x : Transfer) : List Word :=
  padded 16
    [w64 (x.id + x.tag * 2 ^ 16 + x.tid * 2 ^ 32 + x.state.num * 2 ^ 52 + bitNat x.nc * 2 ^ 54 + bitNat x.rowFallback * 2 ^ 55 +
        bitNat x.curatorLevel * 2 ^ 56 + bitNat x.dusk * 2 ^ 57 + bitNat x.poisoned * 2 ^ 58 + bitNat x.lease * 2 ^ 59 +
        bitNat x.queue.isSome * 2 ^ 60 + 2 ^ 63),
      w64 (x.tenant + (x.queue.map (·.1)).getD 0 * 2 ^ 8 + (x.queue.map (·.2)).getD 0 * 2 ^ 20 + x.cls * 2 ^ 24),
      w64 x.src, w64 x.dst, w64 x.len, w64 (strideBits x.sstr + strideBits x.dstr * 2 ^ 32), w64 x.rows, x.flg, w64 (8 * x.next), w64 x.written,
      w64 (x.done + bitNat x.short * 2 ^ 32)]

/-- A subscription. -/
def Subscription.saved (u : Subscription) : Word := w64 (u.tenant + u.tag * 2 ^ 8 + u.root * 2 ^ 24 + u.off * 2 ^ 35 + 2 ^ 63)

/-- The link ends of a thread, its overflow ring, and the words of the channel that it reads. -/
def SaveImage.linkItem (i : SaveImage) (t : Thread) : List Word :=
  let ch := i.channels.find? fun x => x.dst == t.uid
  if t.down.isNone && t.up.isNone && ch.isNone && decide (t.ring = 0) then []
  else
    let ws := (ch.map (·.words)).getD []
    [w64 (t.slot + bitNat t.banked * 2 ^ 9 + bitNat t.down.isSome * 2 ^ 10 + t.down.getD 0 * 2 ^ 11 + bitNat t.up.isSome * 2 ^ 31 +
        t.up.getD 0 * 2 ^ 32 + ws.length * 2 ^ 52 + 2 ^ 63),
      w64 t.ring, w64 ((ch.map (·.ringHead)).getD 0 + (ch.map (·.ringLen)).getD 0 * 2 ^ 32)] ++ ws

/-- As many items as have room. -/
def packItems : (room : Nat) → List (List Word) → List Word
  | _, [] => []
  | room, x :: rest => if x.length ≤ room then x ++ packItems (room - x.length) rest else packItems room rest

/-- The match table, the link channels and the overflow-ring pointers of a core. -/
def SaveImage.unitWords (i : SaveImage) (c : Nat) : List Word :=
  padded 256 (padded 16 ((lookupD i.coreStates c Core.reset).subs.map Subscription.saved) ++
    packItems 240 ((i.threads.filter fun t => t.core == c).map i.linkItem))

/-- The matrix row state region of a core (R482). -/
def SaveImage.rowRegion (i : SaveImage) (c : Nat) : List Word :=
  let co := lookupD i.coreStates c Core.reset
  let r := lookupD i.rows (rowOf c) Row.reset
  let member := r.run.bind fun x => x.member? c
  let arrival := r.arrivals.find? fun a => a.core == c
  let accRows (f : RowMember → List Nat) : List Nat := match member with | some m => (f m).map (RowDesc.accBase m.desc + ·) | none => []
  let queued := accRows (·.queued)
  let held := accRows (·.drained)
  padded 8 ((co.rowDesc.map (·.1)).getD []) ++
    [match co.rowDesc with | some d => w64 (1 + d.2 * 2 ^ 8) | none => 0,
     match arrival with | some a => w64 (1 + a.tid * 2 ^ 16) | none => 0] ++
    padded 8 ((member.map (·.desc)).getD []) ++
    [match r.run, member with
     | some x, some m => w64 (x.k + x.m * 2 ^ 16 + r.state * 2 ^ 28 + (m.queued.length + m.drained.length) * 2 ^ 32)
     | _, _ => w64 (r.state * 2 ^ 28),
     match member with | some m => w64 (m.tag + bitNat m.nv * 2 ^ 16 + bitNat m.ovf * 2 ^ 17 + m.tid * 2 ^ 32) | none => 0,
     (co.reserve.map (·.pc)).getD 0,
     match co.reserve with | some x => w64 (x.count + x.tenant * 2 ^ 8) | none => 0] ++
    List.replicate 10 0 ++ ((List.range 16).map fun w => bitWord queued w) ++ ((List.range 16).map fun w => bitWord held w)

/-! ### The fall-out region (R236, R265) -/

/-- The code of an access's kind, with its operation or its stream. -/
def AccessKind.saved : AccessKind → Nat
  | .load => 0
  | .store => 1
  | .loadPair => 2
  | .storePair => 3
  | .amo op => 4 + 16 * op
  | .cas => 5
  | .tagrd => 6
  | .tagset => 7
  | .streamElem n => 8 + 16 * n
  | .streamPut n => 9 + 16 * n
  | .queueWait _ i => 10 + 16 * i
  | .alloc => 11
  | .clear => 12

/-- The record of a packet: kind 1, an access. -/
def Access.saved (a : Access) (tid : Nat) : List Word :=
  padded 16
    [w64 (tid + a.id * 2 ^ 20), w64 (1 + a.pa * 2 ^ 8), w64 a.va, a.val, a.val2, w64 (a.word.toNat + a.shown.toNat * 2 ^ 32),
      w64 (a.kind.saved + a.mode * 2 ^ 12 + a.size * 2 ^ 16 + bitNat a.signed * 2 ^ 20 + bitNat a.relaxed * 2 ^ 21 + bitNat a.rsvd * 2 ^ 22 +
        bitNat a.answered * 2 ^ 23 + bitNat a.dst.isSome * 2 ^ 24 + a.dst.getD 0 * 2 ^ 25 + a.row * 2 ^ 32)]

/-- Kind 2, a key-routed update. -/
def Send.saved (x : Send) : List Word :=
  let v := BitVec.ofInt 320 x.value
  padded 16
    ([w64 (x.tid + x.id * 2 ^ 20), w64 (2 + x.core * 2 ^ 8 + x.off * 2 ^ 24), x.key] ++
      ((List.range 5).map fun k => w64 (v.toNat / 2 ^ (64 * k))) ++
      [w64 (x.set + x.op * 2 ^ 6 + x.flags.toNat * 2 ^ 9 + x.tenant * 2 ^ 12 + bitNat x.dusk * 2 ^ 20 + bitNat x.curatorLevel * 2 ^ 21 +
        x.from_ * 2 ^ 32), w64 x.uids.length])

/-- Kind 3, a gather: its request, the descriptor that it uses and its next row (R236). -/
def Gather.saved (g : Gather) (tid : Nat) : List Word :=
  padded 16
    ([w64 (tid + g.id * 2 ^ 20), w64 (3 + g.next * 2 ^ 8 + bitNat g.sum * 2 ^ 32 + g.slot * 2 ^ 40 + g.core * 2 ^ 48 +
        bitNat g.curatorLevel * 2 ^ 60 + bitNat g.dusk * 2 ^ 61)] ++ padded 4 g.req ++ padded 4 g.table.words)

/-- What the fall-out region holds. -/
inductive FallItem where
  | access (a : Access)
  | send (x : Send)
  | gather (g : Gather)
  deriving DecidableEq, Repr

/-- The thread ID of a saved thread. -/
def SaveImage.tidOf (i : SaveImage) (uid : Nat) : Nat := ((i.threads.find? fun t => t.uid == uid).map (·.tid)).getD 0

def SaveImage.items (i : SaveImage) : List FallItem :=
  i.accesses.map .access ++ i.sends.map .send ++ i.gathers.map .gather

/-- The 16 words of a record (R265). -/
def SaveImage.itemWords (i : SaveImage) : FallItem → List Word
  | .access a => a.saved (i.tidOf a.uid)
  | .send x => x.saved
  | .gather g => g.saved (i.tidOf g.uid)

def SaveImage.fallOut (i : SaveImage) : List Word := i.items.flatMap i.itemWords

/-! ### Memory (R226, R267) -/

/-- Copies the bytes of a range; the destination is zero before. -/
def State.copyBytes (s : State) (src dst n : Nat) : State :=
  (s.mem.filter fun e => decide (src ≤ e.1) && decide (e.1 < src + n)).foldl (fun s e =>
    { s with mem := Memory.write s.mem (dst + (e.1 - src)) e.2 }) s

/-- Copies the bytes of those words of a range from which data can be returned (R85). -/
def State.copyGood (s : State) (src dst n : Nat) : State :=
  (s.mem.filter fun e => decide (src ≤ e.1) && decide (e.1 < src + n) && !s.unreadable (wordAddr e.1)).foldl (fun s e =>
    { s with mem := Memory.write s.mem (dst + (e.1 - src)) e.2 }) s

/-- The tag bits of 32 scratchpad words, in one word of the tag region: P and W of the words in the saved ranges (R268). -/
def State.tagWord (s : State) (c : Nat) (ranges : List (Nat × Nat)) (w : Nat) : Word :=
  w64 ((List.range 32).foldl (fun x i =>
    let off := 8 * (32 * w + i)
    if ranges.any fun r => decide (r.1 ≤ off) && decide (off < r.1 + r.2) then
      let t := s.tag (spadPa c off)
      x + (bitNat t.p + 2 * bitNat t.w) * 2 ^ (2 * i)
    else x) 0)

/-- The saved ranges of a core. -/
def SaveImage.spadRanges (i : SaveImage) (c : Nat) : List (Nat × Nat) := (i.spads.filter fun r => r.1 == c).map (·.2)
def SaveImage.accRanges (i : SaveImage) (c : Nat) : List (Nat × Nat) := (i.accs.filter fun r => r.1 == c).map (·.2)

/-- Poisoned words of a scratchpad range, as offsets. -/
def State.poisonedIn (s : State) (c : Nat) (r : Nat × Nat) : List Nat :=
  (s.tags.filter fun e => e.2.poison && decide (spadPa c r.1 ≤ e.1) && decide (e.1 < spadPa c (r.1 + r.2))).map fun e => e.1 - spadPa c 0

/-! ### Members of gangs that are switched out (R389) -/

/-- The context of a switched-out member whose GBAR has completed, or has met the end of its gang: it returns ready, and in the second case
takes *gang broken* with this ID before anything else. -/
def Thread.told (t : Thread) (news : Option Word) : Thread :=
  if t.stat ≠ .parkedMemory then t
  else
    let t := match news with
      | none => ((t.completed t.proving t.parked t.parkedRsvd false 0).advance).setStat .ready
      | some id => { t.wake with dueTrap := some { cause := 0x23, val := id, word := t.parked, shown := t.parkedShown, counted := true } }
    if t.away.suspended then t else { t with away := .ready }

/-- The gang unit writes what has become of a switched-out member into its saved state. -/
def State.tellImage (s : State) (e : Nat × Option Word) (i : SaveImage) : State :=
  match i.threads.find? fun t => t.uid == e.1 with
  | none => s
  | some t =>
    let t' := t.told e.2
    let words := (List.range 149).zip ((i.record t).zip (i.record t'))
    let i' := { i with threads := i.threads.map fun x => if x.uid = t.uid then t' else x }
    let s := { s with images := s.images.map fun j => if j = i then i' else j }
    words.foldl (fun s w => if w.2.1 = w.2.2 then s else s.areaStore (i.recordPa i.base t + 8 * w.1) w.2.2) s

/-- The news of the step reach the saved members of gangs (R389). -/
def State.tellGangs (s : State) : State :=
  s.gangNews.foldl (fun s e => (s.images.filter (·.live)).foldl (fun s i => s.tellImage e i) s) { s with gangNews := [] }

/-! ### The save -/

/-- Writes items of `size` bytes from `pa` on. -/
def State.putItems (s : State) (pa size : Nat) (items : List (List Word)) : State :=
  ((List.range items.length).zip items).foldl (fun s e => s.putWords (pa + e.1 * size) e.2) s

/-- Writes the block of one core (R268). -/
def State.saveBlock (s : State) (i : SaveImage) (n c : Nat) : State :=
  let b := blockBase i.base n
  let co := lookupD i.coreStates c Core.reset
  let s := s.putWords b (i.coreHeader c)
  let s := (i.contexts c).foldl (fun s t => s.putWords (b + 0x1000 + t.slot * 0x800) (i.record t)) s
  let s := s.putItems (b + 0x101000) 0x800 ((i.bank c).map i.record)
  let s := s.putItems (b + 0x141000) 64 (co.deque.map TaskRec.words)
  let s := s.putItems (b + 0x145000) 32 (co.mail.map Msg.words)
  let s := co.stab.foldl (fun s e => s.putWords (b + 0x147000 + e.1 * 32) e.2.words) s
  let s := (List.range 8).foldl (fun s j =>
    s.putWords (b + 0x147800 + j * 1024) ((List.range 68).map fun k => ((co.xacc[j]?).getD ExactAcc.empty).chunk k)) s
  let s := s.putItems (b + 0x149800) 128 (co.transfers.map Transfer.saved)
  let s := s.putWords (b + 0x14A800) (i.unitWords c)
  let s := if isArray c then s.putWords (b + 0x14B000) (i.rowRegion c) else s
  let s := s.putWords (b + 0x14C000) ((List.range 4096).map fun w => s.tagWord c (i.spadRanges c) w)
  let s := (i.accRanges c).foldl (fun s r => s.copyBytes (accPa c r.1) (b + 0x154000 + r.1) r.2) s
  (i.spadRanges c).foldl (fun s r =>
    ((s.poisonedIn c r).foldl (fun s o => s.poisonOne (b + 0x200000 + o)) (s.copyBytes (spadPa c r.1) (b + 0x200000 + r.1) r.2))) s

/-- The words of waiting accesses in a physical range. -/
def State.waitedWords (s : State) (lo n : Nat) : List Nat :=
  (s.accesses.filter fun a => a.order?.isSome && decide (lo ≤ a.pa) && decide (a.pa < lo + n)).flatMap (·.words)

/-- The save engines write every word of a range: it is zero and present, W stays on a word that is not poisoned (R87), and the writes to
words with W = 1 raise watch events (R82). -/
def State.blankArea (s : State) (base len : Nat) : State :=
  let kept := (s.tags.filter fun e => decide (base ≤ e.1) && decide (e.1 < base + len) && e.2.w && !e.2.poison).map (·.1)
  kept.foldl (fun s a => { s.setTag a { Tag.scrubbed with w := true } with raised := s.raised ++ [(a, 0)] }) (s.scrubRange base (base + len))

/-- Writes the save area (R265, R268), and serves the waiters that this satisfies (R76). -/
def State.writeArea (s : State) (i : SaveImage) : State :=
  let n := i.cores.length
  let out := i.fallOut
  let len := areaBytes n + 8 * out.length
  let s := s.blankArea i.base len
  let s := s.putWords i.base
    ([1, w64 i.t, 0, 0, 0, 0, 0, 0] ++ coreBitmap i.cores ++ [w64 (areaBytes n), w64 (8 * out.length)])
  let s := ((List.range n).zip i.cores).foldl (fun s e => s.saveBlock i e.1 e.2) s
  (s.putWords (i.base + areaBytes n) out).serve (s.waitedWords i.base len)

end Sys2Proof.Machine
end

