-- ==== Sys2Proof/Machine/AreaRead.lean ====
section
/-! DEFINITION. A save area read back at a switch-in (R198, R226, R236, R263, R265, R267-R270, R482, R486). The image comes from the area's
bytes. What the area has no place for comes from the image that was saved there: of each item whose bytes are as they were saved (log
entry 20). -/

namespace Sys2Proof.Machine

/-- A word of the area; one from which no data can be returned stands as 0 (R85). -/
def State.areaWord (s : State) (pa : Nat) : Word := if s.unreadable pa then 0 else s.word pa

/-- The words of a range of the area. -/
def State.areaWords (s : State) (pa n : Nat) : List Word := (List.range n).map fun k => s.areaWord (pa + 8 * k)

/-- A word of the range is poisoned, or its code finds an uncorrectable error. -/
def State.areaPoisoned (s : State) (pa n : Nat) : Bool :=
  s.tags.any fun e => (e.2.poison || e.2.ecc == .double) && decide (pa ≤ e.1) && decide (e.1 < pa + 8 * n)

/-- The image that was saved in an area: the one saved there, or one with this T, for an area that has been copied. -/
def State.imageAt (s : State) (base : Nat) (cores : List Nat) : Option SaveImage :=
  let t := (s.areaWord (base + 8)).toNat
  (s.images.find? fun i => i.base == base && i.t == t && i.cores == cores).or (s.images.find? fun i => i.t == t && i.cores == cores)

/-- The items of `size` bytes from `pa` on, `n` of them: as saved when their words are, else as their words give them. Poisoned ones are
lost. -/
def State.readItems {α : Type} (s : State) (pa size n : Nat) (saved : List α) (words : α → List Word) (make : Nat → List Word → Option α) :
    List α :=
  (List.range n).filterMap fun k =>
    let ws := s.areaWords (pa + size * k) (size / 8)
    if s.areaPoisoned (pa + size * k) (size / 8) then none
    else match saved[k]? with
    | some x => if padded (size / 8) (words x) = ws then some x else make k ws
    | none => make k ws

/-! ### Contexts -/

/-- The words of a record, those that cannot be read as they were saved: they say nothing else of the thread that they end (R259). -/
def State.readableWords (s : State) (pa : Nat) (saved now : List Word) : List Word :=
  ((List.range saved.length).zip (saved.zip now)).map fun e => if s.unreadable (pa + 8 * e.1) then e.2.1 else e.2.2

/-- A context as its record in the area has it: each word that differs from what was saved is taken over. -/
def Thread.reread (t : Thread) (saved now : List Word) : Thread :=
  ((List.range 149).zip (saved.zip now)).foldl (fun t e => if e.2.1 = e.2.2 then t else t.setRecordWord e.1 e.2.2) t

/-- A stream register of a record, unbound before. -/
def blankStream : Stream := { entry := { w0 := 0, w1 := 0, w2 := 0, w3 := 0 }, pos := 0, record := [], ahead := [], aheadW := 0 }

/-- A context from its record alone. A thread that was waiting executes its instruction, or the one in its latch, again. -/
def Thread.ofRecord (uid : Nat) (ws : List Word) : Thread :=
  let w := ws.getD 0 0
  let l := unpackLatch (ws.getD 58 0) (ws.getD 59 0) (ws.getD 60 0) (ws.getD 61 0) (ws.getD 62 0) (ws.getD 63 0)
  let latch := if (List.range 6).any fun k => ws.getD (58 + k) 0 != 0 then some l else none
  let t := Thread.fresh uid (fieldOf w 0 20) (fieldOf w 26 8) (Level.ofNum (fieldOf w 34 2)) .day 0 []
  let streams : Vector (Option Stream) 8 := Vector.ofFn fun n =>
    if (ws.getD (82 + 5 * n.val + 4) 0).toNat.testBit 63 then some blankStream else none
  let t := { t with latch := latch, streams := streams }
  let t := (List.range 149).foldl (fun t k => t.setRecordWord k (ws.getD k 0)) t
  let t := { t with vred := t.vred.map fun v : VredPart => { v with val := ws.getD 122 0 } }
  let held := latch.isSome && l.cause != 0
  let st := if held then Status.heldFault else .ready
  match Status.ofNum (fieldOf w 20 4) with
  | .trappedStopped => { t with away := .trappedStopped, recorded := st, replay := latch.isSome && !held }
  | .revoked => { t with away := .revoked, recorded := st, banked := true, replay := latch.isSome && !held }
  | _ => { t with away := st, recorded := st, replay := latch.isSome && !held }

/-- The saved thread of a record. -/
def SaveImage.savedAt (i : SaveImage) (c : Nat) (e : Nat × Bool) : Option Thread :=
  if e.2 then (i.bank c)[e.1]? else (i.contexts c).find? fun t => t.slot == e.1

/-- The records of a block that hold a thread: by slot, and those of the reserve bank. What the header cannot say the records say; a record
whose first word cannot be read holds the thread that was saved there. -/
def State.areaSlots (s : State) (old : Option SaveImage) (b c : Nat) : List (Nat × Bool) :=
  let bit (w k : Nat) : Bool := s.unreadable (b + 8 * (w + k / 64)) || (s.areaWord (b + 8 * (w + k / 64))).toNat.testBit (k % 64)
  let valid (e : Nat × Bool) (pa : Nat) : Bool :=
    if s.unreadable pa then (old.bind fun i => i.savedAt c e).isSome else (s.areaWord pa).toNat.testBit 63
  ((below 512 fun k => bit 8 k && valid (k, false) (b + 0x1000 + k * 0x800)).map fun k => (k, false)) ++
    (below 128 fun k => bit 16 k && valid (k, true) (b + 0x101000 + k * 0x800)).map fun k => (k, true)

/-- A thread of a block, with the address of its record. -/
structure AreaThread where
  t : Thread
  block : Nat
  pa : Nat
  saved : Bool                 -- it is a thread of the image that was saved there
  deriving DecidableEq, Repr

/-- The threads of a block. `uid` is the serial number of the first one that is new. -/
def State.areaThreads (s : State) (old : Option SaveImage) (b c uid : Nat) : List AreaThread :=
  (s.areaSlots old b c).map fun e =>
    let pa := b + (if e.2 then 0x101000 else 0x1000) + e.1 * 0x800
    let now := s.areaWords pa 149
    match old.bind fun i => (i.savedAt c e).map fun t => (i, t) with
    | some (i, t) => { t := t.reread (i.record t) (s.readableWords pa (i.record t) now), block := b, pa := pa, saved := true }
    | none => { t := { Thread.ofRecord (uid + e.1 + bitNat e.2 * 512) now with banked := e.2 }, block := b, pa := pa, saved := false }

/-! ### The units of a core -/

/-- The thread of a slot among restored threads. -/
def slotThread (ts : List Thread) (c slot : Nat) : Option Thread :=
  (ts.find? fun t => t.core == c && t.slot == slot && !t.banked).or (ts.find? fun t => t.core == c && t.slot == slot)

/-- A mailbox entry from its words. -/
def Msg.ofSaved (ts : List Thread) (c : Nat) (ws : List Word) : Option Msg :=
  let h := ws.getD 0 0
  let slot := fieldOf (ws.getD 3 0) 0 9
  (slotThread ts c slot).map fun t =>
    { id := 0, slot := slot, bound := some t.uid, kind := fieldOf h 0 8, status := fieldOf h 8 8, sender := fieldOf h 16 20, w0 := ws.getD 1 0,
      w1 := ws.getD 2 0, popped := (ws.getD 3 0).toNat.testBit 16, device := fieldOf h 0 8 != 1 }

/-- The copy control registers of a saved transfer, without their reserved bits (R8, R188). -/
def savedCopyRegs (ws : List Word) : CopyRegs :=
  { src := w64 (fieldOf (ws.getD 2 0) 0 52), dst := w64 (fieldOf (ws.getD 3 0) 0 52), len := w64 (fieldOf (ws.getD 4 0) 0 32), strides := ws.getD 5 0,
    rows := w64 (fieldOf (ws.getD 6 0) 0 32), flg := ws.getD 7 0 &&& 0xFFFF0003 }

/-- A transfer from its words: its pages are translated anew. -/
def State.transferOfSaved (s : State) (ts : List Thread) (c serial : Nat) (ws : List Word) : Option Transfer :=
  let h := ws.getD 0 0
  let b (n : Nat) : Bool := h.toNat.testBit n
  let tenant := fieldOf (ws.getD 1 0) 0 8
  let r := savedCopyRegs ws
  let pages := match copyRange (s.walkPager { tenant := tenant, curator := b 56, core := some c, ignoreH := false }) r with
    | .ok ps => ps
    | .error _ => []
  if b 63 = false then none
  else some
    { id := fieldOf h 0 16, serial := serial, uid := if b 60 then none else (slotThread ts c (tidSlot (fieldOf h 32 20))).map (·.uid), tid := fieldOf h 32 20,
      tenant := tenant, dusk := b 57, cls := fieldOf (ws.getD 1 0) 24 2, queue := if b 60 then some (fieldOf (ws.getD 1 0) 8 12, fieldOf (ws.getD 1 0) 20 2) else none, src := r.src.toNat,
      dst := r.dst.toNat, len := r.bytes, sstr := r.sstr, dstr := r.dstr, rows := r.rowCount, flg := r.flg, tag := fieldOf h 16 16, nc := b 54,
      rowFallback := b 55, curatorLevel := b 56, pages := pages, subs := s.subscribers c tenant r.flg,
      state := if fieldOf h 52 2 = 3 then .cancelled else if fieldOf h 52 2 = 2 then .running else .queued, next := (ws.getD 8 0).toNat / 8,
      carried := [], written := (ws.getD 9 0).toNat, done := fieldOf (ws.getD 10 0) 0 32, short := (ws.getD 10 0).toNat.testBit 32, poisoned := b 58, lease := b 59 }

/-- A subscription from its word. -/
def Subscription.ofSaved (w : Word) : Option Subscription :=
  if w.toNat.testBit 63 then some { tenant := fieldOf w 0 8, tag := fieldOf w 8 16, root := fieldOf w 24 11, off := fieldOf w 35 20 } else none

/-- The descriptor register of a row region (R482). -/
def regionDesc (ws : List Word) : Option (List Word × Nat) :=
  if (ws.getD 8 0).toNat.testBit 0 then some (RowDesc.defined (ws.take 8), fieldOf (ws.getD 8 0) 8 8) else none

/-- MXHND's reservation in a row region; the contexts are those that were reserved, or the first that hold no saved thread. -/
def regionReserve (old : Option Reservation) (ts : List Thread) (c slots : Nat) (ws : List Word) : Option Reservation :=
  let n := fieldOf (ws.getD 21 0) 0 7
  let tenant := fieldOf (ws.getD 21 0) 8 8
  if ws.getD 20 0 = 0 ∧ ws.getD 21 0 = 0 then none
  else match old.filter fun r => r.count == n && r.tenant == tenant with
  | some r => some { r with pc := ws.getD 20 0 }
  | none =>
    let free := below (slots - 4) fun k => (slotThread ts c k).isNone
    some { pc := ws.getD 20 0, count := n, tenant := tenant, slots := free.take n }

/-- The units of a core, from its block. -/
def State.areaCore (s : State) (old : Option SaveImage) (ts : List Thread) (b c : Nat) : Core :=
  let o := (old.bind fun i => lookup? i.coreStates c).getD Core.reset
  let deep := if s.unreadable (b + 8) then o.deep else (s.areaWord (b + 8)).toNat.testBit 0
  let count (w : Nat) : Nat := min 256 (s.areaWord (b + 8 * w)).toNat
  let owner (j : Nat) : Option Nat := (ts.find? fun t => t.core == c && (List.range 8).any fun n => t.exact? n == some j).map (·.uid)
  let acc (j : Nat) : ExactAcc :=
    if (s.areaWord (b + 8 * 21)).toNat.testBit j then
      (List.range 68).foldl (fun x k => x.setChunk k (s.areaWord (b + 0x147800 + j * 1024 + 8 * k))) { ExactAcc.empty with owner := owner j }
    else ExactAcc.empty
  let region := s.areaWords (b + 0x14B000) 64
  { o with
    deep := deep,
    deque := (List.range (count 18)).map fun k =>
      TaskRec.ofWords (s.areaWords (b + 0x141000 + 64 * k) 8) (if s.areaPoisoned (b + 0x141000 + 64 * k) 8 then .double else .ok),
    mail := s.readItems (b + 0x145000) 32 (count 19) o.mail Msg.words fun _ ws => Msg.ofSaved ts c ws,
    stab := (below 64 fun k => (s.areaWord (b + 8 * 20)).toNat.testBit k && !s.areaPoisoned (b + 0x147000 + 32 * k) 4).map fun k =>
      (k, StreamEntry.ofWords (s.areaWords (b + 0x147000 + 32 * k) 4)),
    xacc := Vector.ofFn fun j : Fin 8 => acc j.val,
    transfers := s.readItems (b + 0x149800) 128 32 o.transfers Transfer.saved fun k ws => s.transferOfSaved ts c (s.nextId + 32 * c + k) ws,
    nextTransfer := if s.unreadable (b + 8 * 22) then o.nextTransfer else (s.areaWord (b + 8 * 22)).setWidth 16,
    subs := (s.areaWords (b + 0x14A800) 16).filterMap Subscription.ofSaved,
    rowDesc := if isArray c then regionDesc region else none,
    reserve := if isArray c then regionReserve o.reserve ts c (if deep then 256 else 512) region else none }

/-! ### Links -/

/-- The link items of a region: three words and the words of a channel each. -/
def parseLinks : (fuel : Nat) → List Word → List (List Word)
  | 0, _ => []
  | fuel + 1, ws =>
    let n := 3 + fieldOf (ws.headD 0) 52 5
    if (ws.headD 0).toNat.testBit 63 then ws.take n :: parseLinks fuel (ws.drop n) else []

/-- The item of a thread's links. -/
def itemOf (items : List (List Word)) (t : Thread) : Option (List Word) :=
  items.find? fun x => fieldOf (x.headD 0) 0 9 == t.slot && (x.headD 0).toNat.testBit 9 == t.banked

/-- The link ends that an item gives a thread. -/
def Thread.relinked (t : Thread) (x : List Word) : Thread :=
  let h := x.headD 0
  { t with down := if h.toNat.testBit 10 then some (fieldOf h 11 20) else none, up := if h.toNat.testBit 31 then some (fieldOf h 32 20) else none,
           ring := (x.getD 1 0).toNat, ringPa := if (x.getD 1 0).toNat = t.ring then t.ringPa else [] }

/-- The channel that a thread reads, from its item: its ring is that of the channel that was saved. -/
def State.channelOf (s : State) (ts : List Thread) (old : List Channel) (t : Thread) (x : List Word) : Option Channel :=
  let put (c : Channel) : Channel :=
    { c with words := x.drop 3, ringHead := fieldOf (x.getD 2 0) 0 32, ringLen := if c.ringPa.isEmpty then 0 else fieldOf (x.getD 2 0) 32 32 }
  match old.find? fun c => c.dst == t.uid with
  | some c => some (put c)
  | none =>
    match t.up.bind fun u => (ts.find? fun o => o.tid == u).or (s.holder? u) with
    | some o => if x.length ≤ 3 then none else some (put { src := o.uid, dst := t.uid, words := [], ringPa := [], ringVa := 0, ringHead := 0, ringLen := 0 })
    | none => none

/-! ### Matrix rows -/

/-- The numbers that a bitmap of 16 words names. -/
def bitList (ws : List Word) : List Nat := below 1024 fun r => (ws.getD (r / 64) 0).toNat.testBit (r % 64)

/-- A core's part in a row operation, from its row region. -/
def memberOf (ts : List Thread) (c : Nat) (ws : List Word) : RowMember :=
  let d := RowDesc.defined ((ws.drop 10).take 8)
  let tid := fieldOf (ws.getD 19 0) 32 20
  let k := fieldOf (ws.getD 18 0) 0 16
  let m := fieldOf (ws.getD 18 0) 16 11
  let rows (l : List Word) : List Nat := (bitList l).map fun r => r - RowDesc.accBase d
  { core := c, uid := ((slotThread ts c (tidSlot tid)).map (·.uid)).getD 0, tid := tid, tag := fieldOf (ws.getD 19 0) 0 16, desc := d, todo := [],
    nv := (ws.getD 19 0).toNat.testBit 16, ovf := (ws.getD 19 0).toNat.testBit 17, wrote := if k = 0 then m else RowDesc.m d,
    queued := rows ((ws.drop 32).take 16), drained := rows ((ws.drop 48).take 16) }

/-- A row from the regions of its 16 cores; `old` is the row that was saved. -/
def State.rowOfRegions (s : State) (ts : List Thread) (old : Row) (w : Nat) (regions : List (List Word)) : Row :=
  let first := regions.headD []
  let d := RowDesc.defined ((first.drop 10).take 8)
  let idx := fieldOf (w64 (RowDesc.shelf d)) 20 12
  let progress := first.getD 18 0
  let stays (a : Arrival) : Bool := ((regions.getD (rowSlot a.core) []).getD 9 0).toNat.testBit 0
  let run : RowRun :=
    { tenant := match s.folio? idx with | some f => f.tenant | none => fieldOf (first.getD 8 0) 8 8, folio := idx,
      check := BitVec.ofNat 12 (RowDesc.shelf d / 256), waiting := true, k := fieldOf progress 0 16, m := fieldOf progress 16 11, half := none,
      poisoned := (old.run.map (·.poisoned)).getD false, status := (old.run.map (·.status)).getD 0,
      ended := (old.run.map (·.ended)).getD false || decide (fieldOf progress 28 2 = 3),
      members := ((List.range 16).zip regions).map fun e => memberOf ts (rowCore w e.1) e.2 }
  { old with arrivals := old.arrivals.filter stays, run := if 2 ≤ fieldOf progress 28 2 then some run else none }

/-! ### The fall-out region -/

/-- The kind of an access from its code. -/
def AccessKind.ofSaved (n : Nat) : AccessKind :=
  match n % 16 with
  | 0 => .load
  | 1 => .store
  | 2 => .loadPair
  | 3 => .storePair
  | 4 => .amo (n / 16)
  | 5 => .cas
  | 6 => .tagrd
  | 7 => .tagset
  | 8 => .streamElem (n / 16)
  | 9 => .streamPut (n / 16)
  | 10 => .queueWait 0 (n / 16)
  | 12 => .clear
  | _ => .alloc

/-- The thread ID in word 0 of a record. -/
def savedUid (ts : List Thread) (ws : List Word) : Option Nat := (ts.find? fun t => t.tid == fieldOf (ws.headD 0) 0 20).map (·.uid)

/-- An access from its record. -/
def Access.ofSaved (id uid : Nat) (ws : List Word) : Access :=
  let x := ws.getD 6 0
  { id := id, uid := uid, kind := AccessKind.ofSaved (fieldOf x 0 12), mode := fieldOf x 12 4, size := fieldOf x 16 4, signed := x.toNat.testBit 20,
    relaxed := x.toNat.testBit 21, va := (ws.getD 2 0).toNat, pa := fieldOf (ws.getD 1 0) 8 56, val := ws.getD 3 0, val2 := ws.getD 4 0,
    dst := if x.toNat.testBit 24 then some (fieldOf x 25 7) else none, word := (ws.getD 5 0).setWidth 32,
    shown := BitVec.ofNat 32 (fieldOf (ws.getD 5 0) 32 32), rsvd := x.toNat.testBit 22, row := fieldOf x 32 8, phase := .sent,
    answered := x.toNat.testBit 23 }

/-- A send from its record. -/
def Send.ofSaved (id uid : Nat) (ws : List Word) : Send :=
  let x := ws.getD 8 0
  { id := id, uids := [uid], tid := fieldOf (ws.headD 0) 0 20, tenant := fieldOf x 12 8, from_ := fieldOf x 32 11, curatorLevel := x.toNat.testBit 21,
    dusk := x.toNat.testBit 20, set := fieldOf x 0 6, key := ws.getD 2 0, op := fieldOf x 6 3, core := fieldOf (ws.getD 1 0) 8 11,
    off := fieldOf (ws.getD 1 0) 24 20,
    value := (BitVec.ofNat 320 ((List.range 5).foldl (fun n k => n + (ws.getD (3 + k) 0).toNat * 2 ^ (64 * k)) 0)).toInt,
    flags := BitVec.ofNat 3 (fieldOf x 9 3), since := 0, buffered := false }

/-- The pages of a gather's lists and destination, translated anew. -/
def State.gatherRange (s : State) (v : Viewer) (q : List Word) (sum : Bool) (bytes : Nat) : List (Nat × Nat × Nat) :=
  let get (va len : Nat) (need : Need) : List (Nat × Nat × Nat) := match s.pages v va len need with | .ok ps => ps | .error _ => []
  get (reqIdx q) (reqCount q * reqSize q) .read ++ get (reqOffs q) (if sum then (reqBags q + 1) * reqSize q else 0) .read ++ get (reqDst q) bytes .write

/-- A gather from its record. -/
def State.gatherOfSaved (s : State) (id : Nat) (t : Thread) (ws : List Word) : Gather :=
  let h := ws.getD 1 0
  let words := padded 8 ((ws.drop 6).take 4)
  let slot := fieldOf h 40 8
  let known := (s.tenant t.tenant).tables ++ (s.tenant t.tenant).oldTables
  let table : TableSlot := ((known.find? fun e => e.1 == slot && e.2.words == words).map (·.2)).getD { words := words, hot := false, serial := 0 }
  let sum := h.toNat.testBit 32
  let q := reqDefined ((ws.drop 2).take 4) sum
  let rows := if sum then reqBags q else reqCount q
  let core := fieldOf h 48 11
  { id := id, uid := t.uid, tenant := t.tenant, core := core, stack := homeStack core, sum := sum, curatorLevel := h.toNat.testBit 60, req := q,
    slot := slot, table := table, next := fieldOf h 8 17, rows := rows, lookups := reqCount q, dusk := h.toNat.testBit 61, window := 0, seen := [], got := [],
    pages := s.gatherRange { t.viewer with curator := h.toNat.testBit 60 } q sum (rows * table.rowBytes) }

/-- An item of the fall-out region from its record. -/
def State.itemOfSaved (s : State) (ts : List Thread) (id : Nat) (ws : List Word) : Option FallItem :=
  match savedUid ts ws with
  | none => none
  | some uid =>
    match fieldOf (ws.getD 1 0) 0 8 with
    | 1 => some (.access (Access.ofSaved id uid ws))
    | 2 => some (.send (Send.ofSaved id uid ws))
    | 3 => (ts.find? fun t => t.uid == uid).map fun t => .gather (s.gatherOfSaved id t ws)
    | _ => none

/-- The items of the fall-out region. -/
def State.areaItems (s : State) (old : Option SaveImage) (ts : List Thread) (base : Nat) : List FallItem :=
  let pa := base + (s.areaWord (base + 8 * 28)).toNat
  let n := (s.areaWord (base + 8 * 29)).toNat / 128
  s.readItems pa 128 n ((old.map (·.items)).getD []) (fun x => match old with | some i => i.itemWords x | none => []) fun k ws =>
    s.itemOfSaved ts (s.nextId + 65536 + k) ws

/-! ### Re-issue records -/

/-- The access of a re-issue record (R269): address and data stand in it, and the rest in its word. The second source of a pair is what its
register holds (log entry 20). -/
def Access.ofReissue (id : Nat) (t : Thread) (ws : List Word) : Option Access :=
  let va := ws.getD 0 0
  let v := ws.getD 1 0
  let w : InstWord := (ws.getD 2 0).setWidth 32
  let n := fieldOf (ws.getD 2 0) 32 4
  let mk (a : Access) : Option Access := some { a with id := id, uid := t.uid, relaxed := true, word := w, shown := w }
  let dst (d : BitVec 6) : Option Nat := if d = 56 then none else some d.toNat
  if n ≠ 0 then mk { Access.blank (.streamPut (n - 1)) va (spadPa t.core (va.toNat - windowBase)) with mode := 1, val := v }
  else match decodeWord w with
  | .ok (.ld d _ _ m _ z x _) =>
    mk { Access.blank .load va 0 with mode := loadMode m.toNat z.toNat, size := z.toNat, signed := decide (z.toNat < 3) && nz x, dst := dst d }
  | .ok (.st _ _ _ m _ z _ _) => mk { Access.blank .store va 0 with mode := storeMode m.toNat z.toNat, size := z.toNat, val := v }
  | .ok (.ldp d _ _ m _ _ _ _) => mk { Access.blank .loadPair va 0 with mode := loadMode m.toNat 3, dst := dst d }
  | .ok (.stp d _ _ m _ _ _ _) => mk { Access.blank .storePair va 0 with mode := m.toNat, val := v, val2 := (t.reg (d.toNat + 1)).val }
  | .ok (.amo d _ _ _ _ _ g o) => mk { Access.blank (.amo o.toNat) va 0 with mode := g.toNat, val := v, dst := dst d }
  | .ok (.cas d _ b _ _ _ g) => mk { Access.blank .cas va 0 with mode := g.toNat, val := v, val2 := (t.reg (b.toNat + 1)).val, dst := dst d }
  | _ => none

/-- The waiters of a thread. Those of a saved one are known; the relaxed ones have address and data from their re-issue records (R269). Those of
another one are what its records give; a non-relaxed one is made again by the instruction in the latch. -/
def State.areaWithdrawn (s : State) (old : Option SaveImage) (x : AreaThread) : List Access :=
  let rec_ (k : Nat) : List Word := s.areaWords (x.pa + 992 + 24 * k) 3
  if x.saved then
    let as := ((old.map (·.withdrawn)).getD []).filter fun a => a.uid == x.t.uid
    let kept := as.filter (·.kept)
    as.filter (fun a => !a.relaxed) ++ ((List.range kept.length).zip kept).map fun e : Nat × Access =>
      if e.1 < 8 then { e.2 with va := ((rec_ e.1).getD 0 0).toNat, val := (rec_ e.1).getD 1 0 } else e.2
  else
    (List.range 8).filterMap fun k =>
      if (rec_ k).all (· == 0) then none
      else Access.ofReissue (s.nextId + 131072 + 8 * (1024 * x.t.core + (x.pa - x.block) / 0x800) + k) x.t (rec_ k)

/-- The registers that a waiter of the thread is still to bring are empty for it (R53). -/
def Thread.expecting (t : Thread) (as : List Access) : Thread :=
  (as.filter fun a => a.uid == t.uid).foldl (fun t a => a.dsts.foldl (fun t n => t.markDue n) t) t

/-! ### What status 2 ends (R259, R263) -/

/-- The thread whose packet an item of the fall-out region is. -/
def FallItem.uid : FallItem → Nat
  | .access a => a.uid
  | .send x => x.uids.headD 0
  | .gather g => g.uid

/-- An unreadable item of a list of `n` items of `size` bytes belongs to the thread: by what was saved there, else by a word of it that can be
read. -/
def State.losesItem {α : Type} (s : State) (pa size n : Nat) (saved : List α) (mine : α → Bool) (names : List Word → Bool) : Bool :=
  (List.range n).any fun k =>
    s.areaPoisoned (pa + size * k) (size / 8) &&
      (match saved[k]? with | some x => mine x | none => names (s.areaWords (pa + size * k) (size / 8)))

/-- A thread of the image meets a word that cannot be read: in its record, in the header of its block, or in what it has in the units and in
the fall-out region. -/
def State.areaLost (s : State) (old : Option SaveImage) (base : Nat) (x : AreaThread) : Bool :=
  let t := x.t
  let b := x.block
  let o := (old.bind fun i => lookup? i.coreStates t.core).getD Core.reset
  let count := min 256 (s.areaWord (b + 8 * 19)).toNat
  let linked : Bool := match old with | some i => !(i.linkItem t).isEmpty | none => true
  let rowed : Bool := match old with
    | some i => t.drain.isSome || (lookupD i.rows (rowOf t.core) Row.reset).arrivals.any fun a => a.uid == t.uid
    | none => t.stat == .parkedMemory
  let fall := base + (s.areaWord (base + 8 * 28)).toNat
  s.areaPoisoned x.pa 149 || s.areaPoisoned b 23 ||
    s.losesItem (b + 0x145000) 32 count o.mail (fun m => m.bound == some t.uid) (fun ws => fieldOf (ws.getD 3 0) 0 9 == t.slot) ||
    s.losesItem (b + 0x149800) 128 32 o.transfers (fun y => y.uid == some t.uid) (fun ws => fieldOf (ws.getD 0 0) 32 20 == t.tid) ||
    ((List.range 8).any fun n => match t.exact? n with | some j => s.areaPoisoned (b + 0x147800 + j * 1024) 68 | none => false) ||
    (linked && s.areaPoisoned (b + 0x14A880) 240) || (rowed && isArray t.core && s.areaPoisoned (b + 0x14B000) 64) ||
    s.losesItem fall 128 ((s.areaWord (base + 8 * 29)).toNat / 128) ((old.map (·.items)).getD []) (fun y => y.uid == t.uid)
      (fun ws => fieldOf (ws.headD 0) 0 20 == t.tid)

/-! ### The image -/

/-- The blocks of a partition: base and core. -/
def areaBlocks (base : Nat) (cores : List Nat) : List (Nat × Nat) := ((List.range cores.length).zip cores).map fun e => (blockBase base e.1, e.2)

/-- The ranges that a block holds: those that were saved, or those that the save masks of the core's tenants ask for. -/
def State.areaSpads (s : State) (old : Option SaveImage) (c : Nat) : List (Nat × Nat × Nat) :=
  match old with
  | some i => i.spads.filter fun r => r.1 == c
  | none => (s.tenants.filter fun e => e.1 != 0 && e.2.hasCore c && e.2.saveMask.testBit 0).map fun e =>
      (c, e.2.spadLo, e.2.spadHi - e.2.spadLo)
def State.areaAccs (s : State) (old : Option SaveImage) (c : Nat) : List (Nat × Nat × Nat) :=
  match old with
  | some i => i.accs.filter fun r => r.1 == c
  | none => if isArray c && s.tenants.any fun e => e.1 != 0 && e.2.hasCore c && e.2.saveMask.testBit 1 then [(c, 0, Config.accBytes)] else []

/-- A matrix row, from the regions of its 16 cores: as saved when they are, else as they give it. One whose region cannot be read cannot go on:
its operation completes with status 2 (R224, R263). -/
def State.areaRow (s : State) (old : Option SaveImage) (ts : List Thread) (bs : List (Nat × Nat)) (w : Nat) : Row :=
  let oldRow := (old.map fun i => lookupD i.rows w Row.reset).getD Row.reset
  let mine := bs.filter fun e => isArray e.2 && rowOf e.2 == w
  let bad (e : Nat × Nat) : Bool := s.areaPoisoned (e.1 + 0x14B000) 64
  let regions := mine.map fun e => s.areaWords (e.1 + 0x14B000) 64
  let same := old.any fun i => ((List.range 16).map fun j => i.rowRegion (rowCore w j)) == regions
  let r := if same then oldRow else s.rowOfRegions ts oldRow w regions
  if mine.any bad then
    { r with run := r.run.map fun x => x.stop 2, arrivals := r.arrivals.filter fun a => !mine.any fun e => e.2 == a.core && bad e }
  else r

/-- The links of the threads of an area: the threads with their ends, and the channels that they read. -/
def State.areaLinks (s : State) (old : Option SaveImage) (bs : List (Nat × Nat)) (plain : List Thread) : List Thread × List Channel :=
  let same (e : Nat × Nat) : Bool := old.any fun i => i.unitWords e.2 == s.areaWords (e.1 + 0x14A800) 256
  let items (e : Nat × Nat) : List (List Word) := parseLinks 80 (s.areaWords (e.1 + 0x14A880) 240)
  let changed := bs.filter fun e => !same e
  let item (t : Thread) : Option (Option (List Word)) := (changed.find? fun e => e.2 == t.core).map fun e => itemOf (items e) t
  let ts := plain.map fun t => match item t with | some (some x) => t.relinked x | _ => t
  let savedChannels := (old.map (·.channels)).getD []
  (ts, ts.flatMap fun t =>
    match item t with
    | some (some x) => (s.channelOf ts savedChannels t x).toList
    | _ => savedChannels.filter fun c => c.dst == t.uid)

/-- The future address of a record can be read, if it has one (R259). -/
def State.futureKnown (s : State) (x : AreaThread) : Bool := !s.unreadable x.pa && (x.t.future.isNone || !s.unreadable (x.pa + 16))

/-- The contexts of the area at `base`. -/
def State.areaRead (s : State) (base : Nat) (cores : List Nat) : List AreaThread :=
  (areaBlocks base cores).flatMap fun e => s.areaThreads (s.imageAt base cores) e.1 e.2 (s.nextUid + 1024 * e.2)

/-- The image that the area at `base` holds, and its threads that an unreadable word ends, each with whether its future address can be read. -/
def State.areaImage (s : State) (base : Nat) (cores : List Nat) : SaveImage × List (Thread × Bool) :=
  let old := s.imageAt base cores
  let bs := areaBlocks base cores
  let read := s.areaRead base cores
  let withdrawn := read.flatMap fun x => s.areaWithdrawn old x
  let plain := read.map fun x => if x.saved then x.t else x.t.expecting withdrawn
  let (ts, channels) := s.areaLinks old bs plain
  let rows := (cores.filter fun c => isArray c && rowSlot c == 0).map fun c => (rowOf c, s.areaRow old ts bs (rowOf c))
  let fall := s.areaItems old ts base
  ({ base := base, t := (s.areaWord (base + 8)).toNat, cores := cores, live := false, threads := ts,
     coreStates := bs.map fun e => (e.2, s.areaCore old ts e.1 e.2), rows := rows.filter fun e => e.2 != Row.reset,
     accesses := fall.filterMap fun x => match x with | .access a => some a | _ => none,
     sends := fall.filterMap fun x => match x with | .send y => some y | _ => none,
     gathers := fall.filterMap fun x => match x with | .gather g => some g | _ => none,
     withdrawn := withdrawn, channels := channels,
     spads := cores.flatMap fun c => s.areaSpads old c, accs := cores.flatMap fun c => s.areaAccs old c },
   (read.filter fun x => s.areaLost old base x).map fun x => (x.t, s.futureKnown x))

/-- Restores a scratchpad range from the area, with its tags. Words whose data or tags cannot be read there become poisoned, and so do their
waiters' accesses (R86). -/
def State.loadSpad (s : State) (b c : Nat) (r : Nat × Nat) : State :=
  let lo := spadPa c r.1
  let ws := (List.range (r.2 / 8)).map fun k => r.1 + 8 * k
  let tagAt (o : Nat) : Nat := b + 0x14C000 + o / 256 * 8
  let bad (o : Nat) : Bool := s.unreadable (b + 0x200000 + o) || s.unreadable (tagAt o)
  let s' := (s.blankArea lo r.2).copyGood (b + 0x200000 + r.1) lo r.2
  let s' := ws.foldl (fun s' o =>
    let x := bits (s.areaWord (tagAt o)).toNat (2 * (o / 8 % 32)) 2
    s'.setTag (spadPa c o) { p := x.testBit 0, w := x.testBit 1, poison := bad o, ecc := .ok }) s'
  (s'.dropPoisoned ((ws.filter bad).map fun o => spadPa c o)).serve (s'.waitedWords lo r.2)

end Sys2Proof.Machine
end

