-- ==== Sys2Proof/Machine/Traps.lean ====
section
/-! DEFINITION. Traps, handlers and faults: TRAP, ERET, BRK, FACK, RPART, XLINV and the fault records (major 0x3C; R61-R63, R250-R258,
R291, R347, R363, R365, R453, R470). -/

namespace Sys2Proof.Machine

/-! ### TRAP, BRK, ERET -/

/-- The PWARN flags of a completing TRAP or BRK (R35). -/
def Ctx.complete (c : Ctx) (s : State) : State :=
  s.modThread c.uid fun t => t.completed t.proving c.raw c.rsvd false c.row

/-- A trap of the thread with this cause would be a double trap (R251, R252). -/
def State.doubles (s : State) (t : Thread) (cause : BitVec 8) : Bool :=
  (t.route (s.tenant t.tenant).trapvec (s.core t.core).ctrapvec cause).isNone

/-- TRAP: *software trap*, after which the handler finds the resume point at the successor (R251, R255, R453). One that is a double trap
pops nothing, since it replays in the same state (R252). -/
def execTrap (d a b : BitVec 6) (e f : BitVec 1) (s : State) : Host.Outcome State Fault Refusal :=
  s.issue (.trap d a b e f) (fun _ _ => { Form.plain with a := opA .src a e, rsvd := nz d || nz b || nz f }) fun c s =>
    c.ordered s fun p =>
      if s.doubles c.t 0x28 then c.trap s 0x28 c.a else (c.complete p).takeTrap c.uid 0x28 c.a c.raw c.shown true

/-- The core's BRKSTOP arms the thread (R311); a curator-level thread is never armed (R347). -/
def State.brkArmed (s : State) (t : Thread) : Bool :=
  (s.core t.core).brkTenant != 0 && (s.core t.core).brkTenant == t.tenant && t.level != .curator

/-- BRK: *breakpoint*, or a precise stop at the successor when the thread is armed (R255, R311, R347). -/
def execBrk (d a b : BitVec 6) (e f : BitVec 1) (s : State) : Host.Outcome State Fault Refusal :=
  s.issue (.brk d a b e f) (fun _ _ => { Form.plain with rsvd := nz d || nz a || nz b || nz e || nz f }) fun c s =>
    c.ordered s fun p =>
      if s.brkArmed c.t then (c.done p).stopThread c.uid
      else if s.doubles c.t 0x29 then c.trap s 0x29 0
      else (c.complete p).takeTrap c.uid 0x29 0 c.raw c.shown true

/-- The REP position that ERET resumes is none: fallback row 15 (R254, R326). -/
def Thread.badResume (t : Thread) : Bool := t.ract && (decide (t.rlen < t.ridx) || decide (t.rcnt ≤ t.rpass))

/-- What an ERET to `t` leaves of a VRED's partial result: the return from a handler that was entered from the one that interrupted the VRED
keeps it; another ERET keeps it for its own VRED only (R165, R458). -/
def Thread.keepVred (t : Thread) : Option VredPart :=
  match t.vred with
  | none => none
  | some v => if v.depth ≠ 0 then some { v with depth := v.depth - 1 } else if t.atVred v then some v else none

/-- ERET's effect on its thread (R254, R363). The body words are fetched with the resume instruction. -/
def Thread.resume (t : Thread) : Thread :=
  let pc := handlerPc t.fltpc
  let t := { t with level := t.plvl, inh := false, pc := pc, trep := 0, rep := if t.badResume then none else unpackRep t.trep.toNat pc [] }
  { t with vred := t.keepVred }

/-- ERET (R254, R363). -/
def execEret (d a b : BitVec 6) (e f : BitVec 1) (s : State) : Host.Outcome State Fault Refusal :=
  s.issue (.eret d a b e f) (fun t _ =>
    { Form.plain with rsvd := nz d || nz a || nz b || nz e || nz f, row := if t.badResume then 15 else 0 }) fun c s =>
    c.ordered s fun p => ((c.complete p).modThread c.uid fun t => t.resume.setStat .ready).boundary c.uid

/-! ### FACK, FACK.t -/

/-- A hold that a FACK can act on (R59, R258): its record has been sent; a double trap needs the curator (R365). -/
def Latch.acknowledged (l : Latch) (curator fackT : Bool) : Bool :=
  !l.walk && l.sent && (!l.double || (curator && !fackT))

/-- The held threads on which a FACK of one thread acts: itself, and for a barrier's hold the other members of its held set
(R219). -/
def State.heldWith (s : State) (t : Thread) (l : Latch) : List Nat :=
  if l.barrier ≠ 0 then
    (s.threads.filter fun o => o.uid == t.uid ||
      (isArray o.core && rowOf o.core == rowOf t.core && o.status == .heldFault && (o.latch.map (·.barrier)) == some l.barrier)).map (·.uid)
  else [t.uid]

/-- FACK and FACK.t (R219, R258, R365). -/
def State.acknowledge (s : State) (i : Instr) (d a b : BitVec 6) (e f : BitVec 1) (fackT : Bool) : Host.Outcome State Fault Refusal :=
  s.issue i (fun _ _ =>
    { Form.plain with a := opA .src a e, rsvd := nz d || nz b || nz f, level := .runtime }) fun c s =>
    c.ordered s fun p =>
      let tid := fieldOf c.a 0 20
      let curator := c.t.level == .curator
      match s.holder? tid with
      | none => if Config.cores ≤ tidCore tid then c.trap s 0x09 c.a else c.done p
      | some t =>
        if !curator && t.tenant != c.t.tenant then c.trap s 0x09 c.a
        else match (if t.status = .heldFault ∧ s.frozen t = false then t.latch else none) with
        | none => c.done p
        | some l =>
          if !l.acknowledged curator fackT then c.done p
          else
            let go (s : State) (uid : Nat) : State :=
              if fackT then s.trapHeld uid else s.modThread uid fun t => { t.wake with replay := true }
            c.done ((s.heldWith t l).foldl go p)

/-- FACK: the held instruction replays. -/
def execFack (d a b : BitVec 6) (e f : BitVec 1) (s : State) : Host.Outcome State Fault Refusal :=
  s.acknowledge (.fack d a b e f) d a b e f false

/-- FACK.t: the held thread takes its cause as a trap. -/
def execFackT (d a b : BitVec 6) (e f : BitVec 1) (s : State) : Host.Outcome State Fault Refusal :=
  s.acknowledge (.fackT d a b e f) d a b e f true

/-! ### Fault records (R251, R257, R258, R291) -/

/-- Where the next record of a tenant's fault queue goes, when it can be written: its slot has a translation with WR to tagged
memory, and no word of it is poisoned (R291). Fault-queue writers ignore H (R295); a stopped core's scratchpad refuses them (R266). -/
def State.faultSlot (s : State) (tenant : Nat) : Option Nat :=
  let t := s.tenant tenant
  let va := t.faultBase + 32 * (t.nextRecord % 2 ^ t.faultLog)
  match s.resolve { tenant := tenant, curator := false, core := none, ignoreH := true } va 32 .write with
  | .ok pa =>
    let refused := match regionOf pa with
      | .spad c _ => s.refusesCore c none tenant false || (s.firewalled pa tenant).isSome
      | _ => false
    if tagged pa && !refused && (List.range 4).all fun i => !s.unreadable (pa + 8 * i) then some pa else none
  | _ => none

/-- The slot of the curator's next record. -/
def State.curatorSlot (s : State) : Nat := curatorRing + 32 * (s.curatorRecords % 4096)

/-- The record is one of its tenant's fault queue; it keeps its number there when it is redirected (R291; log entry 69). -/
def State.ownRing (s : State) (r : FaultRec) : Bool := r.tenant != 0 && (s.tenant? r.tenant).isSome

/-- The slot that a record will take, and whether it is the curator's. -/
def State.recordSlot (s : State) (r : FaultRec) : Nat × Bool :=
  match (if s.ownRing r then s.faultSlot r.tenant else none) with
  | some pa => (pa, false)
  | none => (s.curatorSlot, true)

/-- The slot of the record is free: the ST.e of its word 0 can be performed (R257, R291). -/
def State.recordFits (s : State) (r : FaultRec) : Bool :=
  let (pa, _) := s.recordSlot r
  !(s.tag pa).p && s.mayWrite ((List.range 4).map fun i => pa + 8 * i)

/-- Word 0 of a fault record, and the four words (R257). -/
def FaultRec.head (r : FaultRec) (seq : Nat) : Word :=
  w64 (r.tid + r.cause.toNat * 2 ^ 20 + r.kind * 2 ^ 28 + seq % 65536 * 2 ^ 48)
def FaultRec.tail (r : FaultRec) : Word := w64 (r.word.toNat + r.detail * 2 ^ 32)

/-- The record counts as sent: the hold that it tells of can be acknowledged (R258); a row's hold is told by one record (R219). -/
def State.markSent (s : State) (r : FaultRec) : State :=
  if r.kind ≠ 0 ∧ r.kind ≠ 3 then s
  else match s.thread? r.uid with
  | none => s
  | some t =>
    match t.latch with
    | none => s
    | some l =>
      (s.heldWith t l).foldl (fun s u => s.modThread u fun t => { t with latch := t.latch.map fun l => { l with sent := true } }) s

/-- A switched-out thread is ended in its save area: its context record holds no thread any more. -/
def State.endSaved (s : State) (uid : Nat) : State :=
  match s.images.findSome? fun i => (i.threads.find? fun t => t.uid == uid && t.status != .free && i.live).map fun t => (i, t) with
  | none => s
  | some (i, t) =>
    let s := (s.poisonFuture t.tenant (some t.core) t.future).1.leaveGangs t.tenant uid
    let pa := i.recordPa i.base t
    let gone (j : SaveImage) : SaveImage :=
      if j.base = i.base then { j with threads := j.threads.map fun x : Thread => if x.uid = uid then { x with status := .free } else x } else j
    { s.areaStore pa (((s.areaSeen pa).getD 0) &&& 0x7FFFFFFFFFFFFFFF) with images := s.images.map gone }

/-- The firmware ends the thread of a kind-2 record as QUIT does, with its future word poisoned (R251). -/
def State.endByRecord (s : State) (r : FaultRec) : State :=
  if r.kind ≠ 2 then s
  else match s.thread? r.uid with
  | none => s.endSaved r.uid
  | some t => (s.poisonFuture t.tenant (some t.core) t.future).1.endThread t.uid

/-- Writes a record at its slot: words 1 to 3 plainly, then word 0 with the semantics of ST.e (R291). -/
def State.writeRecordAt (s : State) (pa tenant : Nat) (r : FaultRec) (seq : Nat) : State :=
  let put (s : State) (i : Nat) (v : Word) (setP : Bool) : State := s.engineWrite (pa + 8 * i) v (.unit tenant) setP (none, none)
  put (put (put (put s 1 r.val false) 2 r.pc false) 3 r.tail false) 0 (r.head seq) true

/-- FAULT_RECORD_SEND (R257, R291). -/
def execFaultRecordSend (id : Nat) (s : State) : Host.Outcome State Fault Refusal :=
  .next (match s.records.find? fun r => r.id == id with
    | none => s
    | some r =>
      if !s.recordFits r then s
      else
        let (pa, curator) := s.recordSlot r
        let s := { s with records := s.records.filter fun x => !(x.id == id) }
        let seq := if s.ownRing r then (s.tenant r.tenant).nextRecord else s.curatorRecords
        let s := if s.ownRing r then s.modTenant r.tenant fun t => { t with nextRecord := t.nextRecord + 1 } else s
        let s :=
          if curator then
            ({ s with curatorRecords := s.curatorRecords + 1 }.writeRecordAt pa 0 r seq).modFront fun f => { f with curatorIrqs := f.curatorIrqs + 1 }
          else (s.writeRecordAt pa r.tenant r seq).interrupt r.tenant (s.tenant r.tenant).faultVector
        (s.markSent r).endByRecord r)

/-! ### RPART (R61-R63) -/

/-- A long-latency result is outstanding to a context of the core: to a register, to a stream or to `lnk` (R53, R62). -/
def State.coreDue (s : State) (c : Nat) : Bool :=
  s.threads.any fun t => t.core == c && ((List.range 48).any (fun n => (t.reg n).due) || (List.range 58).any fun n => s.resultDue t.uid n)

/-- A non-standby context is not free, or the reserve bank holds an entry. -/
def State.quiescent (s : State) (c : Nat) : Bool := s.threads.all fun t => t.core != c || (s.isStandby t && !t.banked)

/-- A standby thread moves with its context (R60, R63). -/
def Thread.repart (t : Thread) (oldSlots newSlots : Nat) : Thread :=
  { t with tid := t.tid + newSlots - oldSlots,
           regs := Vector.ofFn fun n : Fin 48 => if n.val < 24 then t.reg n.val else Reg.zero }

/-- Changes the partition mode of a core (R63). -/
def State.switchPartition (s : State) (c : Nat) (deep : Bool) : State :=
  let old := (s.core c).slots
  let new := if deep then 256 else 512
  let move (t : Thread) : Thread := if t.core = c then t.repart old new else t
  let s : State := { s with threads := s.threads.map move }
  s.modCore c fun co =>
    { co with
      deep := deep,
      placements := co.placements.map fun e : Nat × BitVec 16 => if old - 4 ≤ e.1 ∧ e.1 < old then (e.1 + new - old, e.2) else e,
      slotIssue := co.slotIssue.map fun e : Nat × Nat => if old - 4 ≤ e.1 ∧ e.1 < old then (e.1 + new - old, e.2) else e,
      mail := co.mail.map fun m : Msg => if old - 4 ≤ m.slot then { m with slot := m.slot + new - old } else m,
      reserve := co.reserve.map fun r : Reservation => { r with slots := r.slots.filter fun n => decide (n < new - 4) } }

/-- The status that RPART writes. -/
def partStatus (outcome : Nat) (deep : Bool) : Word := w64 (outcome * 2 + bitNat deep)

/-- RPART (R62, R63). The check of a request for full mode is made on a gd that is a general register: codes 48 to 57 name none, and are not
meant by it (log entry 84). -/
def execRpart (d a b : BitVec 6) (e f : BitVec 1) (s : State) : Host.Outcome State Fault Refusal :=
  s.issue (.rpart d a b e f) (fun _ _ => { fmtR1 d a b e f with level := .curator }) fun c s =>
    let core := c.t.core
    let deep := (s.core core).deep
    let p := c.popped
    if 2 < c.a.toNat then c.finishLater p (partStatus 2 deep)
    else if c.a = 2 then c.finishLater p (partStatus 0 deep)
    else if c.a = 0 ∧ deep = true ∧ 24 ≤ c.dcode ∧ c.dcode < 48 then c.trap s 0x04 (w64 c.dcode)
    else if s.coreDue core then c.block s .coreResults
    else if deep = (c.a == 1) then c.finishLater p (partStatus 0 deep)
    else if !s.quiescent core then c.finishLater p (partStatus 1 deep)
    else c.finishLater (p.switchPartition core (c.a == 1)) (partStatus 0 (c.a == 1))

/-! ### XLINV (R470) -/

/-- The page of a cached translation meets the range. -/
def TlbEntry.meets (e : TlbEntry) (lo hi : Nat) : Bool := decide (e.va * 2 ^ e.size < hi) && decide (lo < (e.va + 1) * 2 ^ e.size)

/-- The issued accesses of a tenant that a dropped entry of their core has translated. -/
def State.usersOf (s : State) (tenant lo hi : Nat) : List Nat :=
  (s.accesses.filter fun a =>
    match s.thread? a.uid with
    | none => false
    | some t =>
      t.tenant == tenant && !inWindow a.va && !a.streamed && (match a.phase with | .sent | .waiting _ _ => true | _ => false) &&
        (s.core t.core).tlb.any fun e => e.tenant == tenant && e.meets lo hi && e.va == a.va / 2 ^ e.size).map (·.id)

/-- Drops the cached translations of a tenant that meet a range, on every core, and what the walker has resolved for instructions that are to
be replayed. -/
def State.invalidate (s : State) (tenant lo hi : Nat) : State :=
  let stays (x : TlbEntry) : Bool := !(x.tenant == tenant && x.meets lo hi)
  { s with cores := s.cores.map fun e => (e.1, { e.2 with tlb := e.2.tlb.filter stays }),
           threads := s.threads.map fun t : Thread => { t with walked := t.walked.filter stays } }

/-- The access is still to be performed. -/
def State.unperformed (s : State) (id : Nat) : Bool :=
  match s.access? id with
  | some a => (match a.phase with | .sent | .waiting _ _ => true | _ => false)
  | none => false

/-- XLINV (R470): a walk in progress reads the tables when it ends, so that nothing has to restart it. -/
def execXlinv (d a b : BitVec 6) (e f : BitVec 1) (s : State) : Host.Outcome State Fault Refusal :=
  s.issue (.xlinv d a b e f) (fun _ _ =>
    { Form.plain with a := opA .src a e, b := opB .src b f, rsvd := nz d, level := .runtime }) fun c s =>
    c.ordered s fun p =>
      if c.t.phase ≠ 0 then
        if c.t.waits.any p.unperformed then c.block s .invalidated
        else c.done (p.modThread c.uid fun t => { t with waits := [] })
      else if c.b ≠ 0 ∧ (c.a.toNat % 65536 ≠ 0 ∨ c.b.toNat % 65536 ≠ 0) then c.trap s 0x0A c.a
      else
        let lo := if c.b = 0 then 0 else c.a.toNat
        let hi := if c.b = 0 then windowEnd else min (c.a.toNat + c.b.toNat) windowEnd
        let users := s.usersOf c.t.actsFor lo hi
        if users.isEmpty then c.done (p.invalidate c.t.actsFor lo hi)
        else c.block ((s.invalidate c.t.actsFor lo hi).modThread c.uid fun t => { t with phase := 1, waits := users }) .invalidated

end Sys2Proof.Machine
end

