-- ==== Sys2Proof/Machine/Curfew.lean ====
section
/-! DEFINITION. The curfew switch: SWAT, the stop, the save and the switch-in (R80, R198, R226, R236, R262-R271, R288, R448, R485). -/

namespace Sys2Proof.Machine

/-! ### SWAT (R262, R263, R448) -/

/-- The cores that a bitmap names, widened to whole matrix rows. -/
def partitionOf (bitmap : List Word) : List Nat :=
  let named (c : Nat) : Bool := (bitmap.getD (c / 64) 0).toNat.testBit (c % 64)
  below Config.cores fun c => named c || (isArray c && (List.range 16).any fun j => named (rowCore (rowOf c) j))

/-- Posts the stop of a curfew that is first on its cores; a T already past stops at once. -/
def State.postStop (s : State) (x : Curfew) : State :=
  if s.curfewFirst x && x.phase == .armed && !s.posted (.curfewStop x.id) then s.post (max s.now x.t) (.curfewStop x.id) else s

/-- Arms a curfew. -/
def State.armCurfew (s : State) (x : Curfew) : State :=
  let x := { x with id := s.nextId }
  { s with nextId := s.nextId + 1, curfews := s.curfews ++ [x] }.postStop x

/-- SWAT. -/
def execSwat (d a b : BitVec 6) (e f : BitVec 1) (s : State) : Host.Outcome State Fault Refusal :=
  s.issue (.swat d a b e f) (fun _ _ =>
    { Form.plain with a := opA .src a e, b := opB .src b f, rsvd := nz d, level := .curator }) fun c s =>
    c.ordered s fun _ => c.reach s c.b 256 true true false fun pa => c.readWords s c.b pa 32 fun ws s p =>
      let bitmap := ws.take 20
      let out := (ws.getD 20 0).toNat
      let inn := (ws.getD 21 0).toNat
      let cores := partitionOf bitmap
      let statusPa := pa + 184
      if cores.any fun c => s.curatorCore c then c.trap s 0x09 c.b
      else if out % 65536 ≠ 0 then c.trap s 0x0A (w64 out)
      else if inn % 65536 ≠ 0 then c.trap s 0x0A (w64 inn)
      else if cores.isEmpty && !s.mayWrite [statusPa] then c.block s (.room [statusPa])
      else if cores.isEmpty then c.done (p.engineWrite statusPa 0 (.unit 0) true (none, none))
      else
        c.done ((p.claim statusPa).armCurfew
          { id := 0, t := c.a.toNat, cores := cores, out := out, inn := inn, policy := fieldOf (ws.getD 22 0) 0 2,
            stby := (ws.getD 22 0).toNat.testBit 2, statusPa := some statusPa, phase := .armed, withdrawn := [], bad := false })

/-! ### The clean points (R264) -/

/-- The threads that a curfew stops: the pool contexts and reserve-bank entries of its cores, and with STBY the standby contexts at
another level than curator. -/
def State.caught (s : State) (x : Curfew) : List Thread :=
  s.threads.filter fun t => x.cores.contains t.core && (!s.isStandby t || (x.stby && t.level != .curator))

/-- A matrix row finishes what its feeder has taken (R226). -/
def State.finishRow (s : State) (w : Nat) : State :=
  match (s.row w).run with
  | none => s
  | some r =>
    let s := if r.half.isSome then (match execFeederTake w s with | .next s => s | _ => s) else s
    let n := match (s.row w).run with | some r => (r.members.map fun m => m.todo.length).foldl (· + ·) 0 | none => 0
    iterate n 0 (fun _ s => (List.range 16).foldl (fun s j => match execAccumulatorUpdate w j s with | .next s => s | _ => s) s) s

/-- The dusk contexts of a core are revoked, and its lent ranges returned (R142, R264). A context that was on its way back stays in the
reserve bank; a stopped one is passed over, and is saved where it stands (R311). -/
def State.clearDusk (s : State) (c : Nat) : State :=
  let leave (s : State) (t : Thread) : State :=
    let t' := if t.status = .saving then t else t.choose s.nextId
    let s := if t'.status = .saving then (s.setThread (t'.toBank s.now s.nextId)).dropReadAhead t.uid else s.setThread t'
    { s with nextId := s.nextId + 1 }.count c 4 (some t)
  let dusk := s.threads.filter fun t => t.core == c && !t.banked && t.status != .trappedStopped && (s.classOf t == .dusk || t.status == .saving)
  let s := dusk.foldl leave s
  let s := (s.core c).lent.foldl (fun s l => s.returnRange c l) s
  let s := s.modCore c fun co => { co with revoking := none }
  ((s.threads.filter fun t => t.core == c && t.await == .recall).map (·.uid)).foldl (fun s u => s.completeWait u) s

/-- The outstanding steal request of an account fails (R128, R264). -/
def Account.failed (a : Account) (now : Nat) : Account :=
  if a.asking.isSome then { a with asking := none, search := a.searchAt now, fsteal := a.fsteal + 1, tried := [], first := true } else a

/-- The units of one core reach their clean points. -/
def State.stopCore (s : State) (c : Nat) : State :=
  let s := s.clearDusk c
  let s : State := { s with sends := s.sends.map fun x : Send => if x.from_ = c then { x with buffered := false } else x }
  s.modCore c fun co => { co with stopped := true, account := co.account.map fun e : Nat × Account => (e.1, e.2.failed s.now) }

/-- A waiter of the threads. -/
def Access.waiterOf (a : Access) (us : List Nat) : Bool := us.contains a.uid && a.order?.isSome

/-- The threads are taken by the save engines: waiters are withdrawn without effect, what was read ahead is discarded, blocked XACQs leave
the order, which they join again when they are issued again (R467), and yields end (R48, R80, R184, R264, R472). -/
def State.withdraw (s : State) (us : List Nat) : State :=
  let s := us.foldl (fun s u => s.dropReadAhead u) s
  { s with cores := s.cores.map fun e : Nat × Core => (e.1, { e.2 with xqueue := e.2.xqueue.filter fun q => !us.contains q.1 }),
           accesses := s.accesses.filter fun a => !a.waiterOf us,
           threads := s.threads.map fun t : Thread => if us.contains t.uid then { t.toSaving with yield := none } else t }

/-- A folio-policy eviction: a row outside the partition whose operation waits for the folio, or for its reload, completes with status 2
(R221, R224, R481). -/
def State.evictNow (s : State) (rows : List Nat) (idx : Nat) : State :=
  let stop (w : Nat) (x : Row) : Row :=
    match x.run with
    | some r => if r.folio = idx ∧ rows.contains w = false ∧ (r.waiting || x.halted) = true then { x with run := some (r.stop 2), halted := false } else x
    | none => x
  { s.modFolio idx fun f => f.drop 0 with rows := s.rows.map fun e => (e.1, stop e.1 e.2) }

/-- The folio policy on one entry (R215, R271): an eviction is not deferred by an operation that the curfew saves or has saved, and one
that follows a deferred reload comes after it: it evicts the loading folio when it is forced, and else does nothing (log entry 71). -/
def State.evictByPolicy (s : State) (policy : Nat) (rows : List Nat) (idx : Nat) : State :=
  match s.folio? idx with
  | none => s
  | some f =>
    let hit := match f.state with
      | .ready | .stale => decide (2 ≤ policy) || (decide (policy = 1) && !f.pinned)
      | .loading => decide (2 ≤ policy)
      | _ => false
    let foreign := s.rows.any fun e => !rows.contains e.1 && ((e.2.run.map fun r => r.folio == idx) == some true)
    if !hit then s
    else if foreign && f.state != .loading then
      s.setFolio idx { f with defer := match f.defer with
        | .nothing | .evict => .evict
        | d => if 2 ≤ policy then .reloadEvict else d }
    else s.evictNow rows idx

/-- The folio policy at the stop (R271): the folios with rows in the partition. -/
def State.folioPolicy (s : State) (x : Curfew) : State :=
  let rows := ((x.cores.filter isArray).map rowOf).eraseDups
  (s.folios.filter fun e => (FolioDesc.rows e.2.desc).any fun w => rows.contains w).foldl (fun s e => s.evictByPolicy x.policy rows e.1) s

/-! ### Queues (R288) -/

/-- Every core of the tenant's set is switched out. -/
def State.tenantAway (s : State) (tenant : Nat) : Bool :=
  let cs := below Config.cores fun c => (s.tenant tenant).hasCore c
  !cs.isEmpty && cs.all fun c => s.away c

/-- A queue goes out: the wake unit writes WAKE into WAKEM. -/
def State.queueOut (s : State) (q : Nat) (x : Queue) : State :=
  let s := s.setQueue q { x with out := true }
  match s.wakemPa x with
  | some pa => s.storePlain x.tenant pa x.wake
  | none => s

/-- A queue comes back: the wake unit reloads WAKE from WAKEM. -/
def State.queueIn (s : State) (q : Nat) (x : Queue) : State :=
  s.setQueue q { x.kick with out := false, wake := s.wakeValue x }

/-- The queues follow the cores of their tenants. -/
def State.switchQueues (s : State) : State :=
  s.queues.foldl (fun s e =>
    match s.tenantAway e.2.tenant, e.2.out with
    | true, false => s.queueOut e.1 e.2
    | false, true => s.queueIn e.1 e.2
    | _, _ => s) s

/-! ### Discarding what is on a core -/

/-- Removes threads and what is theirs in the units: nothing is written and no record is sent (R448). -/
def State.removeThreads (s : State) (us : List Nat) : State :=
  { s with threads := s.threads.filter fun t => !us.contains t.uid, accesses := s.accesses.filter fun a => !us.contains a.uid,
           results := s.results.filter fun r => !us.contains r.uid }

/-- Every allotment of the core is left zero-on-touch, and its accumulator memory zero (R145, R267). -/
def State.blankCore (s : State) (c : Nat) : State :=
  let ranges := (s.tenants.filter fun e => e.1 != 0 && e.2.hasCore c).map fun e => (e.2.spadLo, e.2.spadHi - e.2.spadLo)
  let s := ranges.foldl (fun s r => s.blankServe (spadPa c r.1) r.2) s
  let s := if isArray c then s.clearAcc c 0 1024 else s
  s.modCore c fun co => { co with zot := co.zot ++ ranges }

/-- What a core holds of the threads `us`: their messages, their accumulators and transfers, and the units that its tenants share. -/
def State.savedCore (s : State) (us : List Nat) (c : Nat) : Core :=
  let co := s.core c
  { co with mail := co.mail.filter fun m => (m.bound.map fun u => us.contains u) == some true,
            xacc := Vector.ofFn fun j : Fin 8 => if (co.xacc[j].owner.map fun u => us.contains u) = some true then co.xacc[j] else ExactAcc.empty,
            xqueue := [],
            transfers := (co.transfers.filter fun x => s.transferStopped c x).map fun x : Transfer => { x with carried := [] } }

/-- The core without that. What belongs to standby threads that keep issuing stays (R264). -/
def State.keptCore (s : State) (us : List Nat) (c : Nat) : Core :=
  let co := s.core c
  { co with deque := [], mail := co.mail.filter fun m => (m.bound.map fun u => us.contains u) != some true, stab := [],
            xacc := Vector.ofFn fun j : Fin 8 => if (co.xacc[j].owner.map fun u => us.contains u) = some true then ExactAcc.empty else co.xacc[j],
            transfers := co.transfers.filter fun x => !s.transferStopped c x, subs := [],
            tlb := [], reserve := none, rowDesc := none, held := [] }

/-- The matrix rows of the partition are idle. -/
def State.clearRows (s : State) (cores : List Nat) : State :=
  let ws := (cores.filter fun c => isArray c && rowSlot c == 0).map rowOf
  let used := ws.filterMap fun w => (s.row w).run.map (·.folio)
  let s : State := { s with rows := s.rows.filter fun e => !ws.contains e.1 }
  used.foldl (fun s i => s.releaseFolio i) s

/-- The gathers and the sends that the curfew has stopped on the cores. -/
def State.stoppedGathers (s : State) (cores : List Nat) : List Gather := s.gathers.filter fun g => cores.contains g.core && s.engineStopped g.core g.uid
def State.stoppedSends (s : State) (cores : List Nat) : List Send := s.sends.filter fun x => cores.contains x.from_ && s.sendStopped x

/-- The partition is left without the outgoing tenants. -/
def State.emptyPartition (s : State) (cores us : List Nat) : State :=
  let gs := (s.stoppedGathers cores).map (·.id)
  let xs := (s.stoppedSends cores).map (·.id)
  let kept := cores.map fun c => (c, s.keptCore us c)
  let s := (s.removeThreads us).clearRows cores
  let s : State := { s with gathers := s.gathers.filter fun g => !gs.contains g.id, sends := s.sends.filter fun x => !xs.contains x.id,
                            channels := s.channels.filter fun x => !us.contains x.dst }
  kept.foldl (fun s e => (s.setCore e.1 e.2).blankCore e.1) s

/-! ### CURFEW_STOP (R264-R266, R271) -/

/-- The stop of a partition. -/
def State.stopPartition (s : State) (x : Curfew) : State :=
  let s := ((x.cores.filter fun c => isArray c && rowSlot c == 0).map rowOf).foldl (fun s w => s.finishRow w) s
  let s := x.cores.foldl (fun s c => s.stopCore c) s
  let s := s.withdraw ((s.caught x).map (·.uid))
  (s.folioPolicy x).switchQueues

/-- The waiters that a stop withdraws, in program order (R264). -/
def State.withdrawnBy (s : State) (x : Curfew) : List Access := s.accesses.filter fun a => a.waiterOf ((s.caught x).map (·.uid))

def State.setCurfew (s : State) (x : Curfew) : State := { s with curfews := s.curfews.map fun y => if y.id = x.id then x else y }

/-- CURFEW_STOP: with OUT = 0 what is on the cores is discarded at the stop (R448). -/
def execCurfewStop (id : Nat) (s : State) : Host.Outcome State Fault Refusal :=
  .next (match s.curfews.find? fun x => x.id == id with
    | none => s
    | some x =>
      if x.phase ≠ .armed ∨ s.curfewFirst x = false ∨ s.now < x.t then s
      else
        let held := s.withdrawnBy x
        let s := (s.setCurfew { x with phase := .stopped, withdrawn := held }).stopPartition x
        if x.out = 0 then
          let us := (s.caught x).map (·.uid)
          let s : State := { s with records := s.records.filter fun r => !us.contains r.uid }
          ((s.emptyPartition x.cores us).setCurfew { x with phase := .saved }).postNow (.switchIn id)
        else s.postNow (.curfewSave id))

/-! ### CURFEW_SAVE (R265, R267, R268) -/

/-- The scratchpad ranges that the save writes: the allotments whose tenants' masks ask for it, and the rings of the operations of
the partition's rows (R226, R267). -/
def State.savedSpads (s : State) (cores : List Nat) : List (Nat × Nat × Nat) :=
  (cores.flatMap fun c => (s.tenants.filter fun e => e.1 != 0 && e.2.hasCore c && e.2.saveMask.testBit 0).map fun e =>
    (c, e.2.spadLo, e.2.spadHi - e.2.spadLo)) ++
  s.rows.filterMap fun e =>
    match e.2.run with
    | some r =>
      if cores.contains (rowCore e.1 0) then
        (s.rowParts r).map fun p => (rowCore e.1 0, p.1.ring, (if p.2.fmt.mx then 72 else 64) * p.1.ringLen)
      else none
    | none => none

/-- The accumulator ranges that the save writes. -/
def State.savedAccs (s : State) (cores : List Nat) : List (Nat × Nat × Nat) :=
  (cores.filter isArray).flatMap fun c =>
    if s.tenants.any fun e => e.1 != 0 && e.2.hasCore c && e.2.saveMask.testBit 1 then [(c, 0, Config.accBytes)]
    else match ((s.row (rowOf c)).run).bind fun r => r.member? c with
    | some m => [(c, 256 * RowDesc.accBase m.desc, 256 * RowDesc.m m.desc)]
    | none => []

/-- What the partition holds: the contexts, the units' state, and the packets that fall out (R265). The link-stall counts pause. -/
def State.imageOf (s : State) (x : Curfew) : SaveImage :=
  let ts := s.caught x
  let us := ts.map (·.uid)
  { base := x.out, t := x.t, cores := x.cores, live := true,
    threads := ts.map fun t : Thread => { t with lastIssue := none, blockedAt := if t.banked || t.away == .restoring then t.blockedAt else t.blockedAt.map fun b => s.now - b },
    coreStates := x.cores.map fun c => (c, s.savedCore us c),
    rows := s.rows.filter fun e => x.cores.contains (rowCore e.1 0),
    accesses := s.accesses.filter fun a => us.contains a.uid, withdrawn := x.withdrawn.filter fun a => us.contains a.uid,
    channels := s.channels.filter fun c => us.contains c.dst,
    gathers := (s.stoppedGathers x.cores).map fun g : Gather => { g with got := [] }, sends := s.stoppedSends x.cores,
    spads := s.savedSpads x.cores, accs := s.savedAccs x.cores }

/-- The partition is at its clean points: the responses to what was performed are in the contexts (R265), the round-outs and row operations
that it has asked for are done (R245, R430), its copies stand on a boundary, and updates that a standby thread shares are applied. -/
def State.quietPartition (s : State) (x : Curfew) : Bool :=
  let us := (s.caught x).map (·.uid)
  (s.results.all fun r => !us.contains r.uid) && (s.roundOuts.all fun r => !us.contains r.uid) &&
    (s.accesses.all fun a => !us.contains a.uid || a.phase == .sent) && (s.rowOps.all fun r => !x.cores.contains (tidCore r.tid)) &&
    (x.cores.all fun c => (s.core c).transfers.all fun y => !s.transferStopped c y || y.aligned) &&
    s.sends.all fun y => !(x.cores.contains y.from_ && y.uids.any fun u => us.contains u) || s.sendStopped y

/-- The save area can be written: what is owed at its words has been done, and the messages of the watch events that the save raises have room
(R76, R83). -/
def State.areaRoom (s : State) (x : Curfew) : Bool :=
  let len := areaBytes x.cores.length + 8 * (s.imageOf x).fallOut.length
  let inside (a : Nat) : Bool := decide (x.out ≤ a) && decide (a < x.out + len)
  s.mayWrite ((s.tags.filter fun e => e.2.w && !e.2.poison && inside e.1).map (·.1) ++ s.waitedWords x.out len)

/-- A stopped curfew can save. -/
def State.mayOut (s : State) (x : Curfew) : Bool := s.quietPartition x && s.areaRoom x

/-- CURFEW_SAVE: an area that cannot be written ends the threads as R259 gives. -/
def execCurfewSave (id : Nat) (s : State) : Host.Outcome State Fault Refusal :=
  .next (match s.curfews.find? fun x => x.id == id with
    | none => s
    | some x =>
      if x.phase ≠ .stopped ∨ s.mayOut x = false then s
      else
        let i := s.imageOf x
        let ok := areaOk x.out (areaBytes x.cores.length + 8 * i.fallOut.length)
        let s := if ok then { s.writeArea i with images := i :: s.images.filter fun j => !(j.base == i.base) }
                 else i.threads.foldl (fun s t => s.loseThread t) s
        ((s.emptyPartition x.cores (i.threads.map (·.uid))).setCurfew { x with phase := .saved, bad := !ok }).postNow (.switchIn id))

/-! ### SWITCH_IN (R226, R263, R270, R485) -/

/-- Whether a core stays switched out after the switch of a curfew, and the area of the image that brings it back (R485). -/
def State.staysOut (s : State) (x : Curfew) (c : Nat) : Option Nat :=
  match (s.core c).switched with
  | none => if x.inn = 0 ∧ x.out ≠ 0 then some x.out else none
  | some base => if x.inn ≠ 0 ∧ (x.inn = base ∨ ((s.imageAt x.inn x.cores).map (·.base)) = some base) then none else some base

/-- The switch of a curfew ends: the status word is written, the cores return to service or stay switched out, and the next
curfews of these cores count (R262, R485). -/
def State.endSwitch (s : State) (x : Curfew) (status : Nat) : State :=
  let outs := x.cores.map fun c => (c, s.staysOut x c)
  let s := outs.foldl (fun s e => s.modCore e.1 fun co => { co with stopped := false, switched := e.2 }) s
  let s : State := { s with curfews := s.curfews.filter fun y => !(y.id == x.id) }
  let s := match x.statusPa with
    | some pa => s.engineWrite pa (w64 status) (.unit 0) true (none, none)
    | none => s
  let s := s.switchQueues
  let s := s.curfews.foldl (fun s y => s.postStop y) s
  x.cores.foldl (fun s c => s.fillPool c) s

/-! #### Step 1: the blocks (R270) -/

/-- Where the bound accumulators of a saved core go: to the same accumulator, or to a free one when a standby thread has taken that. One for
which no accumulator is free is dropped with its binding (log entry 20). -/
def exactMoves (now saved : Core) : List (Nat × Nat) :=
  ((List.range 8).foldl (fun (r : List Nat × List (Nat × Nat)) j =>
    if ((saved.exact j).owner).isNone then r
    else match (if r.1.contains j then some j else r.1.head?) with
    | some k => (r.1.filter fun n => !(n == k), r.2 ++ [(j, k)])
    | none => r) (below 8 fun j => ((now.exact j).owner).isNone, [])).2

/-- A core is brought into the partition mode of its block (R270, R486; log entry 73). -/
def State.restoreMode (s : State) (c : Nat) (v : Core) : State := if (s.core c).deep = v.deep then s else s.switchPartition c v.deep

/-- The messages that a mailbox queue takes, and those that wait for room behind them (R192). -/
def splitMail : (room sends : Nat) → List Msg → List Msg × List Msg
  | _, _, [] => ([], [])
  | room, sends, m :: ms =>
    if room = 0 ∨ (m.device = false ∧ sends = 0) then ([], m :: ms)
    else
      let r := splitMail (room - 1) (if m.device then sends else sends - 1) ms
      (m :: r.1, r.2)

/-- The messages of a saved mailbox come in front of those that standby threads have; what finds no room waits (R192). -/
def State.restoreMail (s : State) (c : Nat) (saved : List Msg) : State :=
  let r := splitMail Config.mailEntries Config.mailSend (saved ++ (s.core c).mail)
  let s := s.modCore c fun co => { co with mail := r.1 }
  { s with devMsgs := ((List.range r.2.length).zip r.2).map (fun e => (c, { e.2 with id := s.nextId + e.1 })) ++ s.devMsgs, nextId := s.nextId + r.2.length }

/-- The state of one core is restored. Its records have reached the core: a wait for records of their tenants ends (R127). -/
def State.restoreCore (s : State) (c : Nat) (v : Core) : State :=
  let moves := exactMoves (s.core c) v
  let rebind (t : Thread) : Thread :=
    if t.core = c ∧ t.status = .restoring then { t with xa := Vector.ofFn fun n : Fin 8 => t.xa[n].bind fun j => lookup? moves j } else t
  let s : State := { s with threads := s.threads.map rebind }
  let s := ((v.deque.map (·.tenant)).eraseDups.foldl (fun s n => s.endBackoff c n) s)
  (s.restoreMail c v.mail).modCore c fun co =>
    { co with deque := v.deque ++ co.deque, stab := v.stab.foldl (fun l e => insert l e.1 e.2) co.stab,
              xacc := Vector.ofFn fun k : Fin 8 => match moves.find? fun m => m.2 == k.val with | some m => v.exact m.1 | none => co.xacc[k],
              transfers := v.transfers ++ co.transfers, nextTransfer := v.nextTransfer, subs := v.subs,
              reserve := v.reserve, rowDesc := v.rowDesc }

/-- The saved ranges of a block come back. -/
def State.restoreMemory (s : State) (i : SaveImage) (e : Nat × Nat) : State :=
  let s := (i.spadRanges e.2).foldl (fun s r => s.loadSpad e.1 e.2 r) s
  (i.accRanges e.2).foldl (fun s r => (s.clearAcc e.2 (r.1 / 256) (r.2 / 256)).copyGood (e.1 + 0x154000 + r.1) (accPa e.2 r.1) r.2) s

/-- A context comes back, and its placement number with it (R193); it is restoring (R48). -/
def State.enterContext (s : State) (t : Thread) : State :=
  { s with threads := s.threads ++ [{ t with status := .restoring }] }.modCore t.core fun co =>
    if t.banked then co else { co with placements := insert co.placements t.slot t.placement }

/-! #### Steps 2 and 3: the packets and the waiters (R270) -/

/-- An access of a restored thread is made again: its page is translated anew. -/
def State.reinject (s : State) (a : Access) : State :=
  match s.thread? a.uid with
  | none => s
  | some t =>
    let s := { s with accesses := s.accesses ++ [{ a with phase := .sent }] }
    let need : Need := match a.kind with
      | .load | .loadPair | .tagrd | .streamElem _ => .read
      | .amo _ | .cas => .both
      | _ => .write
    if a.streamed || a.kind == .alloc || a.kind == .clear then s.postNow (.accessPerformed a.id)
    else match s.resolve t.viewer a.va (if a.kind.pair then 16 else 2 ^ a.size) need with
    | .ok pa => (s.setAccess { a with pa := pa, phase := .sent }).postNow (.accessPerformed a.id)
    | .bad cause => s.refuse { a with phase := .sent } cause (w64 a.va) 0
    | .miss => s.postNow (.accessPerformed a.id)

/-- A restored row: its operation waits until its folio can be used (R226). -/
def Row.suspended (r : Row) : Row := { r with run := r.run.map fun x => if x.ended then x else { x with waiting := true } }

/-- Restores an image: its blocks, the packets that fell out, and the waiters, in their order. Contexts whose records cannot be read are
ended as R259 gives. -/
def State.restoreImage (s : State) (i : SaveImage) (lost : List (Thread × Bool)) : State :=
  let s : State := { s with nextUid := s.nextUid + 1024 * Config.cores, nextId := s.nextId + 2 ^ 24 }
  let s := i.coreStates.foldl (fun s e => s.restoreMode e.1 e.2) s
  let s := i.threads.foldl (fun s t => s.enterContext t) s
  let s := i.coreStates.foldl (fun s e => s.restoreCore e.1 e.2) s
  let s := (areaBlocks i.base i.cores).foldl (fun s e => s.restoreMemory i e) s
  let s : State := { s with channels := s.channels ++ i.channels, sends := s.sends ++ i.sends, gathers := s.gathers ++ i.gathers }
  let s := i.rows.foldl (fun s e => s.setRow e.1 e.2.suspended) s
  let s := (sortBy (·.id) i.accesses ++ sortBy (·.id) i.withdrawn).foldl (fun s a => s.reinject a) s
  lost.foldl (fun s e => s.loseSaved e.1 e.2) s

/-- The restoring contexts of a partition. -/
def State.restoringOf (s : State) (x : Curfew) : List Thread := s.threads.filter fun t => t.status == .restoring && x.cores.contains t.core

/-- No access of a restored thread can still be placed: each has been performed, waits, or stands behind another one of its thread. -/
def State.allPlaced (s : State) (x : Curfew) : Bool :=
  s.accesses.all fun a => !((s.restoringOf x).any fun t => t.uid == a.uid) || !s.mayArrive a

/-! #### Steps 4 to 6: holds, contexts and units (R270) -/

/-- The thread's arrival at a gang still counts (R132). -/
def State.countedArrival (s : State) (t : Thread) : Bool := (s.tenant t.tenant).gangs.any fun e => e.2.arrived.contains t.uid

/-- A message that has entered the mailbox of a thread parked in MWAIT, or its mailbox image, makes it ready (R195, R418). -/
def State.lookAtMail (s : State) (t : Thread) : State :=
  match s.mailbox t with
  | m :: _ => if t.stat = .parkedMessage then s.completeMwait t m else s
  | [] => s

/-- A context that was resident goes on: its link-stall count (R134), its walk, and the record of its hold, which is sent again (R270). A thread
whose instruction no unit knows of any more executes it again. -/
def State.goOn (s : State) (t : Thread) : State :=
  let t := { t.returned with blockedAt := t.blockedAt.map fun n => s.now - n }
  let s := (s.setThread t).resumeStall t
  let s := match t.latch with
    | none => s
    | some l =>
      if t.stat ≠ .heldFault then s
      else if l.walk then s.postNow (.translationWalkEnd t.uid)
      else
        let s := s.setThread { t with latch := some { l with sent := false } }
        if l.barrier ≠ 0 ∧ rowSlot t.core ≠ 0 then s else s.sendHeld t l
  let waits := (s.accesses.any fun a => a.uid == t.uid) || (s.rows.any fun e => e.2.arrivals.any fun a => a.uid == t.uid) || s.countedArrival t
  if t.stat = .parkedMemory ∧ waits = false then s.modThread t.uid Thread.wake else s

/-- A restored thread returns to its recorded state (R48). A revoked one stays in the reserve bank, and one that was on its way back stays on
it. -/
def State.restoreThread (s : State) (t : Thread) : State :=
  let s := if t.away = .revoked ∨ t.away = .restoring then s.setThread t.returned else s.goOn t
  match s.thread? t.uid with
  | none => s
  | some t =>
    let s := s.lookAtMail t
    if t.stopPending ∧ !t.status.suspended then s.stopThread t.uid else s

/-- A row operation is restored: its folio decides how it goes on (R226). -/
def State.resumeRow (s : State) (w : Nat) : State :=
  let s := s.setRow w { s.row w with halted := false }
  let s := (s.row w).arrivals.foldl (fun s a =>
    match s.thread? a.uid with
    | some t => if t.waitlim = 0 then s else s.postLimit (s.now + t.waitlim.toNat) a.id
    | none => s) s
  let s := s.setRow w { s.row w with arrivals := (s.row w).arrivals.map fun a : Arrival => { a with since := s.now } }
  match (s.row w).run with
  | none => s
  | some x =>
    let put (s : State) (x : RowRun) : State := s.setRow w { s.row w with run := some x }
    if x.ended then s
    else match (s.folio? x.folio).filter fun f => f.check == x.check && f.state != .revoked with
    | none => put s (x.stop 2)
    | some f =>
      match f.state with
      | .ready => put s { x with waiting := false }
      | .loading => put s { x with waiting := true }
      | .stale => put s (x.stop 3)
      | _ =>
        if f.chg then put s (x.stop 3)
        else
          let v : Viewer := { tenant := f.tenant, curator := false, core := some (rowCore w 0), ignoreH := false }
          match s.readyReload (s.walkPager v) x.folio f with
          | .error _ => put s (x.stop 2)
          | .ok s => put (s.startLoad x.folio) { x with waiting := true }

/-- The contexts return, and row operations, copies, gathers and sends go on. -/
def State.resumePartition (s : State) (x : Curfew) : State :=
  let ts := s.restoringOf x
  let s := ts.foldl (fun s t => match s.thread? t.uid with | some t => s.restoreThread t | none => s) s
  let s := ((x.cores.filter fun c => isArray c && rowSlot c == 0).map rowOf).foldl (fun s w => if (s.rows.any fun e => e.1 == w) then s.resumeRow w else s) s
  let s := x.cores.foldl (fun s c => (s.core c).transfers.foldl (fun s y => s.postNow (.copyCompletion c y.serial)) s) s
  let s := (s.gathers.filter fun g => x.cores.contains g.core).foldl (fun s g => s.postNow (.gatherRowWrite g.id)) s
  (s.sends.filter fun y => x.cores.contains y.from_).foldl (fun s y => s.postNow (.binUpdate y.id)) s

/-- The area that IN names can be read, or the status that says why not (R263). -/
def State.areaStatus (s : State) (x : Curfew) : Nat :=
  if !areaOk x.inn (areaBytes x.cores.length) || s.areaPoisoned x.inn 30 then 2
  else if s.areaWord x.inn ≠ 1 ∨ s.areaWords (x.inn + 64) 20 ≠ coreBitmap x.cores then 1
  else if !areaOk x.inn ((s.areaWord (x.inn + 8 * 28)).toNat + (s.areaWord (x.inn + 8 * 29)).toNat) then 2
  else 0

/-- A word of the area is poisoned (R263). -/
def State.badArea (s : State) (x : Curfew) : Bool :=
  s.areaPoisoned x.inn ((areaBytes x.cores.length + (s.areaWord (x.inn + 8 * 29)).toNat) / 8)

/-- The status word of a curfew may be written now (R76, R83). -/
def State.statusRoom (s : State) (x : Curfew) : Bool :=
  match x.statusPa with
  | some pa => s.mayWrite [pa]
  | none => true

/-- The switch of a curfew can go on. -/
def State.mayIn (s : State) (x : Curfew) : Bool := s.statusRoom x && (x.phase != .restoring || s.allPlaced x)

/-- What the error codes of the area find when the switch reads it (R301). -/
def State.checkArea (s : State) (x : Curfew) : State :=
  s.checkRange x.inn (areaBytes x.cores.length + (s.areaWord (x.inn + 8 * 29)).toNat)

/-- An area that cannot be restored as a whole ends the threads that were saved there (R259, R263). -/
def State.loseArea (s : State) (base : Nat) (cores : List Nat) : State :=
  if s.images.any fun i => i.live && i.base == base && i.cores == cores then (s.areaRead base cores).foldl (fun u e => u.loseSaved e.t (s.futureKnown e)) s else s

/-- SWITCH_IN: the image that IN names is restored; when its accesses have been placed, its contexts return, and the switch ends. -/
def execSwitchIn (id : Nat) (s : State) : Host.Outcome State Fault Refusal :=
  .next (match s.curfews.find? fun x => x.id == id with
    | none => s
    | some x =>
      if s.mayIn x = false then s
      else match x.phase with
      | .saved =>
        let s := if x.inn = 0 then s else s.checkArea x
        if x.inn = 0 then s.endSwitch x (if x.bad then 2 else 0)
        else
          let status := s.areaStatus x
          if status = 2 then (s.loseArea x.inn x.cores).endSwitch x 2
          else if status ≠ 0 then s.endSwitch x status
          else
            let (i, lost) := s.areaImage x.inn x.cores
            let bad := x.bad || s.badArea x
            let used (j : SaveImage) : SaveImage := if j.t = i.t ∧ j.cores = i.cores then { j with live := false } else j
            let s := { s with images := s.images.map used }.restoreImage i lost
            (s.setCurfew { x with phase := .restoring, bad := bad }).postNow (.switchIn id)
      | .restoring => (s.resumePartition x).endSwitch x (if x.bad then 2 else 0)
      | _ => s)

end Sys2Proof.Machine
end

