-- ==== Sys2Proof/Machine/RowCopies.lean ====
section
/-! DEFINITION. RCOPY, RZERO and the DRAM banks: major 0x2A fn 16 and 17 (R298-R300, R428-R430). -/

namespace Sys2Proof.Machine

/-! ### Banks (R298) -/

/-- Closes the open row of a bank. -/
def State.precharge (s : State) (n : Nat) : State :=
  s.modFront fun f => { f with banks := insert f.banks n { s.bank n with openRow := none } }

/-- The address that an access of the host or of a peer is for, when it is the next to be taken up. -/
def State.outerPa (s : State) : Option Nat :=
  match s.inputs with
  | .hostRead pa :: _ | .hostWrite pa _ :: _ => some pa
  | .peer port off size _ _ :: _ =>
    (s.front.ingress.find? fun e => e.port == port && decide (e.off ≤ off) && decide (off + 2 ^ size ≤ e.off + e.len)).map fun e => e.base + (off - e.off)
  | _ => none

/-- An access to the open row of a bank is on its way: of a thread, of a unit, of a transfer that goes on there, of the host or of a peer. -/
def State.rowQueued (s : State) (n row : Nat) : Bool :=
  let here (pa : Nat) : Bool := regionOf pa == .dram && (s.cellOf pa).bankNo == n && (s.cellOf pa).row == row
  (s.accesses.any fun a => a.phase == .sent && here a.pa) || (s.unitStores.any fun x => here x.pa) || s.outerPa.any here ||
    s.cores.any fun e => e.2.transfers.any fun x => (x.srcPa x.next).any here || (x.dstPa x.next).any here

/-- The idle timer of a bank's open row has run out: the period that was in effect at its last access, none for 0xFFF; and no access to
the row is queued (R298). -/
def State.idleOver (s : State) (n : Nat) : Bool :=
  let b := s.bank n
  match b.openRow with
  | none => false
  | some row => b.period != 0xFFF && decide (b.last + 4 * b.period.toNat ≤ s.now) && !s.rowQueued n row

/-- BANK_IDLE_PRECHARGE (R298). -/
def execBankIdlePrecharge (bank : Nat) (s : State) : Host.Outcome State Fault Refusal :=
  .next (if s.idleOver bank then s.precharge bank else s)

/-- BANK_REFRESH closes an open row whatever IDLE holds (R298). -/
def execBankRefresh (bank : Nat) (s : State) : Host.Outcome State Fault Refusal := .next (s.precharge bank)

/-! ### Launch (R299, R429) -/

/-- A row address is not a multiple of 8 KiB. -/
def rowOdd (v : Word) : Bool := decide (v.toNat % 8192 ≠ 0)

/-- The physical row at a virtual address; `k` gets it (R429). -/
def Ctx.reachRow (c : Ctx) (s : State) (va : Word) (wr : Bool) (k : Nat → State) : State :=
  match s.reach c.t va.toNat 8192 (!wr) wr with
  | .miss => c.miss s va (needCode (!wr) wr 8192)
  | .bad cause => c.raise s cause va
  | .ok pa => k pa

/-- The row lies in DRAM of class 3 (R299). -/
def State.goodRow (s : State) (pa : Nat) : Bool :=
  match regionOf pa with
  | .dram => s.classAt pa == 3
  | _ => false

/-- The claim of a destination row: no event, and no waiter is served (R82, R300, R430). It is an access to the row (R298). -/
def State.claimRow (s : State) (pa : Nat) : State :=
  (List.range 1024).foldl (fun s i =>
    if s.poisoned (pa + 8 * i) then s else s.setP (pa + 8 * i) false) (s.activate pa)

/-- The path within a stack: 0 in-array, 1 through the base die (R299); a subarray is 512 rows of a bank. -/
def State.rowPath (s : State) (dst : Nat) (src : Option Nat) : Nat :=
  match src with
  | none => 0
  | some p =>
    let a := s.cellOf dst
    let b := s.cellOf p
    if a.bankNo = b.bankNo ∧ a.row / 512 = b.row / 512 then 0 else 1

/-- Launches a row operation (R300, R429). -/
def Ctx.launchRow (c : Ctx) (p : State) (dst : Nat) (src : Option Nat) : State :=
  let r : RowOp := { id := p.nextId, uid := c.uid, tid := c.t.tid, tenant := c.t.tenant, src := src, dst := dst, data := none }
  let s := ({ p with nextId := p.nextId + 1, rowOps := p.rowOps ++ [r] }.claimRow dst).postNow (.rowOperationWrite r.id)
  c.done (c.put s (w64 (p.rowPath dst src)))

/-- RCOPY between stacks: in proving mode the copy engine carries it out, as an 8 KiB CPYGO with NOMSG (R300, fallback row 16). -/
def Ctx.launchFar (c : Ctx) (s p : State) (dst src : Nat) : State :=
  if !(s.core c.t.core).prove then c.trap s 0x02 0
  else if !s.launchRoom c.t.core then c.block s .launchRoom
  else
    let r : CopyRegs := { src := c.b, dst := c.a, len := 8192, strides := 0, rows := 1, flg := 2 }
    let (_, p) := p.launchCopy c.t.core r [(c.a.toNat, dst, 8192), (c.b.toNat, src, 8192)] 0 true (some c.t) c.t.tenant none true
    let c := { c with row := if c.row = 0 then 16 else c.row }
    c.done (c.put (p.claimRow dst) 2)

/-- RCOPY (R299, R428, R429). -/
def execRcopy (d a b : BitVec 6) (e f : BitVec 1) (s : State) : Host.Outcome State Fault Refusal :=
  s.issue (.rcopy d a b e f) (fun _ _ => fmtR d a b e f) fun c s =>
    c.ordered s fun p =>
      if rowOdd c.a then c.trap s 0x0A c.a
      else if rowOdd c.b then c.trap s 0x0A c.b
      else c.reachRow s c.a true fun dst => c.reachRow s c.b false fun src =>
        if !s.goodRow dst then c.trap s 0x09 c.a
        else if !s.goodRow src then c.trap s 0x09 c.b
        else if (s.cellOf dst).stack ≠ (s.cellOf src).stack then c.launchFar s p dst src else c.launchRow p dst (some src)

/-- RZERO (R299, R428, R429). -/
def execRzero (d a b : BitVec 6) (e f : BitVec 1) (s : State) : Host.Outcome State Fault Refusal :=
  s.issue (.rzero d a b e f) (fun _ _ => fmtR1 d a b e f) fun c s =>
    c.ordered s fun p =>
      if rowOdd c.a then c.trap s 0x0A c.a
      else c.reachRow s c.a true fun dst => if s.goodRow dst then c.launchRow p dst none else c.trap s 0x09 c.a

/-! ### The row write (R300, R430) -/

/-- The source row that an RCOPY has still to read, at an instant of its own before it writes the destination (R109, R430). -/
def RowOp.reads (r : RowOp) : Option Nat := if r.data.isNone then r.src else none

/-- The operation is the first on its destination bank, and it has its source row still to read, or the messages of its watch events have
room (R83, R300, R430). A source row on which an earlier operation runs is read after that one's write. -/
def State.rowMayWrite (s : State) (r : RowOp) : Bool :=
  let bank := (s.cellOf r.dst).bankNo
  let words (a : Nat) : List Nat := (List.range 1024).map fun i => a + 8 * i
  ((s.rowOps.find? fun x => (s.cellOf x.dst).bankNo == bank).map (·.id)) == some r.id &&
    match r.reads with
    | some a => s.quietWords (words a) && !s.rowOps.any fun x => decide (x.id < r.id) && x.dst == a
    | none => s.watchRoom (words r.dst)

/-- What the source row holds: the data of each word, none for a poisoned word. -/
def State.rowData (s : State) (src : Option Nat) : List (Option Word) :=
  match src with
  | none => List.replicate 1024 (some 0)
  | some pa => (List.range 1024).map fun i => if s.poisoned (pa + 8 * i) then none else some (s.word (pa + 8 * i))

/-- Writes the destination row: P is set on every word, and every word with W = 1 raises a watch event; a poisoned source word poisons
its word (R86, R300). -/
def State.writeRow (s : State) (r : RowOp) (ws : List (Option Word)) : State :=
  ((List.range 1024).zip ws).foldl (fun s e =>
    let pa := r.dst + 8 * e.1
    match e.2 with
    | some v => s.engineWrite pa v (.unit r.tenant) true (some r.uid, none)
    | none => ((s.setP pa true).poisonOne pa).written pa (.unit r.tenant)) s

/-- The source row is read, at one instant: an RCOPY that has not read it. What the error codes find is corrected, or is poison. -/
def State.readRow (s : State) (r : RowOp) (pa : Nat) : State :=
  let s := ((List.range 1024).foldl (fun (s : State) i => s.checkEcc (pa + 8 * i)) s).activate pa
  { s with rowOps := s.rowOps.map fun x => if x.id = r.id then { r with data := some (s.rowData r.src) } else x }

/-- The row's 1024 data writes and their events, in one step. -/
def State.finishRowOp (s : State) (r : RowOp) : State :=
  let s := { s with rowOps := s.rowOps.filter fun x => !(x.id == r.id) }
  (s.writeRow r (r.data.getD (s.rowData none))).activate r.dst

/-- ROW_OPERATION_WRITE: an RCOPY's read of its source row, the whole row in one step; then, in a later step, the row's writes and events. When
between issue and completion the source is read is the model's choice (log entry 85). -/
def execRowOperationWrite (id : Nat) (s : State) : Host.Outcome State Fault Refusal :=
  .next (match s.rowOps.find? fun r => r.id == id with
    | none => s
    | some r =>
      if !s.rowMayWrite r then s
      else match r.reads with
      | some pa => s.readRow r pa
      | none => s.finishRowOp r)

end Sys2Proof.Machine
end

