-- ==== Sys2Proof/Machine/System.lean ====
section
/-! DEFINITION. The system registers (R329-R333 and the rules that define them): MFSR, MTSR, and the writes that other units perform. -/

namespace Sys2Proof.Machine

/-! ### Who may read and write a register (R332) -/

/-- The lowest levels that may read and write register `n`, as numbers; 3 is above every level. None: unassigned. FWCTL exists on
curator cores only (R333). -/
def sysLevels (curatorCore : Bool) (n : Nat) : Option (Nat × Nat) :=
  if n = 0x000 ∨ n = 0x001 then some (0, 3)
  else if n = 0x002 then some (0, 1)
  else if n = 0x003 then some (0, 2)
  else if n = 0x008 ∨ n = 0x009 ∨ n = 0x00A ∨ n = 0x010 ∨ n = 0x014 ∨ n = 0x015 then some (0, 0)
  else if n = 0x016 ∨ n = 0x017 then some (1, 1)
  else if 0x018 ≤ n ∧ n ≤ 0x01B then some (0, 0)
  else if n = 0x01C then some (0, 1)
  else if 0x01D ≤ n ∧ n ≤ 0x025 ∨ n = 0x030 then some (0, 0)
  else if 0x040 ≤ n ∧ n ≤ 0x04F then some (0, 1)
  else if n = 0x060 then some (0, 1)
  else if 0x070 ≤ n ∧ n ≤ 0x087 then some (0, 3)
  else if 0x090 ≤ n ∧ n ≤ 0x0A7 then some (1, 1)
  else if 0x0A8 ≤ n ∧ n ≤ 0x0AB then some (0, 3)
  else if n = 0x100 ∨ n = 0x111 ∨ n = 0x112 ∨ n = 0x113 ∨ n = 0x114 ∨ n = 0x115 then some (2, 2)
  else if n = 0x110 then (if curatorCore then some (2, 2) else none)
  else none

/-- Numbers from 0x100 to 0x1FF test the privilege first (R330). -/
def sysHigh (n : Nat) : Bool := decide (0x100 ≤ n) && decide (n < 0x200)

/-- A comparator that another tenant owns: a tenant-runtime write takes *privilege* (R313). -/
def Core.dbgForeign (c : Core) (t : Thread) (n : Nat) : Bool :=
  decide (0x090 ≤ n) && decide (n ≤ 0x0A7) && t.level == .runtime &&
    (let ten := fieldOf ((c.dbgc[(n - 0x090) % 8]?).getD 0) 8 8
     ten != 0 && ten != t.tenant)

/-- Checks 1 and 2 for register `n` (R330). -/
def sysForm (f : Form) (n : Nat) (write curatorCore : Bool) (t : Thread) (c : Core) : Form :=
  match sysLevels curatorCore n with
  | none => if sysHigh n && t.level != .curator then { f with level := .curator, privVal := w64 n } else { f with illegal := true }
  | some (r, w) =>
    let l := if write then w else r
    { f with level := Level.ofNum (min l 2), denied := decide (l = 3) || (write && c.dbgForeign t n), privVal := w64 n }

/-! ### Reading (R331) -/

/-- The tenant whose registers of scope tenant a thread reads and writes: at curator level the curator's own (R333). -/
def Thread.sysTenant (t : Thread) : Nat := if t.level = .curator then 0 else t.tenant

/-- A feature word (R292). -/
def State.feature (s : State) (i : Nat) : Word :=
  match i with
  | 0 => w64 (1 + 1 * 2 ^ 8 + s.front.minor.toNat * 2 ^ 16)
  | 1 | 2 | 3 => 2
  | _ => w64 ((List.range 64).foldl (fun x b => x + bitNat (s.present (64 * (i - 4) + b)) * 2 ^ b) 0)

/-- Counter `n` as MFSR finds it: the present cycle is an event of its own (R319), and an overflow in this cycle shows (R320). -/
def Core.pmcSeen (c : Core) (n : Nat) : Word :=
  match c.pmc[n]? with
  | none => 0
  | some p =>
    let v := p.count.toNat + bitNat (c.counts n 1 none 0)
    w64 (v % 2 ^ 48 + bitNat (p.ovf || decide (2 ^ 48 ≤ v)) * 2 ^ 63)

/-- The value that MFSR reads. -/
def State.sysRead (s : State) (t : Thread) (n : Nat) : Word :=
  let c := s.core t.core
  let ten := s.tenant t.sysTenant
  match n with
  | 0x000 => w64 t.tid
  | 0x001 => s.time t.core
  | 0x002 => w64 (t.cls.num + bitNat (s.isStandby t) * 4 + t.tenant * 256)
  | 0x003 => flagWord c.prove
  | 0x008 => t.fprm
  | 0x009 => t.fpflags.setWidth 64
  | 0x00A => t.srseed
  | 0x010 => t.waitlim
  | 0x014 => t.tscr0
  | 0x015 => t.tscr1
  | 0x016 => t.rscr0
  | 0x017 => t.rscr1
  | 0x018 => t.fltcause
  | 0x019 => t.fltval
  | 0x01A => t.fltpc
  | 0x01B => t.fltinst
  | 0x01C => ten.trapvec
  | 0x01D => t.deleg
  | 0x01E => t.utrapvec
  | 0x01F => t.tstat
  | 0x020 => t.cpysrc
  | 0x021 => t.cpydst
  | 0x022 => t.cpylen
  | 0x023 => t.cpystr
  | 0x024 => t.cpyrows
  | 0x025 => t.cpyflg
  | 0x030 => t.pwarn
  | 0x060 => ten.heapdesc
  | 0x100 => c.ctrapvec
  | 0x110 => w64 (bitNat c.fwEnable + c.fwDrops.toNat * 2 ^ 16)
  | 0x111 => s.front.ckptdesc
  | 0x112 => s.front.pwrlim
  | 0x113 => c.trcbase
  | 0x114 => c.trcctl
  | 0x115 => w64 ((match s.thread? c.dbgNamed with | some t => t.status.num | none => 0) * 2 ^ 20)
  | _ =>
    let acct := c.accountOf t.actsFor
    if 0x040 ≤ n ∧ n ≤ 0x047 then
      c.pmcSeen (n - 0x040)
    else if 0x048 ≤ n ∧ n ≤ 0x04F then (c.pmsel[n - 0x048]?).getD 0
    else if 0x070 ≤ n ∧ n ≤ 0x087 then s.feature (n - 0x070)
    else if 0x090 ≤ n ∧ n ≤ 0x097 then (c.dbgc[n - 0x090]?).getD 0
    else if 0x098 ≤ n ∧ n ≤ 0x09F then (c.dbga[n - 0x098]?).getD 0
    else if 0x0A0 ≤ n ∧ n ≤ 0x0A7 then (c.dbgb[n - 0x0A0]?).getD 0
    else if n = 0x0A8 then acct.qwait.setWidth 64
    else if n = 0x0A9 then acct.run.setWidth 64
    else if n = 0x0AA then (acct.searchAt s.now).setWidth 64
    else if n = 0x0AB then acct.fsteal.setWidth 64
    else 0

/-- The value that a write of a tenant or device register, now spreading from another core, will leave (R331). -/
def State.spreading (s : State) (t : Thread) (n : Nat) : Option Word :=
  let from_ (uid : Nat) (same : Thread → Bool) : Bool := ((s.thread? uid).map fun o => o.core != t.core && same o) == some true
  s.pending.findSome? fun p =>
    match p.ev with
    | .trapvecWrite u v => if n = 0x01C ∧ from_ u (fun o => o.sysTenant == t.sysTenant) = true then some v else none
    | .heapdescWrite u v => if n = 0x060 ∧ from_ u (fun o => o.sysTenant == t.sysTenant) = true then some (v &&& 0x000FFFFFC0000FFF) else none
    | .pwrlimWrite u v => if n = 0x112 ∧ from_ u (fun _ => true) = true then some v else none
    | _ => none

/-- The value that MFSR finds: while a write spreads, the old or the new one (R5, R331). -/
def State.sysSeen (s : State) (t : Thread) (n : Nat) : Word × State :=
  match s.spreading t n with
  | none => (s.sysRead t n, s)
  | some v => let (k, s) := s.pick 2; (if k = 1 then v else s.sysRead t n, s)

/-- MFSR (R329-R331). -/
def execMfsr (d a : BitVec 6) (e : BitVec 1) (n : BitVec 13) (s : State) : Host.Outcome State Fault Refusal :=
  s.issue (.mfsr d a e n) (fun t c =>
    sysForm { Form.plain with d := opD .dst d, rsvd := nz a || nz e } n.toNat false (s.curatorCore t.core) t c) fun c _ =>
    let (v, p) := c.popped.sysSeen c.t n.toNat
    c.done (c.put p v)

/-! ### Debug commands (R311) -/

/-- DBGCMD's resume: the recorded state. -/
def State.resumeThread (s : State) (uid : Nat) (step : Bool) : State :=
  match s.thread? uid with
  | none => s
  | some t => if t.status = .trappedStopped then s.setThread { t with status := t.recorded, stepping := step, stepIssued := false } else s

/-- A command of DBGCMD names the thread that holds the slot when the write arrives: 1 stop, 2 resume, 3 step. -/
def State.debugCommand (s : State) (tid cmd : Nat) : State :=
  match (if cmd = 1 then s.holder? tid else s.occupant? tid) with
  | none => s
  | some t =>
    match cmd with
    | 1 => s.stopThread t.uid
    | 2 => s.resumeThread t.uid false
    | 3 => s.resumeThread t.uid true
    | _ => s

/-- DBGCMD's BRKSTOP arms a tenant's threads on a core; tenant 0 disarms it. -/
def State.armBreak (s : State) (c tenant : Nat) : State := s.modCore c fun co => { co with brkTenant := tenant }

/-- A write to DBGCMD. -/
def State.writeDbgcmd (s : State) (c : Nat) (v : Word) : State :=
  let s := s.modCore c fun co => { co with dbgNamed := ((s.holder? (fieldOf v 0 20)).map (·.uid)).getD 0 }
  let s := s.debugCommand (fieldOf v 0 20) (fieldOf v 20 4)
  if v.toNat.testBit 24 then s.armBreak c (fieldOf v 25 8) else s

/-- DEBUG_STOP. -/
def execDebugStop (tid : Nat) (s : State) : Host.Outcome State Fault Refusal := .next (s.debugCommand tid 1)
/-- DEBUG_RESUME. -/
def execDebugResume (tid : Nat) (s : State) : Host.Outcome State Fault Refusal := .next (s.debugCommand tid 2)
/-- DEBUG_STEP. -/
def execDebugStep (tid : Nat) (s : State) : Host.Outcome State Fault Refusal := .next (s.debugCommand tid 3)
/-- BRKSTOP. -/
def execBrkstop (core tenant : Nat) (s : State) : Host.Outcome State Fault Refusal := .next (s.armBreak core tenant)

/-- CONTEXT_RECORD_ACCESS: the curator reads or writes a word of a stopped thread's record (R312). The data of a read is left in
`front.readData`. -/
def execContextRecordAccess (write : Bool) (tid word : Nat) (v : Word) (s : State) : Host.Outcome State Fault Refusal :=
  let off := 0x1000000 + tid % 655360 * 2048 + word % 256 * 8
  .next (if write then s.systemWrite off v else s.modFront fun f => { f with readData := some (s.systemRead off) })

/-! ### Writing (R331) -/

/-- A changed WAITLIM counts for the waiters already placed, from their placement (R77). -/
def State.writeWaitlim (s : State) (t : Thread) (v : Word) : State :=
  let s := s.modThread t.uid fun t => { t with waitlim := v }
  if v = 0 then s
  else (s.accesses.filter fun a => a.uid == t.uid).foldl (fun s a =>
    match a.phase with
    | .waiting _ since => s.postLimit (since + v.toNat) a.id
    | _ => s) s

/-- The write of a register that MTSR performs itself. -/
def State.sysPut (s : State) (t : Thread) (n : Nat) (v : Word) : State :=
  let mod (f : Thread → Thread) : State := s.modThread t.uid f
  match n with
  | 0x008 => mod fun t => { t with fprm := if fieldOf v 0 3 ≤ 4 then v &&& 7 else 0 }
  | 0x009 => mod fun t => { t with fpflags := v.setWidth 5 }
  | 0x00A => mod fun t => { t with srseed := v }
  | 0x010 => s.writeWaitlim t v
  | 0x014 => mod fun t => { t with tscr0 := v }
  | 0x015 => mod fun t => { t with tscr1 := v }
  | 0x016 => mod fun t => { t with rscr0 := v }
  | 0x017 => mod fun t => { t with rscr1 := v }
  | 0x018 => mod fun t => { t with fltcause := v &&& 0x1FF }
  | 0x019 => mod fun t => { t with fltval := v }
  | 0x01A => mod fun t => { t with fltpc := v }
  | 0x01B => mod fun t => { t with fltinst := v &&& 0xFFFFFFFF }
  | 0x01D => mod fun t => { t with deleg := v &&& delegMask }
  | 0x01E => mod fun t => { t with utrapvec := v }
  | 0x020 => mod fun t => { t with cpysrc := v &&& 0xFFFFFFFFFFFFF }
  | 0x021 => mod fun t => { t with cpydst := v &&& 0xFFFFFFFFFFFFF }
  | 0x022 => mod fun t => { t with cpylen := v &&& 0xFFFFFFFF }
  | 0x023 => mod fun t => { t with cpystr := v }
  | 0x024 => mod fun t => { t with cpyrows := v &&& 0xFFFFFFFF }
  | 0x025 => mod fun t => { t with cpyflg := v &&& 0xFFFF0003 }
  | 0x030 => mod fun t => { t with pwarn := v &&& 0xFFFFFFFF0000FF07 }
  | 0x100 => s.modCore t.core fun c => { c with ctrapvec := v }
  | 0x111 => s.modFront fun f => { f with ckptdesc := v }
  | 0x113 => s.modCore t.core fun c => { c with trcbase := v }
  | 0x115 => s.writeDbgcmd t.core v
  | _ => s

/-- The step of the unit that performs the write of a register with a row of its own; none for a register that MTSR writes. -/
def sysEvent (uid n : Nat) (v : Word) : Option Instr :=
  match n with
  | 0x002 => some (.classWrite uid v)
  | 0x003 => some (.modeWrite uid v)
  | 0x01C => some (.trapvecWrite uid v)
  | 0x01F => some (.tstatWrite uid v)
  | 0x060 => some (.heapdescWrite uid v)
  | 0x110 => some (.fwctlWrite uid v)
  | 0x112 => some (.pwrlimWrite uid v)
  | 0x114 => some (.trcctlWrite uid v)
  | _ =>
    if 0x040 ≤ n ∧ n ≤ 0x047 then some (.pmcWrite uid (n - 0x040) v)
    else if 0x048 ≤ n ∧ n ≤ 0x04F then some (.pmselWrite uid (n - 0x048) v)
    else if 0x090 ≤ n ∧ n ≤ 0x0A7 then some (.dbgcWrite uid (n - 0x090) v)
    else none

/-- The registers of scope core with a row of their own: MODE, PMCn, PMSELn, the comparators, FWCTL and TRCCTL (R332). Their writes are
performed in issue order, one per cycle (R331). -/
def sysCoreScope (n : Nat) : Bool :=
  n == 0x003 || (decide (0x040 ≤ n) && decide (n ≤ 0x04F)) || (decide (0x090 ≤ n) && decide (n ≤ 0x0A7)) || n == 0x110 || n == 0x114

/-- MTSR (R329-R331): a register with a row of its own is written by the unit that holds it, and the thread waits for that. -/
def execMtsr (d a : BitVec 6) (e : BitVec 1) (n : BitVec 13) (s : State) : Host.Outcome State Fault Refusal :=
  s.issue (.mtsr d a e n) (fun t c =>
    sysForm { Form.plain with d := opD .src d, rsvd := nz a || nz e } n.toNat true (s.curatorCore t.core) t c) fun c _ =>
    match sysEvent c.uid n.toNat c.d with
    | some ev =>
      -- a write of a register of scope core follows every event of its cycle, and comes before the next cycle's steps (R320, R331)
      let s := c.await c.popped .sysWrite
      s.post (s.now + bitNat (sysCoreScope n.toNat)) ev
    | none => c.done (c.popped.sysPut c.t n.toNat c.d)

/-! ### The writes that units perform -/

/-- MODE_WRITE (R31, R32). -/
def execModeWrite (uid : Nat) (v : Word) (s : State) : Host.Outcome State Fault Refusal :=
  .next (s.sysWrite uid fun t s => s.modCore t.core fun c => { c with prove := v.toNat.testBit 0 })

/-- TRAPVEC_WRITE (R248). -/
def execTrapvecWrite (uid : Nat) (v : Word) (s : State) : Host.Outcome State Fault Refusal :=
  .next (s.sysWrite uid fun t s => s.modTenant t.sysTenant fun x => { x with trapvec := v })

/-- HEAPDESC_WRITE (R97): a changed heap starts empty, and what lives in the old one stays live there. -/
def execHeapdescWrite (uid : Nat) (v : Word) (s : State) : Host.Outcome State Fault Refusal :=
  let v := v &&& 0x000FFFFFC0000FFF
  .next (s.sysWrite uid fun t s => s.modTenant t.sysTenant fun x =>
    if x.heapdesc = v then x else { x with heapdesc := v, live := [], oldLive := x.oldLive ++ x.live, headHit := false })

/-- TSTAT_WRITE (R249). -/
def execTstatWrite (uid : Nat) (v : Word) (s : State) : Host.Outcome State Fault Refusal :=
  .next (s.sysWrite uid fun _ s => s.modThread uid fun t => t.setTstat v)

/-- The comparator control register after a write: HIT is cleared by writing 0, but for a hit in the cycle of the MTSR, which applies after
the write (R331); and a runtime write stores its tenant (R313). -/
def dbgcAfter (old v : Word) (t : Thread) (hitNow : Bool) : Word :=
  let hit := old.toNat.testBit 16 && (v.toNat.testBit 16 || hitNow)
  let ten := if t.level = .runtime then t.tenant else fieldOf v 8 8
  w64 (fieldOf v 0 8 + ten * 2 ^ 8 + bitNat hit * 2 ^ 16)

/-- DBGC_WRITE: register `n` of the comparators, DBGC0-7, DBGA0-7 and DBGB0-7 in order (R313). -/
def execDbgcWrite (uid n : Nat) (v : Word) (s : State) : Host.Outcome State Fault Refusal :=
  .next (s.sysWrite uid fun t s => s.modCore t.core fun c =>
    let i := n % 8
    let old := (c.dbgc[i]?).getD 0
    let hitNow := (lookup? c.hitAt i).map (· + 1) == some s.now
    if n < 8 then { c with dbgc := c.dbgc.setIfInBounds i (dbgcAfter old v t hitNow) }
    else
      let c := if t.level = .runtime then { c with dbgc := c.dbgc.setIfInBounds i (setField old 8 8 t.tenant) } else c
      if n < 16 then { c with dbga := c.dbga.setIfInBounds i v } else { c with dbgb := c.dbgb.setIfInBounds i v })

/-- PMSEL_WRITE (R319). -/
def execPmselWrite (uid n : Nat) (v : Word) (s : State) : Host.Outcome State Fault Refusal :=
  .next (s.sysWrite uid fun t s => s.modCore t.core fun c =>
    let v := v &&& 0x0107FFFF
    { c with pmsel := c.pmsel.setIfInBounds n (if t.level = .curator then v else setField v 8 8 t.tenant) })

/-- PMC_WRITE (R319, R320): it replaces both fields, and an overflow in the cycle before, that of its MTSR, sets OVF. -/
def execPmcWrite (uid n : Nat) (v : Word) (s : State) : Host.Outcome State Fault Refusal :=
  .next (s.sysWrite uid fun t s => s.modCore t.core fun c =>
    let at_ := (c.pmc[n]?).bind (·.wrappedAt)
    let ovf := v.toNat.testBit 63 || at_.map (· + 1) == some s.now
    { c with pmc := c.pmc.setIfInBounds n { count := v.setWidth 48, ovf := ovf, wrappedAt := at_ } })

/-- Posts the next sample of a core: the next cycle, from `from_` on, whose timestamp on the core is a multiple of its period (R317,
R318). -/
def State.postSample (s : State) (c from_ : Nat) : State :=
  match (s.core c).samplePeriod with
  | none => s
  | some p =>
    let skew := (Config.timeSkew (dieOf c)).val
    if s.posted (.traceSample c) then s else s.post (ceilDiv (from_ + skew) p * p - skew) (.traceSample c)

/-- TRCCTL_WRITE: the ring starts anew (R317). -/
def execTrcctlWrite (uid : Nat) (v : Word) (s : State) : Host.Outcome State Fault Refusal :=
  .next (s.sysWrite uid fun t s =>
    ({ s with pending := s.pending.filter fun p => !(p.ev == Instr.traceSample t.core) }.modCore t.core fun c =>
      { c with trcctl := v &&& 0x1FFF1F, trcCount := 0 }).postSample t.core (s.now + 1))

/-- TRACE_SAMPLE (R318): the thread that has issued in this cycle, or none. -/
def execTraceSample (core : Nat) (s : State) : Host.Outcome State Fault Refusal :=
  .next (match (s.core core).samplePeriod with
    | none => s
    | some p =>
      if (s.time core).toNat % p ≠ 0 then s
      else
        let s := match (s.core core).issued with
          | some x => s.traceRaw core 0 x.head x.pc (w64 x.word.toNat)
          | none => s.trace core 0 none 0 0
        s.postSample core (s.now + 1))

/-- FWCTL_WRITE (R277): the write replaces the drop count, and the drops of the cycle of its MTSR count after it (R331). -/
def execFwctlWrite (uid : Nat) (v : Word) (s : State) : Host.Outcome State Fault Refusal :=
  .next (s.sysWrite uid fun t s => s.modCore t.core fun c =>
    { c with fwEnable := v.toNat.testBit 0,
             fwDrops := BitVec.ofNat 48 (fieldOf v 16 48 + if c.fwDropped.1 + 1 = s.now then c.fwDropped.2 else 0) })

/-- The limit in watts that the power controller holds: a larger value acts as 3600 (R307). -/
def Front.powerLimit (f : Front) : Nat := min f.pwrlim.toNat 3600

/-- PWRLIM_WRITE (R307): the register takes the value; `Front.powerLimit` is what it acts as. -/
def execPwrlimWrite (uid : Nat) (v : Word) (s : State) : Host.Outcome State Fault Refusal :=
  .next (s.sysWrite uid fun _ s => s.modFront fun f => { f with pwrlim := v })

end Sys2Proof.Machine
end

