-- ==== Sys2Proof/Machine/Bar.lean ====
section
/-! DEFINITION. BAR0: the mailbox registers and the payload, the feature words, the MSI-X table; the host's reads of BAR2; the DOE mailbox
(R20, R276, R278, R286, R292-R294, R296). Where the manual refers to CXL 3.1 or leaves a layout open, see log entry 74. -/

namespace Sys2Proof.Machine

/-! ### The mailbox (R278, R296) -/

/-- Where the payload lies in BAR0, and its bytes (R296). -/
def payloadBase : Nat := 0x1020
def payloadBytes : Nat := 0x100000

/-- A word of the payload. -/
def Front.payloadWord (f : Front) (off : Nat) : Word := BitVec.ofNat 64 (ofBytes (Memory.readBytes f.payload off 8))

/-- Writes an `n`-byte number into the payload. -/
def Front.putPayload (f : Front) (off n x : Nat) : Front := { f with payload := Memory.writeBytes f.payload off (toBytes n x) }

/-- The status register: the return code of the last request, and the checks that have failed (R276). -/
def Front.mailStatus (f : Front) : Word :=
  f.mboxStatus ||| w64 (bitNat (!f.imageGood) * 2 ^ 48) ||| w64 (bitNat (f.imageGood && !f.tableGood) * 2 ^ 49)

/-- The answer to a request: its code and its output, which the mailbox shows (R278). -/
def State.reply (s : State) (opcode code : Nat) (out : List Word) : State :=
  s.modFront fun f =>
    let f := { f with replies := { opcode := opcode, code := code, out := out } :: f.replies, mboxStatus := w64 (code * 2 ^ 32),
                      mboxControl := f.mboxControl &&& 0xFFFFFFFE#32,
                      mboxCommand := setField (setField f.mboxCommand 0 16 opcode) 16 21 (8 + 8 * out.length) }
    ((List.range out.length).foldl (fun f i => f.putPayload (8 + 8 * i) 8 (out.getD i 0).toNat) (f.putPayload 0 8 (opcode + 1 * 2 ^ 16)))

/-- The input of a request: the bytes after the payload header. -/
def Front.inputBytes (f : Front) : List Byte := Memory.readBytes f.payload 8 (fieldOf f.mboxCommand 16 21 - 8)

/-- A write of the control register: its doorbell bit hands the request in the payload to the curator. -/
def State.writeMailControl (s : State) (v : BitVec 32) : State :=
  if s.front.mboxControl.getLsbD 0 then s else s.modFront fun f => { f with mboxControl := v &&& 7#32 }

/-! ### MSI-X (R296) -/

/-- Word `k` of the MSI-X table; a vector is masked until the host clears its mask bit. -/
def Front.msixWord (f : Front) (k : Nat) : Word := lookupD f.msixTable k (if k % 2 = 1 then w64 (2 ^ 32) else 0)

/-- Writes half of word `k` of the MSI-X table: an unmasked vector is pending no longer, since its message has been sent. -/
def State.writeMsix (s : State) (k half : Nat) (v : Nat) : State :=
  s.modFront fun f =>
    let w := setField (f.msixWord k) (32 * half) 32 v
    let w := if k % 2 = 1 then w &&& 0x1FFFFFFFF else w &&& 0xFFFFFFFFFFFFFFFC
    { f with msixTable := insert f.msixTable k w,
             msixPending := if k % 2 = 1 ∧ w.toNat.testBit 32 = false then f.msixPending.filter fun e => !(e == k / 2) else f.msixPending }

/-! ### Accesses of the host (R286, R296) -/

/-- The aligned 32 bits of BAR0 at `off`, outside the CXL register block. -/
def State.bar0Half (s : State) (off : Nat) : Nat :=
  let f := s.front
  let half (w : Word) : Nat := fieldOf w (off % 8 * 8) 32
  if off = 0x1000 then 20
  else if off = 0x1004 then f.mboxControl.toNat
  else if 0x1008 ≤ off ∧ off < 0x1010 then half f.mboxCommand
  else if 0x1010 ≤ off ∧ off < 0x1018 then half f.mailStatus
  else if 0x1018 ≤ off ∧ off < 0x1020 then half f.mboxBackground
  else if 0x180000 ≤ off ∧ off < 0x1800C0 then half (s.feature ((off - 0x180000) / 8))
  else if 0x1C0000 ≤ off ∧ off < 0x1C8000 then half (f.msixWord ((off - 0x1C0000) / 8))
  else if 0x1C8000 ≤ off ∧ off < 0x1C8100 then
    (List.range 32).foldl (fun x b => x + bitNat (f.msixPending.contains ((off - 0x1C8000) * 8 + b)) * 2 ^ b) 0
  else 0

/-- Writes the aligned 32 bits of BAR0 at `off`; read-only and reserved places ignore it. -/
def State.putBar0Half (s : State) (off v : Nat) : State :=
  if off = 0x1004 then s.writeMailControl (BitVec.ofNat 32 v)
  else if 0x1008 ≤ off ∧ off < 0x1010 then s.modFront fun f => { f with mboxCommand := setField f.mboxCommand (off % 8 * 8) 32 v &&& 0x1FFFFFFFFF }
  else if 0x1C0000 ≤ off ∧ off < 0x1C8000 then s.writeMsix ((off - 0x1C0000) / 8) (off % 8 / 4) v
  else s

/-- The access lies in the mailbox payload. -/
def inPayload (off n : Nat) : Bool := decide (payloadBase ≤ off) && decide (off + n ≤ payloadBase + payloadBytes)

/-- An access of `n` bytes is aligned, and of a width that its place takes. -/
def bar0Takes (off n : Nat) : Bool :=
  decide (off % n = 0) && (n == 4 || n == 8 || (inPayload off n && (n == 1 || n == 2)))

/-- The host reads BAR0: what it gets is in `Front.hostData`, none for an access that BAR0 does not take. The CXL register block returns
free values. -/
def State.readBar0 (s : State) (off n : Nat) : State :=
  if !bar0Takes off n then s.modFront fun f => { f with hostData := none }
  else if off < 0x1000 then let (v, s) := s.free; s.modFront fun f => { f with hostData := some (w64 (v.toNat % 2 ^ (8 * n))) }
  else
    let v := if inPayload off n then ofBytes (Memory.readBytes s.front.payload (off - payloadBase) n)
             else if n = 8 then s.bar0Half off + s.bar0Half (off + 4) * 2 ^ 32 else s.bar0Half off
    s.modFront fun f => { f with hostData := some (w64 v) }

/-- The host writes BAR0. -/
def State.writeBar0 (s : State) (off n : Nat) (v : Word) : State :=
  if !bar0Takes off n then s
  else if inPayload off n then s.modFront fun f => f.putPayload (off - payloadBase) n (v.toNat % 2 ^ (8 * n))
  else if n = 8 then (s.putBar0Half off (fieldOf v 0 32)).putBar0Half (off + 4) (fieldOf v 32 32)
  else s.putBar0Half off (fieldOf v 0 32)

/-- The host reads BAR2: 64 bits of a wake register (R286). -/
def State.readBar2 (s : State) (off : Nat) : State :=
  s.modFront fun f => { f with hostData := if off % 8 = 0 ∧ off < 0x40000 then some (s.wakeRead (off / 64) (off % 64)) else none }

/-- A request to the DOE mailbox and the answer of the SPDM responder (R20, R278, R294). -/
def State.doeRequest (s : State) (request : List Word) : State :=
  s.modFront fun f => { f with doe := (request, Config.spdmAnswer request f.doe.length) :: f.doe }

end Sys2Proof.Machine
end

