-- ==== Sys2Proof/Machine/Host.lean ====
section
/-! DEFINITION. The management mailbox, the host's and the peers' accesses, links and
scrubbing (R96, R114, R272-R279, R286-R304, R308). -/

namespace Sys2Proof.Machine

/-! ### The management mailbox (R278) -/

/-- A request of the mailbox: a protocol version that FEAT3 does not name is refused (R293). -/
def State.request (s : State) (opcode ver : Nat) (run : State → State) : Host.Outcome State Fault Refusal :=
  .next (if ver = 1 then run s else s.reply opcode 5 [])

/-- The answer of a request with an invalid field. -/
def State.replyBad (s : State) (opcode offset : Nat) : State := s.reply opcode 1 [w64 offset]

/-- GET_FEATURES (R292). -/
def execGetFeatures (ver : Nat) (s : State) : Host.Outcome State Fault Refusal :=
  s.request 0xC000 ver fun s => s.reply 0xC000 0 ((List.range 24).map s.feature)

/-! ### Images (R275, R276) -/

/-- The little-endian number in the `n` bytes at an offset of an image. -/
def imageField (image : List Byte) (off n : Nat) : Nat := ofBytes ((image.drop off).take n)

/-- A row is reduced by the rows of a basis over GF(2). -/
def reduceRow (basis : List Nat) (x : Nat) : Nat := basis.foldl (fun x b => Nat.min x (x ^^^ b)) x

/-- How many of the rows are independent over GF(2). -/
def rankOf (rows : List Nat) : Nat :=
  (rows.foldl (fun (basis : List Nat) r => if reduceRow basis r = 0 then basis else basis ++ [reduceRow basis r]) []).length

/-- A class matrix is a bijection: of its 64 rows (R275), and of what it selects of a group's addresses, so that no two share a cell (R91). -/
def bijective (m : List Word) (cls : Nat) : Bool :=
  let lo := hashLow cls 0
  decide (rankOf (m.map (·.toNat)) = 64) &&
    decide (rankOf ((List.range (classWidth cls - lo)).map fun i => hashRow m cls (lo + i)) = classWidth cls - lo)

/-- The columns that a configuration table names. -/
def tableColumns (image : List Byte) : List (Nat × Nat) :=
  ((image.drop 0x010).take 8).filterMap fun b =>
    if b.toNat.testBit 7 then some (bits b.toNat 4 3, bits b.toNat 0 3) else none

/-- The hash matrix of a class. -/
def tableMatrix (image : List Byte) (cls : Nat) : List Word :=
  (List.range 64).map fun i => w64 (imageField image (0x070 + 512 * cls + 8 * i) 8)

/-- The offset of the first bad field of a configuration table, none for a good one (R275). -/
def tableBad (image : List Byte) (minor : Nat) : Option Nat :=
  let len := imageField image 8 4
  let cols := tableColumns image
  if imageField image 0 4 ≠ 0x57435446 then some 0
  else if imageField image 4 4 ≠ 1 then some 4
  else if len % 8 ≠ 0 ∨ 65536 < len ∨ image.length ≠ len + 512 ∨ len < 0x870 then some 8
  else if minor < imageField image 12 4 then some 12
  else if cols.isEmpty ∨ cols.eraseDups.length ≠ cols.length then some 0x010
  else if ((image.drop 0x018).take (8 * cols.length)).any fun b => decide (3 < b.toNat) then some 0x018
  else match (List.range 4).find? fun c => !bijective (tableMatrix image c) c with
  | some c => some (0x070 + 512 * c)
  | none => if Config.signatureValid image then none else some len

/-- What a configuration table fixes until reset (R275). -/
def Front.configure (f : Front) (image : List Byte) : Front :=
  { f with columns := tableColumns image, roles := (image.drop 0x018).take 64,
           classes := (List.range 96).map fun j => BitVec.ofNat 2 (bits (imageField image 0x058 24) (2 * j) 2),
           matrices := (List.range 4).map (tableMatrix image), minorMin := imageField image 12 4 }

/-- The firmware verifies the table that the flash holds (R276): one that was loaded, or the table as shipped. -/
def Front.verifyTable (f : Front) : Front :=
  match f.flashTable with
  | none => { f with tableGood := f.imageGood && Config.shippedGood 1 }
  | some t => if f.imageGood && (tableBad t f.minor.toNat).isNone then { f.configure t with tableGood := true } else { f with tableGood := false }

/-- The checks at reset (R276): the boot ROM verifies the firmware image, and the firmware the table. -/
def Front.verify (f : Front) : Front :=
  ({ f with imageGood := match f.flashImage with | none => Config.shippedGood 0 | some i => Config.signatureValid i,
            minor := match f.flashImage with | none => 0 | some i => Config.imageMinor i }).verifyTable

/-- LOAD_FIRMWARE: accepted while a check has failed (R276); the firmware that verifies then verifies the table, unless that is good. -/
def execLoadFirmware (ver : Nat) (image : List Byte) (s : State) : Host.Outcome State Fault Refusal :=
  s.request 0xC001 ver fun s =>
    if s.front.imageGood && s.front.tableGood then s.reply 0xC001 3 []
    else if Config.signatureValid image then
      (s.modFront fun f =>
        let f := { f with imageGood := true, flashImage := some image, minor := Config.imageMinor image }
        if f.tableGood then { f with tableGood := decide (f.minorMin ≤ f.minor.toNat) } else f.verifyTable).reply 0xC001 0 []
    else s.replyBad 0xC001 0

/-- LOAD_CONFIG: accepted while a check has failed (R276). -/
def execLoadConfig (ver : Nat) (image : List Byte) (s : State) : Host.Outcome State Fault Refusal :=
  s.request 0xC002 ver fun s =>
    if s.front.imageGood && s.front.tableGood then s.reply 0xC002 3 []
    else match tableBad image s.front.minor.toNat with
    | some off => s.replyBad 0xC002 off
    | none => (s.modFront fun f => { f.configure image with tableGood := true, flashTable := some image }).reply 0xC002 0 []

/-! ### Tenants (R272, R274) -/

/-- Two ranges of numbers meet. -/
def rangesMeet (a n b m : Nat) : Bool := decide (0 < n) && decide (0 < m) && decide (a < b + m) && decide (b < a + n)

/-- Two tenants have a core in common. -/
def Tenant.sharesCore (t u : Tenant) : Bool := ((t.desc.drop 8).take 20).zip ((u.desc.drop 8).take 20) |>.any fun e => e.1 &&& e.2 != 0

/-- The byte offset of the first bad field of a tenant descriptor, none for a good one (R272). -/
def State.tenantBad (s : State) (t : Tenant) : Option Nat :=
  let others := (s.tenants.filter fun e => e.1 != 0).map (·.2)
  let meets (f : Tenant → Bool) : Bool := others.any fun u => t.sharesCore u && f u
  if 0x00C000000000 ≤ t.root then some 1
  else if t.weight = 0 then some 8
  else if 252 < t.noonLimit then some 9
  else if 4096 < t.waitQuota then some 10
  else if Config.devicePages < (others.map (·.folioQuota)).foldl (· + ·) t.folioQuota then some 16
  else if 4096 < t.gangQuota then some 20
  else if 0x100000 < t.spadHi ∨ meets (fun u => rangesMeet t.spadLo (t.spadHi - t.spadLo) u.spadLo (u.spadHi - u.spadLo)) then some 25
  else if 64 < t.streamBase + t.streamCount ∨ meets (fun u => rangesMeet t.streamBase t.streamCount u.streamBase u.streamCount) then some 27
  else if t.overflowBase % 65536 ≠ 0 then some 40
  else if t.faultBase % 32 ≠ 0 then some 48
  else if t.faultLog < 4 ∨ 16 < t.faultLog then some 56
  else if t.vectors ≤ t.faultVector then some 57
  else if t.vectors = 0 ∨ 8 < t.field 7 16 4 then some 58
  else if (List.range Config.cores).any fun c => t.hasCore c && s.curatorCore c then some 64
  else if t.keyCount ≠ 0 ∧ (t.keyBase = 0 ∨ 4096 < t.keyBase + t.keyCount ∨
      others.any (fun u => rangesMeet t.keyBase t.keyCount u.keyBase u.keyCount) = true) then some 224
  else none

/-- The curator readies its fault queue: P = 0 on word 0 of each of the 4096 slots (R291). -/
def State.readyRing (s : State) : State :=
  let lo := curatorRing
  let slot (k : Nat) : Nat × Tag := (lo + 32 * k, { Tag.scrubbed with p := false })
  { s with tags := (s.tags.filter fun e => decide (e.1 < lo)) ++ (List.range 4096).map slot ++ s.tags.filter fun e => decide (lo + 0x20000 ≤ e.1) }

/-- The curator's boot to step 6 of R309, once: its fault queue (R291), service mode on the cores that tenants may have, and the firewall of the
curator cores (R277). From here on the mailbox accepts CREATE_TENANT. -/
def State.enterService (s : State) : State :=
  let s := s.readyRing.modFront fun f => { f with booted := true }
  (List.range Config.cores).foldl (fun s c =>
    if s.curatorCore c then s.modCore c fun co => { co with fwEnable := true } else s.modCore c fun co => { co with prove := false }) s

/-- Step 6 of the reset sequence can be taken: both verifications have passed, and it has not been taken (R276, R309). -/
def State.mayBoot (s : State) : Bool := s.front.imageGood && s.front.tableGood && !s.front.booted

/-- CREATE_TENANT (R272, R276): the mailbox accepts it once step 6 of the reset sequence is done (R309). -/
def execCreateTenant (ver : Nat) (desc : List Word) (s : State) : Host.Outcome State Fault Refusal :=
  s.request 0xC003 ver fun s =>
    let t := Tenant.ofDesc ((desc ++ List.replicate 32 0).take 32)
    if !s.front.imageGood || !s.front.tableGood then s.reply 0xC003 3 []
    else match s.tenantBad t with
    | some off => s.replyBad 0xC003 off
    | none =>
      match (List.range 255).find? fun i => (s.tenant? (i + 1)).isNone with
      | none => s.reply 0xC003 2 []
      | some i =>
        let s := if s.mayBoot then s.enterService else s
        (s.setTenant (i + 1) t).reply 0xC003 0 [w64 (i + 1)]

/-- Ends what the units hold of a tenant: its folios, queues, watch entries, gathers, updates and records (R274). A row operation is claimed from the
moment the list holds it and runs to completion (R430). -/
def State.dropTenant (s : State) (id : Nat) : State :=
  let s := (s.folios.filter fun e => e.2.tenant == id).foldl (fun s e => s.revokeFolio e.1) s
  let us := (s.threads.filter fun t => t.tenant == id).map (·.uid)
  let s := s.removeThreads us
  { s with queues := s.queues.filter fun e => !(e.2.tenant == id), watch := s.watch.filter fun e => !(e.tenant == id),
           gathers := s.gathers.filter fun g => !(g.tenant == id), sends := s.sends.filter fun x => !(x.tenant == id),
           records := s.records.filter fun r => !(r.tenant == id), channels := s.channels.filter fun c => !(us.contains c.dst),
           hotRows := s.hotRows.filter fun h => !(h.tenant == id),
           accesses := s.accesses.filter fun a => !(match a.kind with | .queueWait q _ => ((s.queue? q).map (·.tenant)) == some id | _ => false),
           roundOuts := s.roundOuts.filter fun r => !(us.contains r.uid),
           images := s.images.map fun i : SaveImage => { i with threads := i.threads.filter fun t => !(t.tenant == id) },
           tenants := erase s.tenants id }

/-- DESTROY_TENANT (R274): a curfew on every core of the tenant's set, with OUT = 0 and folio policy 2, takes effect at once. -/
def execDestroyTenant (ver : Nat) (tenant : Word) (s : State) : Host.Outcome State Fault Refusal :=
  s.request 0xC004 ver fun s =>
    let id := tenant.toNat
    if id = 0 ∨ (s.tenant? id).isNone then s.replyBad 0xC004 0
    else
      let cores := partitionOf (((s.tenant id).desc.drop 8).take 20)
      let x : Curfew := { id := s.nextId, t := s.now, cores := cores, out := 0, inn := 0, policy := 2, stby := false, statusPa := none,
                          phase := .armed, withdrawn := [], bad := false }
      if s.curfews.any fun y => y.cores.any fun c => x.cores.contains c then s.reply 0xC004 4 []
      else
        let s := { s with nextId := s.nextId + 1, curfews := s.curfews ++ [x] }.stopPartition x
        let s := (s.emptyPartition cores ((s.caught x).map (·.uid))).dropTenant id
        (s.endSwitch x 0).reply 0xC004 0 []

/-! ### Queues (R279) -/

/-- For whom the curator translates an address of a request: the named tenant, ignoring H (R278, R295). -/
def requestViewer (tenant : Nat) : Viewer := { tenant := tenant, curator := false, core := none, ignoreH := true }

/-- The sixteen words of a queue descriptor and their physical addresses; none when one is unreadable (R278). -/
def State.queueWords (s : State) (tenant va : Nat) : Option (List (Nat × Word)) :=
  if va % 8 ≠ 0 then none
  else
    let ws := (List.range 16).filterMap fun j =>
      match s.resolve (requestViewer tenant) (va + 8 * j) 8 .read with
      | .ok pa => (s.engineRead pa).map fun w => (pa, w)
      | _ => none
    if ws.length = 16 then some ws else none

/-- The byte offset of the first bad field of a queue descriptor, none for a good one (R279). -/
def queueBad (t : Tenant) (ws : List Word) : Option Nat :=
  let f (w lo len : Nat) : Nat := fieldOf (ws.getD w 0) lo len
  let hnd := f 1 7 1 = 1
  if f 0 0 52 % 64 ≠ 0 then some 0
  else if f 1 0 5 < 4 ∨ 16 < f 1 0 5 then some 8
  else if hnd ∧ f 8 0 52 = 0 then some 8
  else if f 1 8 8 ≠ 1 then some 9
  else if f 1 16 8 ≠ 1 then some 10
  else if t.vectors ≤ f 7 0 3 then some 56
  else if hnd ∧ f 8 0 2 ≠ 0 then some 64
  else if hnd ∧ t.hasCore (f 10 0 11) = false then some 80
  else if hnd ∧ 64 < f 10 16 7 then some 82
  else if hnd ∧ f 11 0 20 % 4096 ≠ 0 then some 88
  else if hnd ∧ f 11 20 21 % 4096 ≠ 0 then some 90
  else none

/-- CREATE_QUEUE (R279). -/
def execCreateQueue (ver : Nat) (tenant va : Word) (s : State) : Host.Outcome State Fault Refusal :=
  s.request 0xC005 ver fun s =>
    let id := tenant.toNat
    if id = 0 ∨ (s.tenant? id).isNone then s.replyBad 0xC005 0
    else
      let s := s.checkWords (requestViewer id) va.toNat 16
      match s.queueWords id va.toNat with
    | none => s.replyBad 0xC005 8
    | some ws =>
      match queueBad (s.tenant id) (ws.map (·.2)) with
      | some off => s.replyBad 0xC005 off
      | none =>
        match lowest 4096 fun q => (s.queue? q).isNone with
        | none => s.reply 0xC005 2 []
        | some q =>
          let s := (((ws.drop 2).take 5).map (·.1)).foldl (fun s pa => s.storePlain id pa 0) s
          let x : Queue :=
            { tenant := id, descVa := va.toNat, words := ws.map (·.2), wake := 0, prog := Vector.replicate 4 0,
              cons := Vector.replicate 4 Consumer.start, out := false, due := false, late := false }
          (s.setQueue q x).switchQueues.reply 0xC005 0 [w64 q]

/-- DESTROY_QUEUE: the queue, its waits, and the contexts held for its handler. -/
def execDestroyQueue (ver : Nat) (queue : Word) (s : State) : Host.Outcome State Fault Refusal :=
  s.request 0xC006 ver fun s =>
    let q := queue.toNat
    match s.queue? q with
    | none => s.replyBad 0xC006 0
    | some x =>
      let s := { s with queues := erase s.queues q,
                        accesses := s.accesses.filter fun a => !(match a.kind with | .queueWait n _ => n == q | _ => false) }
      let s := if x.hnd then s.modCore x.hcore fun c => { c with held := c.held.filter fun e => !(e.2 == q) } else s
      s.reply 0xC006 0 []

/-! ### Ownership of pages (R96, R114) -/

/-- The leaves of a table and of the tables below it: the entry's address, the physical base and the bytes of its page. -/
def State.leavesOf (s : State) : List (Nat × Nat × Bool) → Nat → List (Nat × Nat × Nat)
  | [], _ => []
  | (lo, len, page) :: rest, table =>
    (List.range (2 ^ len)).flatMap fun i =>
      let a := table + 8 * i
      let e := s.word a
      if s.unreadable a || !e.toNat.testBit 0 then []
      else if rest.isEmpty || e.toNat.testBit 1 then (if page then [(a, fieldOf e 12 36 * 4096, 2 ^ lo)] else [])
      else s.leavesOf rest (fieldOf e 12 36 * 4096)

/-- The leaves of every tenant. -/
def State.allLeaves (s : State) : List (Nat × Nat × Nat) :=
  (s.tenants.filter fun e => e.2.root != 0).flatMap fun e => s.leavesOf walkLevels e.2.root

/-- The physical ranges of `n` pages of a tenant from a virtual address on; none when one has no valid translation or no read
permission. -/
def State.namedPages (s : State) (tenant : Nat) : (n va : Nat) → Option (List (Nat × Nat))
  | 0, _ => some []
  | n + 1, va =>
    match s.walkFrom va walkLevels (s.tenant tenant).root, s.resolve (requestViewer tenant) va 1 .read with
    | .ok (leaf, size), .ok _ =>
      (s.namedPages tenant n ((va / 2 ^ size + 1) * 2 ^ size)).map fun r => (fieldOf leaf 12 36 * 4096, 2 ^ size) :: r
    | _, _ => none

/-- A physical range meets one of a list. -/
def meetsAny (rs : List (Nat × Nat)) (base len : Nat) : Bool := rs.any fun r => rangesMeet r.1 r.2 base len

/-- The ranges with every page that meets one of them: a page changes hands as a whole. -/
def closePages (leaves : List (Nat × Nat × Nat)) : (fuel : Nat) → List (Nat × Nat) → List (Nat × Nat)
  | 0, rs => rs
  | fuel + 1, rs =>
    match (leaves.filter fun e => meetsAny rs e.2.1 e.2.2 && !rs.contains e.2).map (·.2) with
    | [] => rs
    | more => closePages leaves fuel (rs ++ more.eraseDups)

/-- A device access to the ranges is not yet performed (R114). -/
def State.pagesBusy (s : State) (rs : List (Nat × Nat)) : Bool :=
  let on (ps : List (Nat × Nat × Nat)) : Bool := ps.any fun p => meetsAny rs p.2.1 p.2.2
  s.accesses.any (fun a => meetsAny rs a.pa 16 && (match a.phase with | .sent | .waiting _ _ => true | _ => false)) ||
    s.cores.any (fun e => e.2.transfers.any fun x => on x.pages) || s.gathers.any (fun g => on g.pages) ||
    s.rowOps.any (fun r => meetsAny rs r.dst 8192 || (match r.src with | some a => meetsAny rs a 8192 | none => false)) ||
    s.folios.any fun e => e.2.state == .loading && on e.2.runs

/-- A held thread replays when its page-migration fault was for one of the ranges (R114). -/
def State.replayMigrated (s : State) (rs : List (Nat × Nat)) (t : Thread) : State :=
  match t.latch with
  | none => s
  | some l =>
    let hit := match s.walkFrom l.val.toNat walkLevels (s.tenant t.tenant).root with
      | .ok (leaf, size) => meetsAny rs (fieldOf leaf 12 36 * 4096) (2 ^ size)
      | .error _ => false
    if t.status = .heldFault ∧ l.cause = 0x0B ∧ l.walk = false ∧ hit = true then
      (s.heldWith t l).foldl (fun s u => s.modThread u fun t => { t.wake with replay := true }) s
    else s

/-- The table entries of the mappings of the ranges may be written, with the messages of the watch events that this raises (R76, R83). -/
def State.mayMigrate (s : State) (leaves : List (Nat × Nat × Nat)) (rs : List (Nat × Nat)) : Bool :=
  s.mayWrite ((leaves.filter fun e => meetsAny rs e.2.1 e.2.2).map (·.1))

/-- Moves the ranges to the host or to the device: the map, H of every mapping, with the watch events of these writes (R82), the translation
buffers, the held threads. -/
def State.migrate (s : State) (leaves : List (Nat × Nat × Nat)) (rs : List (Nat × Nat)) (toHost : Bool) : State :=
  let pages := (rs.filter fun r => decide (r.1 < 0x00C000000000)).flatMap fun r => (List.range (ceilDiv r.2 65536)).map fun i => r.1 / 65536 + i
  let s := s.modFront fun f =>
    { f with owned := if toHost then f.owned ++ (pages.eraseDups.filter fun p => !f.owned.contains p) else f.owned.filter fun p => !pages.contains p }
  let ptes := (leaves.filter fun e => meetsAny rs e.2.1 e.2.2).map (·.1)
  let s := ptes.foldl (fun s a => s.storeWord a (setField (s.word a) 5 1 (bitNat toHost))) s
  let s := { s with raised := s.raised ++ ptes.map fun a => (a, 0) }
  let s : State := { s with cores := s.cores.map fun e =>
    (e.1, { e.2 with tlb := e.2.tlb.filter fun x => !(meetsAny rs (fieldOf x.leaf 12 36 * 4096) (2 ^ x.size)) }) }
  if toHost then s else s.threads.foldl (fun s t => s.replayMigrated rs t) s

/-- SET_OWNER (R96, R114, R278). It waits while the table entries cannot be written. -/
def execSetOwner (ver : Nat) (tenant va count owner : Word) (s : State) : Host.Outcome State Fault Refusal :=
  s.request 0xC007 ver fun s =>
    let id := tenant.toNat
    if id = 0 ∨ (s.tenant? id).isNone then s.replyBad 0xC007 0
    else if 1 < owner.toNat then s.replyBad 0xC007 24
    else match s.namedPages id count.toNat va.toNat with
    | none => s.replyBad 0xC007 8
    | some rs =>
      let leaves := s.allLeaves
      let rs := closePages leaves (leaves.length + 1) rs.eraseDups
      if s.pagesBusy rs then s.reply 0xC007 4 []
      else if !s.mayMigrate leaves rs then s
      else (s.migrate leaves rs (owner == 1)).reply 0xC007 0 []

/-! ### Stores of the host to wake registers (R286, R287) -/

/-- WAKE_WRITE. -/
def execWakeWrite (queue : Nat) (v : Word) (s : State) : Host.Outcome State Fault Refusal := .next (s.writeWake queue v)
/-- PROG_WRITE. -/
def execProgWrite (queue cons : Nat) (v : Word) (s : State) : Host.Outcome State Fault Refusal := .next (s.writeProg queue cons v)
/-- STATUS_WRITE. -/
def execStatusWrite (queue : Nat) (v : Word) (s : State) : Host.Outcome State Fault Refusal := .next (s.writeStatus queue v)

/-! ### Host and peer accesses (R294, R295, R297) -/

/-- The physical page belongs to the host (R96). -/
def State.hostOwned (s : State) (pa : Nat) : Bool := s.front.owned.contains (pa / 65536)

/-- A host or peer access to tagged memory can be performed: the word has what it is owed, a row operation has ended on its row (R76, R300),
and the messages of a write have room (R83). -/
def State.outerMayGo (s : State) (pa : Nat) (write : Bool) : Bool :=
  !tagged pa || (if write then s.mayWrite [wordAddr pa] else s.mayTouch [wordAddr pa])

/-- An access from outside that has to wait is the next one to be taken up. -/
def State.waitOutside (s : State) (i : Input) : State := { s with inputs := i :: s.inputs }

/-- A CXL.mem read of 64 bits of device DRAM; a page that is not the host's reads as poisoned, and is counted (R295). -/
def State.hostRead (s : State) (pa : Nat) : State :=
  if 0x00C000000000 ≤ pa then s
  else if !s.hostOwned pa then s.modFront fun f => { f with readData := none, poisonReads := f.poisonReads + 1 }
  else if !s.outerMayGo pa false then s.waitOutside (.hostRead pa)
  else let s := (s.checkEcc pa).activate pa; s.modFront fun f => { f with readData := s.engineRead pa }

/-- A CXL.mem write of 64 bits of device DRAM; a write to a page that is not the host's is dropped and counted (R295). -/
def State.hostWrite (s : State) (pa : Nat) (v : Word) : State :=
  if 0x00C000000000 ≤ pa then s
  else if !s.hostOwned pa then s.modFront fun f => { f with droppedWrites := f.droppedWrites + 1 }
  else if !s.outerMayGo pa true then s.waitOutside (.hostWrite pa v)
  else s.engineWrite pa v (.unit 0) false (none, none)

/-- HOST_MEM_READ. -/
def execHostMemRead (pa : Nat) (s : State) : Host.Outcome State Fault Refusal := .next (s.hostRead (wordAddr pa))
/-- HOST_MEM_WRITE. -/
def execHostMemWrite (pa : Nat) (v : Word) (s : State) : Host.Outcome State Fault Refusal := .next (s.hostWrite (wordAddr pa) v)

/-- HOST_SNOOP: answered RspIHitI (R294). -/
def execHostSnoop (_pa : Nat) (s : State) : Host.Outcome State Fault Refusal := .next (s.modFront fun f => { f with snoops := f.snoops + 1 })

/-- A peer's request is refused or dropped, and counted (R287, R297). -/
def State.refusePeer (s : State) (data : Option Word) : State := s.modFront fun f => { f with peerData := data, peerDrops := f.peerDrops + 1 }

/-- The write of `n` bytes of a peer to a local address: a part of a word is merged into it. A wake register of another tenant drops it
(R287). -/
def State.peerWrite (s : State) (pa n tenant : Nat) (v : Word) : State :=
  let w := wordAddr pa
  let foreign := match regionOf pa with
    | .wake q _ => (match s.queue? q with | some x => decide (x.tenant ≠ tenant) | none => false)
    | _ => false
  if foreign then s.refusePeer (some 0)
  else
    let old := (s.engineRead w).getD 0
    let v := if n = 8 then v else setField old (pa % 8 * 8) (8 * n) (v.toNat % 2 ^ (8 * n))
    (s.modFront fun f => { f with peerData := some 0 }).engineWrite w v (.unit tenant) false (none, none)

/-- The range of a port's ingress map that a request of `n` bytes falls into (R297). -/
def Front.ingressOf (f : Front) (port off n : Nat) : Option Ingress :=
  f.ingress.find? fun e => e.port == port && decide (e.off ≤ off) && decide (off + n ≤ e.off + e.len)

/-- A peer's request for a tenant meets a firewall (R277), or a scratchpad that a switch has taken (R266). -/
def State.peerBarred (s : State) (pa tenant : Nat) : Bool :=
  (s.firewalled pa tenant).isSome || (match regionOf pa with | .spad c _ => s.refusesCore c none tenant false | _ => false)

/-- A plain load or store of 8 to 64 bits of a remote part, through the port's ingress map (R297). A part of a word that is poisoned is
refused (R86), and so is an access to a wake register that is not 64 bits wide (R287). -/
def State.peerRequest (s : State) (port off size : Nat) (write : Bool) (v : Word) : State :=
  let n := 2 ^ size
  if 3 < size ∨ off % n ≠ 0 then s.refusePeer none
  else match s.front.ingressOf port off n with
  | none => s.refusePeer none
  | some e =>
    let pa := e.base + (off - e.off)
    let w := wordAddr pa
    if s.peerBarred pa e.tenant then (match s.firewalled pa e.tenant with | some c => s.countDrop c | none => s).refusePeer none
    else if n ≠ 8 ∧ (match regionOf pa with | .wake _ _ => true | _ => false) = true then s.refusePeer none
    else if !s.outerMayGo pa write then s.waitOutside (.peer port off size write v)
    else
      let s := (s.checkEcc w).activate w
      if (!write || decide (n ≠ 8)) && s.poisoned w then s.refusePeer none
      else if write then s.peerWrite pa n e.tenant v
      else s.modFront fun f => { f with peerData := (s.engineRead w).map fun x => w64 (fieldOf x (pa % 8 * 8) (8 * n)) }

/-- PEER_REQUEST: a request of 64 bits; a narrower one comes as an input. -/
def execPeerRequest (port off : Nat) (write : Bool) (v : Word) (s : State) : Host.Outcome State Fault Refusal :=
  .next (s.peerRequest port off 3 write v)

/-- The curator sets a port's ingress map, of up to 64 ranges (R297). -/
def State.setIngress (s : State) (port : Nat) (ranges : List (Nat × Nat × Nat × Nat)) : State :=
  if 8 ≤ port ∨ 64 < ranges.length then s
  else
    let map : List Ingress := ranges.map fun r => { port := port, off := r.1, len := r.2.1, base := r.2.2.1, tenant := r.2.2.2 }
    s.modFront fun f => { f with ingress := (f.ingress.filter fun e => !(e.port == port)) ++ map }

/-- A store reaches its coherence point: an earlier one of the same source to the same place has reached its own (R111). -/
def State.outwardMayGo (s : State) (o : Outward) : Bool :=
  s.outward.all fun p => decide (o.id ≤ p.id) || (p.uid.isNone && p.queue.isNone) || decide (p.uid ≠ o.uid) || decide (p.queue ≠ o.queue) ||
    decide (p.pa + p.size ≤ o.pa) || decide (o.pa + o.size ≤ p.pa)

/-- COHERENCE_POINT_REACHED (R111). -/
def execCoherencePointReached (id : Nat) (s : State) : Host.Outcome State Fault Refusal :=
  .next (if ((s.outward.find? fun o => o.id == id).map s.outwardMayGo) = some false then s
    else { s with outward := s.outward.filter fun o => !(o.id == id) })

/-! ### Links and lanes (R303, R304) -/

/-- A margin of the lane lies below its threshold. -/
def Lane.weak (l : Lane) : Bool :=
  decide (bits l.reg.toNat 0 8 < bits l.reg.toNat 16 8) || decide (bits l.reg.toNat 8 8 < bits l.reg.toNat 24 8)

/-- LANE_MARGIN_BELOW: the lane's margins are measured; one below its threshold sets BELOW, and the curator retrains the lane. -/
def execLaneMarginBelow (link lane hmargin vmargin : Nat) (s : State) : Host.Outcome State Fault Refusal :=
  .next (if 256 ≤ link ∨ 512 ≤ lane then s
    else
      let l := s.lane link lane
      let l : Lane := { l with reg := BitVec.ofNat 33 (hmargin % 256 + vmargin % 256 * 2 ^ 8 + bits l.reg.toNat 16 17 * 2 ^ 16) }
      if !l.weak then s.setLane link lane l
      else if l.reg.toNat.testBit 32 then s.setLane link lane l
      else
        (s.setLane link lane { l with reg := l.reg ||| 0x100000000, retraining := true }).modFront fun f => { f with curatorIrqs := f.curatorIrqs + 1 })

/-- Spare lanes in use in the lane's group of 64. -/
def State.sparesUsed (s : State) (link lane : Nat) : Nat :=
  (s.front.margins.filter fun e => decide (e.1 / 64 = (link * 512 + lane) / 64) && e.2.spare).length

/-- LANE_RETRAINING_END: the link resumes; a lane still weak is replaced by a spare lane, or the link runs at half width. -/
def execLaneRetrainingEnd (link lane : Nat) (s : State) : Host.Outcome State Fault Refusal :=
  let l := s.lane link lane
  .next (if !l.retraining then s
    else if !l.weak then s.setLane link lane { l with retraining := false }
    else if s.sparesUsed link lane < 4 then s.setLane link lane { l with retraining := false, spare := true }
    else (s.setLane link lane { l with retraining := false }).modFront fun f =>
      { f with halfWidth := if f.halfWidth.contains link then f.halfWidth else link :: f.halfWidth, linkEvents := f.linkEvents + 1 })

/-- REPAIR_TABLE_WRITE (R475). -/
def execRepairTableWrite (core entry : Nat) (v : Word) (s : State) : Host.Outcome State Fault Refusal :=
  .next (if core < Config.cores then s.writeRepair core entry v else s)

/-- EYE_MARGIN_WRITE (R303). -/
def execEyeMarginWrite (link lane : Nat) (v : Word) (s : State) : Host.Outcome State Fault Refusal :=
  .next (if link < 256 ∧ lane < 512 then s.writeMargin link lane v else s)

/-- PGIDLE_WRITE (R298). -/
def execPgidleWrite (bank : Nat) (v : Word) (s : State) : Host.Outcome State Fault Refusal :=
  .next (if bank < 16384 then s.writePgidle bank v else s)

/-- BACKGROUND_SCRUB: the granule or word at `pa` is read and checked; a row that a row operation holds is left for later (R302). -/
def execBackgroundScrub (pa : Nat) (s : State) : Host.Outcome State Fault Refusal :=
  .next (if s.rowRunning pa then s
    else match regionOf pa with
    | .dram | .spad _ _ => s.checkEcc (wordAddr pa)
    | _ => s)

/-- The scrub of a folio's stored words (R302). -/
def State.scrubFolio (s : State) (idx : Nat) : State :=
  match s.folio? idx with
  | some f => s.checkFolio idx ((FolioDesc.cores f.desc).headD 0) fun _ => true
  | none => s

/-! ### Power (R308) -/

/-- THERMAL_TRIP: all issue stops until reset (R308). -/
def execThermalTrip (die : Nat) (s : State) : Host.Outcome State Fault Refusal :=
  .next (if die < 12 then s.modFront fun f => { f with tripped := true } else s)

/-- PWRLIM_ISSUE_SUPPRESSION: dusk issue first, day issue second (R308). -/
def execPwrlimIssueSuppression (dusk day : Bool) (s : State) : Host.Outcome State Fault Refusal :=
  .next (if day && !dusk then s else s.modFront fun f => { f with suppressDusk := dusk, suppressDay := day })

/-! ### The mailbox's requests (R278, R296) -/

/-- The mailbox hands its request to the curator: the header of the payload names the opcode and the protocol version, and the input follows. -/
def State.serveMailbox (s : State) : Host.Outcome State Fault Refusal :=
  let f := s.front
  let ver := fieldOf (f.payloadWord 0) 16 16
  let w (i : Nat) : Word := f.payloadWord (8 + 8 * i)
  match fieldOf (f.payloadWord 0) 0 16 with
  | 0xC000 => execGetFeatures ver s
  | 0xC001 => execLoadFirmware ver f.inputBytes s
  | 0xC002 => execLoadConfig ver f.inputBytes s
  | 0xC003 => execCreateTenant ver ((List.range 32).map w) s
  | 0xC004 => execDestroyTenant ver (w 0) s
  | 0xC005 => execCreateQueue ver (w 0) (w 1) s
  | 0xC006 => execDestroyQueue ver (w 0) s
  | 0xC007 => execSetOwner ver (w 0) (w 1) (w 2) (w 3) s
  | op => let (code, s) := s.free; .next (s.reply op (code.toNat % 65536) [])

end Sys2Proof.Machine
end

