-- ==== Sys2Proof/Machine/Service.lean ====
section
/-! DEFINITION. What the firmware does in service: march tests and the retirement of cores (R14, R305, R474-R476), the checkpoint drain
(R306), reset (R309), and what comes from outside the cores. -/

namespace Sys2Proof.Machine

/-! ### Physical cores (R14; log entry 75) -/

/-- The number of the physical core that stands behind a logical core from manufacture on: a stack has 68 physical cores, a row 17. -/
def homeCore (c : Nat) : Nat := if isArray c then 544 + 17 * rowOf c + rowSlot c else 68 * (c / 64) + c % 64

/-- The spares of the stack or the row of a logical core. -/
def sparesOf (c : Nat) : List Nat := if isArray c then [544 + 17 * rowOf c + 16] else (List.range 4).map fun i => 68 * (c / 64) + 64 + i

/-- The physical core behind a logical core. -/
def Front.physicalOf (f : Front) (c : Nat) : Nat := lookupD f.physical c (homeCore c)

/-- The first spare of a core that neither stands in for another nor has been retired. -/
def Front.spareFor (f : Front) (c : Nat) : Option Nat := (sparesOf c).find? fun p => !f.retired.contains p && !f.physical.any fun e => e.2 == p

/-- A physical core is retired: a spare takes over its logical number, or that is reported absent (R14). -/
def Front.retire (f : Front) (c : Nat) : Front :=
  let f := { f with retired := f.physicalOf c :: f.retired }
  match f.spareFor c with
  | some p => { f with physical := insert f.physical c p }
  | none => { f with absent := c :: f.absent }

/-! ### Areas of the firmware -/

/-- Two groups of cores that meet become one. -/
def joinGroups (g : List Nat) (gs : List (List Nat)) : List (List Nat) :=
  let meets (h : List Nat) : Bool := h.any fun c => g.contains c
  (gs.filter fun h => !meets h) ++ [below Config.cores fun c => g.contains c || gs.any fun h => meets h && h.contains c]

/-- The partitions of the cores that tenants have: no tenant has cores in two of them. -/
def State.tenantParts (s : State) : List (List Nat) :=
  (s.tenants.filter fun e => e.1 != 0).foldl (fun gs e => joinGroups (partitionOf ((e.2.desc.drop 8).take 20)) gs) []

/-- The bytes that the firmware reserves for the save area of a partition. -/
def reservedBytes (cores : List Nat) : Nat := areaBytes cores.length + 0x1000000

/-- The start of the `n` bytes of DRAM that the firmware keeps for its save areas, outside every tenant's pages (R306). -/
def State.reservedBase (s : State) (n : Nat) : Nat :=
  let base := Config.checkpointUnit.val * 65536
  let leaves := s.allLeaves
  let outside (a : Nat) : Bool := decide (a + n ≤ 0x00C000000000) && !leaves.any fun e => rangesMeet a n e.2.1 e.2.2
  ((base :: 0 :: leaves.map fun e => (e.2.1 + e.2.2 + 65535) / 65536 * 65536).find? outside).getD base

/-- A curfew of the firmware. -/
def serviceCurfew (t : Nat) (cores : List Nat) (out inn : Nat) : Curfew :=
  { id := 0, t := t, cores := cores, out := out, inn := inn, policy := 0, stby := true, statusPa := none, phase := .armed, withdrawn := [],
    bad := false }

/-- A curfew is armed or running. -/
def State.curfewRuns (s : State) (id : Nat) : Bool := s.curfews.any fun x => x.id == id

/-! ### Retiring a core (R14, R305) -/

/-- The firmware begins to retire a core: a curfew on the core's tenants comes first. -/
def State.beginRetire (s : State) (c : Nat) : State :=
  if !s.present c || s.front.retiring.any fun r => r.core == c then s
  else
    let cores := below Config.cores fun d => s.tenantParts.any fun g => g.contains c && g.contains d
    if cores.isEmpty then s.modFront fun f => { f with retiring := f.retiring ++ [{ core := c, curfew := none, cores := [], area := 0 }] }
    else
      let area := s.reservedBase (reservedBytes cores)
      (s.modFront fun f => { f with retiring := f.retiring ++ [{ core := c, curfew := some s.nextId, cores := cores, area := area }] }).armCurfew
        (serviceCurfew s.now cores area 0)

/-- The curfew on a core's tenants is over, or there is none. -/
def State.mayRetire (s : State) (r : Retiring) : Bool := (r.curfew.map s.curfewRuns) != some true

/-- The core is retired, and its tenants are restored on the spare. Without a spare the partition stays switched out. -/
def State.endRetire (s : State) (c : Nat) : State :=
  match s.front.retiring.find? fun r => r.core == c with
  | none => s
  | some r =>
    if !s.mayRetire r then s
    else
      let s := s.modFront fun f => { f.retire c with retiring := f.retiring.filter fun x => !(x.core == c) }
      if r.curfew.isSome && s.present c then s.armCurfew (serviceCurfew s.now r.cores 0 r.area) else s

/-! ### The march test (R476) -/

/-- The first entry of a core's repair table that is not valid. -/
def Core.freeRepair (c : Core) : Nat := (c.repair.toList.findIdx? fun e => !e.toNat.testBit 31).getD 16

/-- The firmware starts a march test of a core and waits for its summary word. -/
def State.startMarch (s : State) (c pa : Nat) : State :=
  if c < Config.cores then
    s.modFront fun f => { f with marches := f.marches ++ [{ core := c, pa := wordAddr pa, entries := (s.core c).freeRepair, till := s.now + 0x10000000 }] }
  else s

/-- The firmware's wait is over: the summary word is present, or the time is up. -/
def State.marchOver (s : State) (m : March) : Bool := (s.tag m.pa).p || decide (m.till ≤ s.now)

/-- The outcome of a march test: a wait time-out marks the core failed; more rows found than entries written retire it. -/
def State.endMarch (s : State) (c : Nat) : State :=
  match s.front.marches.find? fun m => m.core == c with
  | none => s
  | some m =>
    if !s.marchOver m then s
    else
      let s := (s.modFront fun f => { f with marches := f.marches.filter fun x => !(x.core == c) }).checkEcc m.pa
      if (s.tag m.pa).p = false then s.modFront fun f => { f with failed := if f.failed.contains c then f.failed else c :: f.failed }
      else if s.poisoned m.pa then s
      else
        let w := s.word m.pa
        if fieldOf w 16 5 - m.entries < fieldOf w 0 16 then s.beginRetire c else s

/-! ### The checkpoint drain (R306) -/

/-- Arms the curfews of a list of save areas. -/
def State.armAreas (s : State) (make : Nat → List Nat → Curfew) : List (Nat × List Nat) → State
  | [] => s
  | (base, cores) :: rest => (s.armCurfew (make base cores)).armAreas make rest

/-- Save areas for partitions, one after the other. -/
def areasFrom : Nat → List (List Nat) → List (Nat × List Nat)
  | _, [] => []
  | base, g :: gs => (base, g) :: areasFrom (base + reservedBytes g) gs

/-- POWER_FAIL_WARNING: step 1 of the checkpoint drain, a curfew over every tenant core, with a save area for each partition. -/
def execPowerFailWarning (s : State) : Host.Outcome State Fault Refusal :=
  .next (if s.front.drain ≠ 0 then s
    else
      let gs := s.tenantParts
      let areas := areasFrom (s.reservedBase ((gs.map reservedBytes).foldl (· + ·) 0)) gs
      (s.modFront fun f => { f with drain := 1, areas := areas }).armAreas (fun base cores => serviceCurfew s.now cores base 0) areas)

/-- The curfews of step 1 are over, and every store to the host has reached its coherence point (R306, step 4). -/
def State.mayCheckpoint (s : State) : Bool := s.front.drain == 1 && s.outward.isEmpty && !s.curfews.any fun x => x.statusPa.isNone

/-- The host ranges that CKPTDESC names; a word of the list that cannot be read names nothing. -/
def State.hostRanges (s : State) : List (Word × Word) :=
  (List.range 64).map fun i =>
    ((s.engineRead (s.front.ckptdesc.toNat + 16 * i)).getD 0, (s.engineRead (s.front.ckptdesc.toNat + 16 * i + 8)).getD 0)

/-- Steps 2 to 4: the DRAM data, as the checks of its reads leave it (R301), and the tag map of P, W and poison go to the host, and a completion
record follows, of which the manual gives no contents. -/
def State.checkpoint (s : State) : State :=
  if !s.mayCheckpoint then s
  else
    let s := s.checkRange 0 0x00C000000000
    let (v, s) := s.free
    s.modFront fun f => { f with
      drain := 4,
      checkpoint := some { ranges := s.hostRanges, data := s.mem.filter fun e => decide (e.1 < 0x00C000000000),
                           tags := (s.tags.filter fun e => decide (e.1 < 0x00C000000000)).map fun e : Nat × Tag => (e.1, { e.2 with ecc := .ok }),
                           areas := f.areas, completion := v } }

/-- The firmware restores a checkpoint: the data and the tag map go back into DRAM, and a switch-in follows from each save area. The drain is
over, and another warning starts another. -/
def State.restoreCheckpoint (s : State) : State :=
  match s.front.checkpoint with
  | none => s
  | some x =>
    let s : State := (s.scrubRange 0 0x00C000000000).modFront fun f => { f with drain := 0 }
    let s : State := { s with mem := x.data.foldl (fun m e => Memory.write m e.1 e.2) s.mem, tags := x.tags.foldl (fun l e => setTagsAt l e.1 e.2) s.tags }
    s.armAreas (fun base cores => serviceCurfew s.now cores 0 base) x.areas

/-! ### Reset (R305, R309) -/

/-- The entries of a repair table that find no spare left in their array (R305): the failures of the core exceed its spares. -/
def repairsIgnored (t : List Word) : Nat :=
  ((List.range 17).map fun a =>
    (t.filter fun e => e.toNat.testBit 31 && decide (fieldOf e 24 5 = a)).length - (if a = 0 then 4 else 8)).foldl (· + ·) 0

/-- POWER_GOOD_RESET (R309): reset to step 5. What lies in flash, in the fuses and in the host's memory stays, and the images are
verified again (R276). A core whose failures exceed its spares is retired; no tenant is on it (R305). -/
def execPowerGoodReset (s : State) : Host.Outcome State Fault Refusal :=
  let tables := s.cores.filter fun e => e.2.repair != Core.reset.repair
  let ignored (e : Nat × Core) : Nat := repairsIgnored e.2.repair.toList
  let kept := tables.filter fun e => ignored e == 0
  let f := ((tables.filter fun e => ignored e != 0 && s.present e.1).map (·.1)).foldl (fun f c => f.retire c) s.front
  .next { State.reset with
    mem := s.mem.filter fun e => decide (0x014000000000 ≤ e.1) && decide (e.1 < 0x018000000000),
    cores := kept.map fun e => (e.1, { Core.reset with repair := e.2.repair }),
    front := { Front.reset with
      flashImage := f.flashImage, flashTable := f.flashTable, absent := f.absent, physical := f.physical, retired := f.retired,
      directory := f.directory, checkpoint := f.checkpoint,
      ignoredRepairs := f.ignoredRepairs + (tables.map ignored).foldl (· + ·) 0 }.verify,
    nextUid := s.nextUid, nextId := s.nextId, sched := s.sched, picks := s.picks, freeCtr := s.freeCtr, inputs := s.inputs }

/-! ### What comes from outside the cores -/

/-- Replaces one element of a list. -/
def changeAt {α : Type} (l : List α) (n : Nat) (f : α → α) : List α := match l[n]? with | some x => l.set n (f x) | none => l

/-- An error appears in a stored word, register, context, folio word, task record or gang (R55, R259-R261, R301). -/
def State.upset (s : State) : Input → State
  | .upset pa e => if tagged pa then s.setEcc pa e else s
  | .upsetReg uid n e => s.modThread uid fun t => { t with regs := t.regs.setIfInBounds n { t.reg n with ecc := e } }
  | .upsetContext uid e => s.modThread uid fun t => { t with ecc := e }
  | .upsetFolio idx off e => s.modFolio idx fun f => { f with ecc := insert f.ecc off e }
  | .upsetDeque c n e => s.modCore c fun co => { co with deque := changeAt co.deque n fun r => { r with ecc := e } }
  | .upsetGang ten n e => s.modTenant ten fun t => { t with gangs := t.gangs.map fun x : Nat × Gang => if x.1 = n then (x.1, { x.2 with ecc := e }) else x }
  | _ => s

/-- The curator firmware places a firmware thread in a standby context that is free: at curator level, of class noon (R17, R48, R49, R247). -/
def State.placeStandby (s : State) (c n : Nat) (pc : Word) (g : List Word) : State :=
  let slot := (s.core c).standbySlot n
  if c < Config.cores ∧ n < 4 ∧ s.present c = true ∧ (s.occupant? (c * 512 + slot)).isNone = true then s.placeThread c slot 0 .curator .noon pc (g.take 4) id
  else s

/-- The next input can take effect: what waits for a row operation or for room waits on (R83, R300). -/
def State.inputMayGo (s : State) : Bool :=
  match s.inputs with
  | [] => false
  | .hostRead pa :: _ => s.outerMayGo pa false
  | .hostWrite pa _ :: _ => s.outerMayGo pa true
  | .peer port off size write _ :: _ => ((s.front.ingressOf port off (2 ^ size)).map fun e : Ingress => s.outerMayGo (e.base + (off - e.off)) write) != some false
  | _ => true

/-- The next input takes effect. -/
def State.takeInput (s : State) : State :=
  match s.inputs with
  | [] => s
  | i :: rest =>
    let s := { s with inputs := rest }
    match i with
    | .bar0Read off n => s.readBar0 off n
    | .bar0Write off n v => s.writeBar0 off n v
    | .bar2Read off => s.readBar2 off
    | .doe r => s.doeRequest r
    | .hostRead pa => s.hostRead pa
    | .hostWrite pa v => s.hostWrite pa v
    | .peer port off size write v => s.peerRequest port off size write v
    | .ingress port ranges => s.setIngress port ranges
    | .march c pa => s.startMarch c pa
    | .retire c => s.beginRetire c
    | .place c n pc g => s.placeStandby c n pc g
    | .restoreCheckpoint => s.restoreCheckpoint
    | i => s.upset i

end Sys2Proof.Machine
end

