-- ==== Sys2Proof/Machine/Special.lean ====
section
/-! DEFINITION. The special functions of VSF (R163, R164, R464): the values of the special inputs, and for every other input the
function's value to more than 300 bits, rounded as R163 says. Where R163 gives an error bound only, which neighbour is
returned is a free value (`Config.specialStep`, `Config.specialChoice`). -/

namespace Sys2Proof.Machine

/-! ### Fixed-point values of 448 fraction bits -/

def fxBits : Nat := 448
def fxOne : Nat := 2 ^ fxBits

/-- ln 2. -/
def fxLn2 : Nat := 0xb17217f7d1cf79abc9e3b39803f2f6af40f343267298b62d8a0d175b8baafa2be7b876206debac98559552fb4afa1b10ed2eae35c1382144
/-- 2 / sqrt(π). -/
def fxErfScale : Nat := 0x120dd750429b6d11ae3a914fed7fd8688281341d7587cea2e7342b06199cc416180eb39f0b24e1e2281806c12d98f35d77a3e9ddc91c394f0

/-- `m * 2^e` in fixed point, truncated. -/
def toFx (m : Nat) (e : Int) : Nat :=
  let k := e + fxBits
  if 0 ≤ k then m <<< k.toNat else m >>> (-k).toNat

/-- The exponential series from term `k` on; `term` is term `k - 1`. -/
def expSeries (y : Nat) : (fuel k term acc : Nat) → Nat
  | 0, _, _, acc => acc
  | fuel + 1, k, term, acc =>
    let t := term * y / (k * fxOne)
    expSeries y fuel (k + 1) t (acc + t)

/-- e^y for 0 ≤ y < 1. -/
def expFx (y : Nat) : Nat := expSeries y 110 1 fxOne fxOne

/-- e^x for a fixed-point x ≥ 0, as `M * 2^k` with 1 ≤ M < 2. -/
def expSplit (x : Nat) : Nat × Nat := (expFx (x % fxLn2), x / fxLn2)

/-- The series of the area hyperbolic tangent: Σ z^(2k+1) / (2k+1). -/
def atanhSeries (z2 : Nat) : (fuel k pow acc : Nat) → Nat
  | 0, _, _, acc => acc
  | fuel + 1, k, pow, acc => atanhSeries z2 fuel (k + 1) (pow * z2 / fxOne) (acc + pow / (2 * k + 1))

/-- ln y for 1 ≤ y < 2. -/
def lnFx (y : Nat) : Nat :=
  let z := (y - fxOne) * fxOne / (y + fxOne)
  2 * atanhSeries (z * z / fxOne) 150 0 z 0

/-- Σ (-1)^n w^n / (n! (2n+1)), from term `n` on. -/
def erfSeries (w : Nat) : (fuel n pow : Nat) → Int → Int
  | 0, _, _, acc => acc
  | fuel + 1, n, pow, acc =>
    let t : Int := (pow / (2 * n + 1) : Nat)
    erfSeries w fuel (n + 1) (pow * w / ((n + 1) * fxOne)) (if n % 2 = 0 then acc + t else acc - t)

/-! ### The functions on a finite value that is not zero -/

/-- A magnitude: between `m * 2^e` and `(m + 1) * 2^e`, or `m * 2^e` itself when it is exact. -/
structure Approx where
  neg : Bool
  m : Nat
  e : Int
  exact : Bool
  deriving DecidableEq, Repr

/-- A fixed-point magnitude whose low 32 bits are not certain, times 2^k. -/
def Approx.ofFx (neg : Bool) (x : Nat) (k : Int) : Approx := { neg := neg, m := x >>> 32, e := k - fxBits + 32, exact := false }

/-- Just below 1. -/
def Approx.belowOne (neg : Bool) : Approx := { neg := neg, m := 2 ^ 200 - 1, e := -200, exact := false }

/-- The exponent of the leading bit. -/
def topBit (m : Nat) (e : Int) : Int := e + log2 m

def exp2Approx (neg : Bool) (m : Nat) (e : Int) : Approx :=
  if 15 ≤ topBit m e then { neg := false, m := 1, e := if neg then -(2 ^ 15) else 2 ^ 15, exact := false }
  else if 0 ≤ e ∨ m % 2 ^ (-e).toNat = 0 then
    let n : Int := if 0 ≤ e then (m <<< e.toNat : Nat) else (m >>> (-e).toNat : Nat)
    { neg := false, m := 1, e := if neg then -n else n, exact := true }
  else
    let x := toFx m e
    let n : Int := (x / fxOne : Nat)
    let frac := x % fxOne
    if neg then .ofFx false (expFx ((if frac = 0 then fxOne - 1 else fxOne - frac) * fxLn2 / fxOne)) (-n - 1)
    else .ofFx false (expFx (frac * fxLn2 / fxOne)) n

def log2Approx (m : Nat) (e : Int) : Approx :=
  let n := topBit m e
  if m = 2 ^ log2 m then { neg := decide (n < 0), m := n.natAbs, e := 0, exact := true }
  else
    let ly : Int := (lnFx (toFx m (-(log2 m : Int))) * fxOne / fxLn2 : Nat)
    let v := n * fxOne + ly
    .ofFx (decide (v < 0)) v.natAbs 0

def rsqrtApprox (m : Nat) (e : Int) : Approx :=
  let odd := e % 2 = 1
  let m' := if odd then 2 * m else m
  let e' := if odd then e - 1 else e
  let k := 200 + log2 m'
  let r := isqrt (2 ^ (2 * k) / m')
  { neg := false, m := r, e := -(e' / 2) - k, exact := decide (r * r * m' = 2 ^ (2 * k)) }

def tanhApprox (neg : Bool) (m : Nat) (e : Int) : Approx :=
  if topBit m e < -60 then { neg := neg, m := (m <<< 128) - 1, e := e - 128, exact := false }
  else if 7 ≤ topBit m e then .belowOne neg
  else
    let (a, k) := expSplit (toFx (2 * m) e)
    let x := a <<< k
    .ofFx neg ((x - fxOne) * fxOne / (x + fxOne)) 0

def sigmoidApprox (neg : Bool) (m : Nat) (e : Int) : Approx :=
  if 12 ≤ topBit m e then (if neg then { neg := false, m := 1, e := -(2 ^ 15), exact := false } else .belowOne false)
  else
    let (a, k) := expSplit (toFx m e)
    if neg then .ofFx false (2 ^ (2 * fxBits + k) / (fxOne + (a + 2 ^ 32) <<< k)) (-(k : Int))
    else
      let x := a <<< k
      .ofFx false (x * fxOne / (x + fxOne)) 0

def erfApprox (neg : Bool) (m : Nat) (e : Int) : Approx :=
  if 3 ≤ topBit m e then .belowOne neg
  else
    let s := erfSeries (toFx (m * m) (2 * e)) 500 0 fxOne 0
    { neg := neg, m := (m * s.toNat * fxErfScale) >>> (fxBits + 32), e := e - fxBits + 32, exact := false }

/-! ### Rounding (R163) -/

/-- The magnitudes that an error bound of `ulps` units admits, lowest first: the truncated magnitude and its neighbours. -/
def FpFmt.near (f : FpFmt) (ulps : Nat) (x : Approx) : List Nat :=
  let t := (f.roundMag .rtz x.neg x.m x.e (!x.exact)).enc
  let far := decide ((t + 2) / 2 ^ f.mbits ≠ t / 2 ^ f.mbits) && decide ((t + 2) % 2 ^ f.mbits ≠ 0)
  let lo := if ulps = 1 then t else if t % 2 ^ f.mbits = 0 then t - 2 else t - 1
  let hi := if ulps = 1 ∨ far = true then t + 1 else t + 2
  (List.range (hi - lo + 1)).map (lo + ·)

/-- The magnitude of a monotonic function at an input that stands at `ord` in the order of the inputs: the greatest admitted result that
the input reaches, the least one when it reaches none. This is non-decreasing in the input whatever `Config.specialStep` is, and every
function within the bound that is non-decreasing is one of these. -/
def risingOf (fmt fn : Nat) (neg : Bool) (ord : Int) (ms : List Nat) : Nat :=
  let reached (m : Nat) : Bool := decide (Config.specialStep fn fmt (if neg then -(m : Int) else m) ≤ ord)
  if neg then (ms.find? reached).getD (ms.getLastD 0) else (ms.reverse.find? reached).getD (ms.headD 0)

/-- The greatest integer that a finite value does not exceed, kept within ±2^15. -/
def floorOf (neg : Bool) (m : Nat) (e : Int) : Int :=
  let q : Int := if 0 ≤ e then (m <<< (min e.toNat 16) : Nat) else (m >>> (-e).toNat : Nat)
  let n := if neg then (if 0 ≤ e ∨ m % 2 ^ (-e).toNat = 0 then -q else -q - 1) else q
  max (-(2 ^ 15)) (min (2 ^ 15) n)

/-- The least and the greatest magnitude that keep a function non-decreasing beside its exact results (R163, R164): exp2 of the integers on
both sides of the input, and sigmoid of 0, which is a half. -/
def FpFmt.limits (f : FpFmt) (fn a : Nat) : Nat × Option Nat :=
  let power (n : Int) : Nat := (f.roundMag .rne false 1 n false).enc
  match fn, f.unpack a with
  | 0, .fin neg m e => let n := floorOf neg m e; (power n, some (power (n + 1)))
  | 6, .fin neg _ _ => if neg then (0, some (power (-1))) else (power (-1), none)
  | _, _ => (0, none)

/-- The magnitudes that the error bound admits and that lie between the function's exact results. -/
def FpFmt.admitted (f : FpFmt) (fn ulps a : Nat) (x : Approx) : List Nat :=
  let l := f.limits fn a
  (f.near ulps x).filter fun m => decide (l.1 ≤ m) && (l.2.map fun h => decide (m ≤ h)).getD true

/-- The place of an encoding in the order of its values. -/
def FpFmt.ordOf (f : FpFmt) (a : Nat) : Int :=
  if f.sign true ≤ a then -((a - f.sign true : Nat) : Int) else a

/-- A result of a function with an error bound (R163). It is NaN-free, ignores FPRM, and is inexact. Of these functions rsqrt alone is not
monotonic. -/
def FpFmt.bounded (f : FpFmt) (fmt fn ulps a : Nat) (x : Approx) : Nat × Flags :=
  let ms := f.admitted fn ulps a x
  let enc := if fn = 3 then ms.getD (Config.specialChoice fn fmt a % ms.length) 0 else risingOf fmt fn x.neg (f.ordOf a) ms
  if f.maxEnc < enc then (f.inf x.neg, flOF ||| flNX)
  else (f.sign x.neg + enc, flNX ||| flIf (decide (enc < 2 ^ f.mbits)) flUF)

/-- The result of a function with an ulp bound in FP64 and FP32, correctly rounded in FP16 and BF16; every result that is not one
of the exact cases of R163 sets NX. -/
def FpFmt.special (f : FpFmt) (fmt fn ulps a : Nat) (exactCase : Bool) (x : Approx) : Nat × Flags :=
  if exactCase && x.exact then f.round .rne false x.neg x.m x.e
  else if fmt ≤ 1 then f.bounded fmt fn ulps a x
  else
    let r := f.round .rne false x.neg x.m x.e (!x.exact)
    (r.1, r.2 ||| flNX)

/-- A small integer or a power of 2 in the format. -/
def FpFmt.exactly (f : FpFmt) (neg : Bool) (m : Nat) (e : Int) : Nat := (f.round .rne false neg m e).1

/-- VSF on one element (R163, R164). -/
def FpFmt.vsf (f : FpFmt) (fmt fn : Nat) (rm : Rm) (a : Nat) : Nat × Flags :=
  match f.unpack a with
  | .nan q => f.nanOf [.nan q]
  | .inf neg =>
    match fn with
    | 0 => (if neg then 0 else f.inf false, 0)
    | 1 | 3 | 4 => if neg then f.invalid else (if fn = 3 then 0 else f.inf false, 0)
    | 2 => (f.sign neg, 0)
    | 6 => (if neg then 0 else f.exactly false 1 0, 0)
    | _ => (f.exactly neg 1 0, 0)
  | .fin neg m e =>
    if m = 0 then
      match fn with
      | 0 => (f.exactly false 1 0, 0)
      | 1 => (f.inf true, flDZ)
      | 2 | 3 => (f.inf neg, flDZ)
      | 6 => (f.exactly false 1 (-1), 0)
      | _ => (f.sign neg, 0)
    else match fn with
      | 0 => f.special fmt 0 1 a true (exp2Approx neg m e)
      | 1 => if neg then f.invalid else f.special fmt 1 1 a true (log2Approx m e)
      | 2 =>
        let r := f.div rm (.fin false 1 0) (.fin neg m e)
        (r.1, r.2 ||| flNX)
      | 3 => if neg then f.invalid else f.special fmt 3 1 a false (rsqrtApprox m e)
      | 4 =>
        if neg then f.invalid
        else
          let r := f.sqrt rm (.fin neg m e)
          (r.1, r.2 ||| flNX)
      | 5 => f.special fmt 5 2 a false (tanhApprox neg m e)
      | 6 => f.special fmt 6 2 a false (sigmoidApprox neg m e)
      | _ => f.special fmt 7 2 a false (erfApprox neg m e)

/-- VSF (R464). -/
def execVsf (d a : BitVec 6) (r : BitVec 4) (t : BitVec 2) (e f : BitVec 1) (u : BitVec 4) (s : State) : Host.Outcome State Fault Refusal :=
  let x := fmtOf t.toNat
  s.elementwise (.vsf d a r t e f u)
    { Form.plain with a := opA .src a e, d := opD .dst d, rsvd := nz r || nz f, illegal := decide (8 ≤ u.toNat) } x.width
    fun c a _ _ => x.vsf t.toNat u.toNat c.arith a

end Sys2Proof.Machine
end

