-- ==== Sys2Proof/Machine/Dispatch.lean ====
section
/-! DEFINITION. The meaning of every step, one arm each. -/

namespace Sys2Proof.Machine

def exec (i : Instr) (s : State) : Host.Outcome State Fault Refusal :=
  match i with
  | .add d a b e f => Sys2Proof.Machine.execAdd d a b e f s
  | .sub d a b e f => Sys2Proof.Machine.execSub d a b e f s
  | .and d a b e f => Sys2Proof.Machine.execAnd d a b e f s
  | .or d a b e f => Sys2Proof.Machine.execOr d a b e f s
  | .xor d a b e f => Sys2Proof.Machine.execXor d a b e f s
  | .andn d a b e f => Sys2Proof.Machine.execAndn d a b e f s
  | .shl d a b e f => Sys2Proof.Machine.execShl d a b e f s
  | .shr d a b e f => Sys2Proof.Machine.execShr d a b e f s
  | .sra d a b e f => Sys2Proof.Machine.execSra d a b e f s
  | .rot d a b e f => Sys2Proof.Machine.execRot d a b e f s
  | .min d a b e f => Sys2Proof.Machine.execMin d a b e f s
  | .minU d a b e f => Sys2Proof.Machine.execMinU d a b e f s
  | .max d a b e f => Sys2Proof.Machine.execMax d a b e f s
  | .maxU d a b e f => Sys2Proof.Machine.execMaxU d a b e f s
  | .sel d a b e f => Sys2Proof.Machine.execSel d a b e f s
  | .cmp d a b e f c => Sys2Proof.Machine.execCmp d a b e f c s
  | .clz d a b e f => Sys2Proof.Machine.execClz d a b e f s
  | .ctz d a b e f => Sys2Proof.Machine.execCtz d a b e f s
  | .popc d a b e f => Sys2Proof.Machine.execPopc d a b e f s
  | .ext d a b e f => Sys2Proof.Machine.execExt d a b e f s
  | .ins d a b e f => Sys2Proof.Machine.execIns d a b e f s
  | .addW d a b e f => Sys2Proof.Machine.execAddW d a b e f s
  | .subW d a b e f => Sys2Proof.Machine.execSubW d a b e f s
  | .shlW d a b e f => Sys2Proof.Machine.execShlW d a b e f s
  | .shrW d a b e f => Sys2Proof.Machine.execShrW d a b e f s
  | .sraW d a b e f => Sys2Proof.Machine.execSraW d a b e f s
  | .mul d a b e f => Sys2Proof.Machine.execMul d a b e f s
  | .mulh d a b e f => Sys2Proof.Machine.execMulh d a b e f s
  | .mulhU d a b e f => Sys2Proof.Machine.execMulhU d a b e f s
  | .mulhSu d a b e f => Sys2Proof.Machine.execMulhSu d a b e f s
  | .div d a b e f => Sys2Proof.Machine.execDiv d a b e f s
  | .divU d a b e f => Sys2Proof.Machine.execDivU d a b e f s
  | .rem d a b e f => Sys2Proof.Machine.execRem d a b e f s
  | .remU d a b e f => Sys2Proof.Machine.execRemU d a b e f s
  | .mulW d a b e f => Sys2Proof.Machine.execMulW d a b e f s
  | .addImm d a e im => Sys2Proof.Machine.execAddImm d a e im s
  | .andImm d a e im => Sys2Proof.Machine.execAndImm d a e im s
  | .orImm d a e im => Sys2Proof.Machine.execOrImm d a e im s
  | .xorImm d a e im => Sys2Proof.Machine.execXorImm d a e im s
  | .shlImm d a e r s0 => Sys2Proof.Machine.execShlImm d a e r s0 s
  | .shrImm d a e r s0 => Sys2Proof.Machine.execShrImm d a e r s0 s
  | .sraImm d a e r s0 => Sys2Proof.Machine.execSraImm d a e r s0 s
  | .rotImm d a e r s0 => Sys2Proof.Machine.execRotImm d a e r s0 s
  | .cmpImm d a e c im => Sys2Proof.Machine.execCmpImm d a e c im s
  | .lih d im => Sys2Proof.Machine.execLih d im s
  | .addpc d im => Sys2Proof.Machine.execAddpc d im s
  | .ld t b e m r s0 x o => Sys2Proof.Machine.execLd t b e m r s0 x o s
  | .st t b e m r s0 x o => Sys2Proof.Machine.execSt t b e m r s0 x o s
  | .ldp t b e m r s0 x o => Sys2Proof.Machine.execLdp t b e m r s0 x o s
  | .stp t b e m r s0 x o => Sys2Proof.Machine.execStp t b e m r s0 x o s
  | .amo d a b e f r g o => Sys2Proof.Machine.execAmo d a b e f r g o s
  | .cas d a b e f r g => Sys2Proof.Machine.execCas d a b e f r g s
  | .tagrd d a b e f => Sys2Proof.Machine.execTagrd d a b e f s
  | .tagset d a b e f => Sys2Proof.Machine.execTagset d a b e f s
  | .watch d a b e f => Sys2Proof.Machine.execWatch d a b e f s
  | .unwatch d a b e f => Sys2Proof.Machine.execUnwatch d a b e f s
  | .fenceT d a b e f => Sys2Proof.Machine.execFenceT d a b e f s
  | .fenceD d a b e f => Sys2Proof.Machine.execFenceD d a b e f s
  | .fenceS d a b e f => Sys2Proof.Machine.execFenceS d a b e f s
  | .halloc d a b e f => Sys2Proof.Machine.execHalloc d a b e f s
  | .hallocNf d a b e f => Sys2Proof.Machine.execHallocNf d a b e f s
  | .hfree d a b e f => Sys2Proof.Machine.execHfree d a b e f s
  | .b a b c o => Sys2Proof.Machine.execB a b c o s
  | .j o => Sys2Proof.Machine.execJ o s
  | .jal d o => Sys2Proof.Machine.execJal d o s
  | .jalr d a e im => Sys2Proof.Machine.execJalr d a e im s
  | .rep s0 a e r l => Sys2Proof.Machine.execRep s0 a e r l s
  | .fadd d a b e f t => Sys2Proof.Machine.execFadd d a b e f t s
  | .fsub d a b e f t => Sys2Proof.Machine.execFsub d a b e f t s
  | .fmul d a b e f t => Sys2Proof.Machine.execFmul d a b e f t s
  | .fma d a b e f t => Sys2Proof.Machine.execFma d a b e f t s
  | .fmaN d a b e f t => Sys2Proof.Machine.execFmaN d a b e f t s
  | .fdiv d a b e f t => Sys2Proof.Machine.execFdiv d a b e f t s
  | .fsqrt d a b e f t => Sys2Proof.Machine.execFsqrt d a b e f t s
  | .fmin d a b e f t => Sys2Proof.Machine.execFmin d a b e f t s
  | .fmax d a b e f t => Sys2Proof.Machine.execFmax d a b e f t s
  | .fminn d a b e f t => Sys2Proof.Machine.execFminn d a b e f t s
  | .fmaxn d a b e f t => Sys2Proof.Machine.execFmaxn d a b e f t s
  | .fsgnJ d a b e f t => Sys2Proof.Machine.execFsgnJ d a b e f t s
  | .fsgnN d a b e f t => Sys2Proof.Machine.execFsgnN d a b e f t s
  | .fsgnX d a b e f t => Sys2Proof.Machine.execFsgnX d a b e f t s
  | .fclass d a b e f t => Sys2Proof.Machine.execFclass d a b e f t s
  | .frnd d a b e f t => Sys2Proof.Machine.execFrnd d a b e f t s
  | .fcmp d a b e f c t => Sys2Proof.Machine.execFcmp d a b e f c t s
  | .fcvt d a r m o e f t => Sys2Proof.Machine.execFcvt d a r m o e f t s
  | .fcvti d a b e f t => Sys2Proof.Machine.execFcvti d a b e f t s
  | .fcvtiU d a b e f t => Sys2Proof.Machine.execFcvtiU d a b e f t s
  | .icvtf d a b e f t => Sys2Proof.Machine.execIcvtf d a b e f t s
  | .icvtfU d a b e f t => Sys2Proof.Machine.execIcvtfU d a b e f t s
  | .vaddF d a b e f t => Sys2Proof.Machine.execVaddF d a b e f t s
  | .vsubF d a b e f t => Sys2Proof.Machine.execVsubF d a b e f t s
  | .vmulF d a b e f t => Sys2Proof.Machine.execVmulF d a b e f t s
  | .vfma d a b e f t => Sys2Proof.Machine.execVfma d a b e f t s
  | .vfmaN d a b e f t => Sys2Proof.Machine.execVfmaN d a b e f t s
  | .vminF d a b e f t => Sys2Proof.Machine.execVminF d a b e f t s
  | .vmaxF d a b e f t => Sys2Proof.Machine.execVmaxF d a b e f t s
  | .vminn d a b e f t => Sys2Proof.Machine.execVminn d a b e f t s
  | .vmaxn d a b e f t => Sys2Proof.Machine.execVmaxn d a b e f t s
  | .vcmpEqF d a b e f t => Sys2Proof.Machine.execVcmpEqF d a b e f t s
  | .vcmpLtF d a b e f t => Sys2Proof.Machine.execVcmpLtF d a b e f t s
  | .vcmpLeF d a b e f t => Sys2Proof.Machine.execVcmpLeF d a b e f t s
  | .vselF d a b e f t => Sys2Proof.Machine.execVselF d a b e f t s
  | .vred d a b e f t => Sys2Proof.Machine.execVred d a b e f t s
  | .vredMax d a b e f t => Sys2Proof.Machine.execVredMax d a b e f t s
  | .vredMin d a b e f t => Sys2Proof.Machine.execVredMin d a b e f t s
  | .vaddI d a b e f w => Sys2Proof.Machine.execVaddI d a b e f w s
  | .vsubI d a b e f w => Sys2Proof.Machine.execVsubI d a b e f w s
  | .vmulI d a b e f w => Sys2Proof.Machine.execVmulI d a b e f w s
  | .vminI d a b e f w => Sys2Proof.Machine.execVminI d a b e f w s
  | .vmaxI d a b e f w => Sys2Proof.Machine.execVmaxI d a b e f w s
  | .vand d a b e f w => Sys2Proof.Machine.execVand d a b e f w s
  | .vor d a b e f w => Sys2Proof.Machine.execVor d a b e f w s
  | .vxor d a b e f w => Sys2Proof.Machine.execVxor d a b e f w s
  | .vshl d a b e f w => Sys2Proof.Machine.execVshl d a b e f w s
  | .vshr d a b e f w => Sys2Proof.Machine.execVshr d a b e f w s
  | .vshrA d a b e f w => Sys2Proof.Machine.execVshrA d a b e f w s
  | .vcmpEqI d a b e f w => Sys2Proof.Machine.execVcmpEqI d a b e f w s
  | .vcmpLtI d a b e f w => Sys2Proof.Machine.execVcmpLtI d a b e f w s
  | .vselI d a b e f w => Sys2Proof.Machine.execVselI d a b e f w s
  | .vredW d a b e f w => Sys2Proof.Machine.execVredW d a b e f w s
  | .vcvt d a m s0 e f c => Sys2Proof.Machine.execVcvt d a m s0 e f c s
  | .vcvtSat d a m s0 e f c => Sys2Proof.Machine.execVcvtSat d a m s0 e f c s
  | .vperm d a b e f p => Sys2Proof.Machine.execVperm d a b e f p s
  | .vsf d a r t e f u => Sys2Proof.Machine.execVsf d a r t e f u s
  | .xclr d a b e f n => Sys2Proof.Machine.execXclr d a b e f n s
  | .xfma d a b e f n => Sys2Proof.Machine.execXfma d a b e f n s
  | .xfmaN d a b e f n => Sys2Proof.Machine.execXfmaN d a b e f n s
  | .xadd d a b e f n => Sys2Proof.Machine.execXadd d a b e f n s
  | .xrnd d a b e f n => Sys2Proof.Machine.execXrnd d a b e f n s
  | .xsgn d a b e f n => Sys2Proof.Machine.execXsgn d a b e f n s
  | .xrdw d a b e f n => Sys2Proof.Machine.execXrdw d a b e f n s
  | .xwrw d a b e f n => Sys2Proof.Machine.execXwrw d a b e f n s
  | .xacq n a b e f => Sys2Proof.Machine.execXacq n a b e f s
  | .xrel n a b e f => Sys2Proof.Machine.execXrel n a b e f s
  | .spawn d a b e f => Sys2Proof.Machine.execSpawn d a b e f s
  | .spawnF d a b e f => Sys2Proof.Machine.execSpawnF d a b e f s
  | .quit d a b e f => Sys2Proof.Machine.execQuit d a b e f s
  | .quitF d a b e f => Sys2Proof.Machine.execQuitF d a b e f s
  | .quitD d a b e f => Sys2Proof.Machine.execQuitD d a b e f s
  | .dqpush d a b e f => Sys2Proof.Machine.execDqpush d a b e f s
  | .dqpop d a b e f => Sys2Proof.Machine.execDqpop d a b e f s
  | .yield d a b e f => Sys2Proof.Machine.execYield d a b e f s
  | .gnew d a b e f => Sys2Proof.Machine.execGnew d a b e f s
  | .gjoin d a b e f => Sys2Proof.Machine.execGjoin d a b e f s
  | .gleave d a b e f => Sys2Proof.Machine.execGleave d a b e f s
  | .gbar d a b e f => Sys2Proof.Machine.execGbar d a b e f s
  | .gend d a b e f => Sys2Proof.Machine.execGend d a b e f s
  | .msend d a b e f => Sys2Proof.Machine.execMsend d a b e f s
  | .mwait d a b e f => Sys2Proof.Machine.execMwait d a b e f s
  | .lcfg d a b e f => Sys2Proof.Machine.execLcfg d a b e f s
  | .stab d a b e f => Sys2Proof.Machine.execStab d a b e f s
  | .sbind d a b e f => Sys2Proof.Machine.execSbind d a b e f s
  | .sskip d a b e f => Sys2Proof.Machine.execSskip d a b e f s
  | .spos d a b e f => Sys2Proof.Machine.execSpos d a b e f s
  | .cpygo d a b e f => Sys2Proof.Machine.execCpygo d a b e f s
  | .cpygoNc d a b e f => Sys2Proof.Machine.execCpygoNc d a b e f s
  | .cpyst d a b e f => Sys2Proof.Machine.execCpyst d a b e f s
  | .cpycan d a b e f => Sys2Proof.Machine.execCpycan d a b e f s
  | .subs d a b e f => Sys2Proof.Machine.execSubs d a b e f s
  | .unsubs d a b e f => Sys2Proof.Machine.execUnsubs d a b e f s
  | .gath d a b e f => Sys2Proof.Machine.execGath d a b e f s
  | .gathSum d a b e f => Sys2Proof.Machine.execGathSum d a b e f s
  | .tbsw d a b e f => Sys2Proof.Machine.execTbsw d a b e f s
  | .tbdrn d a b e f => Sys2Proof.Machine.execTbdrn d a b e f s
  | .ksend n a b e f => Sys2Proof.Machine.execKsend n a b e f s
  | .kbin d a b e f => Sys2Proof.Machine.execKbin d a b e f s
  | .kflush d a b e f => Sys2Proof.Machine.execKflush d a b e f s
  | .rcopy d a b e f => Sys2Proof.Machine.execRcopy d a b e f s
  | .rzero d a b e f => Sys2Proof.Machine.execRzero d a b e f s
  | .mxcfg d a b e f => Sys2Proof.Machine.execMxcfg d a b e f s
  | .mxgo d a b e f => Sys2Proof.Machine.execMxgo d a b e f s
  | .mxhnd d a b e f => Sys2Proof.Machine.execMxhnd d a b e f s
  | .mxstat d a b e f => Sys2Proof.Machine.execMxstat d a b e f s
  | .aclr d a b e f => Sys2Proof.Machine.execAclr d a b e f s
  | .fpin d a b e f => Sys2Proof.Machine.execFpin d a b e f s
  | .funp d a b e f => Sys2Proof.Machine.execFunp d a b e f s
  | .fref d a b e f => Sys2Proof.Machine.execFref d a b e f s
  | .frev d a b e f => Sys2Proof.Machine.execFrev d a b e f s
  | .fqry d a b e f => Sys2Proof.Machine.execFqry d a b e f s
  | .trap d a b e f => Sys2Proof.Machine.execTrap d a b e f s
  | .eret d a b e f => Sys2Proof.Machine.execEret d a b e f s
  | .brk d a b e f => Sys2Proof.Machine.execBrk d a b e f s
  | .rpart d a b e f => Sys2Proof.Machine.execRpart d a b e f s
  | .xlinv d a b e f => Sys2Proof.Machine.execXlinv d a b e f s
  | .swat d a b e f => Sys2Proof.Machine.execSwat d a b e f s
  | .lend d a b e f => Sys2Proof.Machine.execLend d a b e f s
  | .recall d a b e f => Sys2Proof.Machine.execRecall d a b e f s
  | .fack d a b e f => Sys2Proof.Machine.execFack d a b e f s
  | .fackT d a b e f => Sys2Proof.Machine.execFackT d a b e f s
  | .mfsr d a e n => Sys2Proof.Machine.execMfsr d a e n s
  | .mtsr s0 a e n => Sys2Proof.Machine.execMtsr s0 a e n s
  | .hint h => Sys2Proof.Machine.execHint h s
  | .modeWrite uid v => Sys2Proof.Machine.execModeWrite uid v s
  | .classWrite uid v => Sys2Proof.Machine.execClassWrite uid v s
  | .trapvecWrite uid v => Sys2Proof.Machine.execTrapvecWrite uid v s
  | .heapdescWrite uid v => Sys2Proof.Machine.execHeapdescWrite uid v s
  | .tstatWrite uid v => Sys2Proof.Machine.execTstatWrite uid v s
  | .dbgcWrite uid n v => Sys2Proof.Machine.execDbgcWrite uid n v s
  | .pmselWrite uid n v => Sys2Proof.Machine.execPmselWrite uid n v s
  | .pmcWrite uid n v => Sys2Proof.Machine.execPmcWrite uid n v s
  | .trcctlWrite uid v => Sys2Proof.Machine.execTrcctlWrite uid v s
  | .fwctlWrite uid v => Sys2Proof.Machine.execFwctlWrite uid v s
  | .pwrlimWrite uid v => Sys2Proof.Machine.execPwrlimWrite uid v s
  | .accessPerformed id => Sys2Proof.Machine.execAccessPerformed id s
  | .controllerAnswer id => Sys2Proof.Machine.execControllerAnswer id s
  | .longLatencyResult id => Sys2Proof.Machine.execLongLatencyResult id s
  | .waitTimeOut id => Sys2Proof.Machine.execWaitTimeOut id s
  | .translationWalkEnd uid => Sys2Proof.Machine.execTranslationWalkEnd uid s
  | .faultRecordSend id => Sys2Proof.Machine.execFaultRecordSend id s
  | .deviceMessageEntry id => Sys2Proof.Machine.execDeviceMessageEntry id s
  | .revocation core => Sys2Proof.Machine.execRevocation core s
  | .restoreContext core => Sys2Proof.Machine.execRestoreContext core s
  | .stealRequest core tenant => Sys2Proof.Machine.execStealRequest core tenant s
  | .stealServe thief victim tenant => Sys2Proof.Machine.execStealServe thief victim tenant s
  | .stealBackoffExpiry core tenant => Sys2Proof.Machine.execStealBackoffExpiry core tenant s
  | .yieldTimeout uid => Sys2Proof.Machine.execYieldTimeout uid s
  | .linkStall uid => Sys2Proof.Machine.execLinkStall uid s
  | .copyCompletion core id => Sys2Proof.Machine.execCopyCompletion core id s
  | .gatherRowWrite id => Sys2Proof.Machine.execGatherRowWrite id s
  | .binUpdate id => Sys2Proof.Machine.execBinUpdate id s
  | .combiningEntryTimeout id => Sys2Proof.Machine.execCombiningEntryTimeout id s
  | .binRoundOut id => Sys2Proof.Machine.execBinRoundOut id s
  | .folioLoadEnd idx => Sys2Proof.Machine.execFolioLoadEnd idx s
  | .feederTake row => Sys2Proof.Machine.execFeederTake row s
  | .accumulatorUpdate row slot => Sys2Proof.Machine.execAccumulatorUpdate row slot s
  | .drainDispatch core => Sys2Proof.Machine.execDrainDispatch core s
  | .rowOperationComplete row => Sys2Proof.Machine.execRowOperationComplete row s
  | .rowOperationWrite id => Sys2Proof.Machine.execRowOperationWrite id s
  | .curfewStop id => Sys2Proof.Machine.execCurfewStop id s
  | .curfewSave id => Sys2Proof.Machine.execCurfewSave id s
  | .switchIn id => Sys2Proof.Machine.execSwitchIn id s
  | .queueHandlerDispatch queue => Sys2Proof.Machine.execQueueHandlerDispatch queue s
  | .launch queue cons => Sys2Proof.Machine.execLaunch queue cons s
  | .wait queue cons => Sys2Proof.Machine.execWait queue cons s
  | .waitPoll queue cons => Sys2Proof.Machine.execWaitPoll queue cons s
  | .signal queue cons => Sys2Proof.Machine.execSignal queue cons s
  | .copy queue cons => Sys2Proof.Machine.execCopy queue cons s
  | .folio queue cons => Sys2Proof.Machine.execFolio queue cons s
  | .nop queue cons => Sys2Proof.Machine.execNop queue cons s
  | .recordSkip queue cons => Sys2Proof.Machine.execRecordSkip queue cons s
  | .seqWaitTimeout queue cons => Sys2Proof.Machine.execSeqWaitTimeout queue cons s
  | .traceSample core => Sys2Proof.Machine.execTraceSample core s
  | .coherencePointReached id => Sys2Proof.Machine.execCoherencePointReached id s
  | .hotRowCountHalving stack => Sys2Proof.Machine.execHotRowCountHalving stack s
  | .laneRetrainingEnd link lane => Sys2Proof.Machine.execLaneRetrainingEnd link lane s
  | .debugStop tid => Sys2Proof.Machine.execDebugStop tid s
  | .debugResume tid => Sys2Proof.Machine.execDebugResume tid s
  | .debugStep tid => Sys2Proof.Machine.execDebugStep tid s
  | .brkstop core tenant => Sys2Proof.Machine.execBrkstop core tenant s
  | .contextRecordAccess write tid word v => Sys2Proof.Machine.execContextRecordAccess write tid word v s
  | .repairTableWrite core entry v => Sys2Proof.Machine.execRepairTableWrite core entry v s
  | .eyeMarginWrite link lane v => Sys2Proof.Machine.execEyeMarginWrite link lane v s
  | .pgidleWrite bank v => Sys2Proof.Machine.execPgidleWrite bank v s
  | .slotReassign core => Sys2Proof.Machine.execSlotReassign core s
  | .streamReadAhead uid n => Sys2Proof.Machine.execStreamReadAhead uid n s
  | .folioStoreError idx => Sys2Proof.Machine.execFolioStoreError idx s
  | .getFeatures ver => Sys2Proof.Machine.execGetFeatures ver s
  | .loadFirmware ver image => Sys2Proof.Machine.execLoadFirmware ver image s
  | .loadConfig ver image => Sys2Proof.Machine.execLoadConfig ver image s
  | .createTenant ver desc => Sys2Proof.Machine.execCreateTenant ver desc s
  | .destroyTenant ver tenant => Sys2Proof.Machine.execDestroyTenant ver tenant s
  | .createQueue ver tenant va => Sys2Proof.Machine.execCreateQueue ver tenant va s
  | .destroyQueue ver queue => Sys2Proof.Machine.execDestroyQueue ver queue s
  | .setOwner ver tenant va count owner => Sys2Proof.Machine.execSetOwner ver tenant va count owner s
  | .wakeWrite queue v => Sys2Proof.Machine.execWakeWrite queue v s
  | .progWrite queue cons v => Sys2Proof.Machine.execProgWrite queue cons v s
  | .statusWrite queue v => Sys2Proof.Machine.execStatusWrite queue v s
  | .hostMemRead pa => Sys2Proof.Machine.execHostMemRead pa s
  | .hostMemWrite pa v => Sys2Proof.Machine.execHostMemWrite pa v s
  | .peerRequest port off write v => Sys2Proof.Machine.execPeerRequest port off write v s
  | .bankIdlePrecharge bank => Sys2Proof.Machine.execBankIdlePrecharge bank s
  | .bankRefresh bank => Sys2Proof.Machine.execBankRefresh bank s
  | .backgroundScrub pa => Sys2Proof.Machine.execBackgroundScrub pa s
  | .zeroOnTouchScrub core => Sys2Proof.Machine.execZeroOnTouchScrub core s
  | .laneMarginBelow link lane hmargin vmargin => Sys2Proof.Machine.execLaneMarginBelow link lane hmargin vmargin s
  | .powerFailWarning => Sys2Proof.Machine.execPowerFailWarning s
  | .thermalTrip die => Sys2Proof.Machine.execThermalTrip die s
  | .powerGoodReset => Sys2Proof.Machine.execPowerGoodReset s
  | .hostSnoop pa => Sys2Proof.Machine.execHostSnoop pa s
  | .pwrlimIssueSuppression dusk day => Sys2Proof.Machine.execPwrlimIssueSuppression dusk day s

end Sys2Proof.Machine
end

