-- ==== Sys2Proof/Machine/Schedule.lean ====
section
/-! DEFINITION. Which step comes next: a step of a unit, or the issue of a thread. `sched` says which, and how many cycles pass before it
(R67 leaves the interleaving open; log entry 2). -/

namespace Sys2Proof.Machine

/-- The step that comes next. The steps from `serve` on are those of units whose time the manual leaves open. -/
inductive Move where
  | unit (ev : Instr)
  | issue (uid : Nat) (other : Bool)
  | serve (ws : List Nat)        -- waiters that had to wait for room or for a row operation (R76, R83, R300)
  | accept (queue cons : Nat)    -- a consumer reads ahead of its cursor (R281)
  | input                        -- what comes from outside the cores
  | mailbox                      -- the request in the mailbox (R278)
  | march (core : Nat)           -- the end of a march test (R476)
  | retire (core : Nat)          -- the retirement of a core (R305)
  | boot                         -- step 6 of the reset sequence (R309)
  | checkpoint                   -- steps 2 to 4 of the checkpoint drain (R306)
  | readAhead (uid n : Nat)
  | precharge (bank : Nat)
  | refresh (bank : Nat)
  | scrub (pa : Nat)
  | scrubFolio (idx : Nat)
  | zeroScrub (core : Nat)
  | retrain (link lane : Nat)
  | idle
  deriving DecidableEq, Repr

/-- Posted steps that are due at their cycle, neither earlier nor later. -/
def punctual : Instr → Bool
  | .traceSample _ | .curfewStop _ | .waitTimeOut _ | .linkStall _ | .yieldTimeout _ | .combiningEntryTimeout _ => true
  | _ => false

/-- Posted steps that come before every other step of their cycle, in the order in which they were posted (R320, R331). -/
def prompt : Instr → Bool
  | .pmcWrite _ _ _ | .pmselWrite _ _ _ | .modeWrite _ _ | .dbgcWrite _ _ _ | .fwctlWrite _ _ | .trcctlWrite _ _ => true
  | _ => false

/-! ### When a unit's step can take place -/

/-- The step of a unit can take place now; the step of an object that has gone takes place without effect. -/
def State.enabled (s : State) (ev : Instr) : Bool :=
  match ev with
  | .accessPerformed id => ((s.access? id).map fun a => a.phase != .sent || s.mayArrive a).getD true
  | .faultRecordSend id => ((s.records.find? fun r => r.id == id).map s.recordFits).getD true
  | .longLatencyResult id => ((s.results.find? fun r => r.id == id).map s.mayLand).getD true
  | .deviceMessageEntry id => ((s.devMsgs.find? fun e => e.2.id == id).map fun e => s.deviceRoom e.1 e.2).getD true
  | .translationWalkEnd uid => ((s.thread? uid).map fun t => t.status == .heldFault).getD true
  | .copyCompletion core id => (((s.core core).transfers.find? fun x => x.serial == id).map (s.copyMayGo core)).getD true
  | .gatherRowWrite id => ((s.gathers.find? fun g => g.id == id).map s.gatherMayWrite).getD true
  | .binUpdate id => ((s.sends.find? fun x => x.id == id).map s.sendMayGo).getD true
  | .binRoundOut id => ((s.roundOuts.find? fun r => r.id == id).map s.roundOutMayGo).getD true
  | .rowOperationWrite id => ((s.rowOps.find? fun r => r.id == id).map s.rowMayWrite).getD true
  | .curfewSave id => ((s.curfews.find? fun x => x.id == id).map fun x => x.phase != .stopped || s.mayOut x).getD true
  | .switchIn id => ((s.curfews.find? fun x => x.id == id).map s.mayIn).getD true
  | .coherencePointReached id => ((s.outward.find? fun o => o.id == id).map s.outwardMayGo).getD true
  | .queueHandlerDispatch q => ((s.queue? q).map s.handlerMayGo).getD true
  | _ => true

/-! ### The steps of units that the state calls for -/

/-- The step in which a consumer deals with what it finds at its cursor (R281-R285). -/
def consumerStep (q i : Nat) : Look → Option Instr
  | .none => none
  | .mismatch => some (.seqWaitTimeout q i)
  | .skip => some (.recordSkip q i)
  | .bad _ _ => some (.nop q i)
  | .record kind _ =>
    match kind with
    | 1 => some (.launch q i)
    | 2 => some (.wait q i)
    | 3 => some (.signal q i)
    | 4 => some (.copy q i)
    | 5 => some (.folio q i)
    | _ => some (.nop q i)

/-- The step leads to another state. -/
def State.movedBy (s : State) : Host.Outcome State Fault Refusal → Bool
  | .next s' => decide (s' ≠ s)
  | _ => true

/-- The step of a consumer gets it on: a LAUNCH, SIGNAL, COPY or FOLIO may have to wait (R83, R189, R283, R284). -/
def State.consumerMayGo (s : State) (ev : Instr) : Bool :=
  match ev with
  | .launch q i => s.movedBy (execLaunch q i s)
  | .signal q i => s.movedBy (execSignal q i s)
  | .copy q i => s.movedBy (execCopy q i s)
  | .folio q i => s.movedBy (execFolio q i s)
  | _ => true

/-- The steps of the consumers of queues. -/
def State.consumerMoves (s : State) : List Instr :=
  s.queues.flatMap fun e => (List.range 4).filterMap fun i => (consumerStep e.1 i (s.look e.2 i)).filter s.consumerMayGo

/-- The steps of matrix rows (R206-R224). -/
def State.rowMoves (s : State) : List Instr :=
  (s.rows.filter fun e => e.2.run.isSome).flatMap fun e =>
    let slots := List.range 16
    (if s.mayFeed e.1 then [Instr.feederTake e.1] else []) ++
    ((slots.filter fun j => s.mayUpdate e.1 j).map fun j => Instr.accumulatorUpdate e.1 j) ++
    ((slots.filter fun j => s.mayDrain (rowCore e.1 j)).map fun j => Instr.drainDispatch (rowCore e.1 j)) ++
    (if s.mayComplete e.1 then [Instr.rowOperationComplete e.1] else [])

/-- The threads that have waited on `lnk` for their tenant's limit (R134). -/
def State.stalled (s : State) : List Thread :=
  s.threads.filter fun t => t.status == .blockedRegister && (t.await == .upstream || t.await == .downstream) && !s.frozen t &&
    (t.blockedAt.any fun b => decide (b + (s.tenant t.tenant).linkLimit ≤ s.now))

/-- The step that each object under way waits for. -/
def State.objectMoves (s : State) : List Instr :=
  (s.accesses.filterMap fun a =>
    match a.phase with
    | .sent => some (Instr.accessPerformed a.id)
    | _ => if a.answers && !a.answered then some (Instr.controllerAnswer a.id) else none) ++
  (s.results.map fun r => Instr.longLatencyResult r.id) ++
  (s.records.map fun r => Instr.faultRecordSend r.id) ++
  (s.devMsgs.map fun e => Instr.deviceMessageEntry e.2.id) ++
  ((s.threads.filter fun t => t.stat == .heldFault && ((t.latch.map (·.walk)) == some true)).map fun t => Instr.translationWalkEnd t.uid) ++
  (s.cores.flatMap fun e => e.2.transfers.map fun x => Instr.copyCompletion e.1 x.serial) ++
  (s.gathers.map fun g => Instr.gatherRowWrite g.id) ++
  ((s.sends.filter fun x => !x.buffered).map fun x => Instr.binUpdate x.id) ++
  (s.roundOuts.map fun r => Instr.binRoundOut r.id) ++
  (s.rowOps.map fun r => Instr.rowOperationWrite r.id) ++
  ((s.folios.filter fun e => e.2.state == .loading).map fun e => Instr.folioLoadEnd e.1) ++
  (s.outward.map fun o => Instr.coherencePointReached o.id) ++
  ((s.curfews.filter fun x => x.phase == .stopped).map fun x => Instr.curfewSave x.id) ++
  ((s.curfews.filter fun x => x.phase == .saved || x.phase == .restoring).map fun x => Instr.switchIn x.id) ++
  ((s.queues.filter fun e => e.2.due).map fun e => Instr.queueHandlerDispatch e.1) ++
  ((s.cores.filter fun e => e.2.revoking.isSome).map fun e => Instr.revocation e.1) ++
  (s.stalled.map fun t => Instr.linkStall t.uid)

/-- The cores that hold revoked contexts, or one on its way back. -/
def State.bankCores (s : State) : List Nat := ((s.threads.filter fun t => t.banked || t.status == .restoring).map (·.core)).eraseDups

/-- Steps of units that nothing has posted. -/
def State.unitMoves (s : State) : List Instr :=
  (s.objectMoves.filter fun ev => s.enabled ev && !s.posted ev) ++
  ((s.bankCores.filter fun c => (s.restoring? c).isSome || s.mayRestore c).map fun c => Instr.restoreContext c) ++ s.rowMoves ++ s.consumerMoves

/-- The steal requests that may be sent (R127). -/
def State.stealMoves (s : State) : List Instr :=
  s.tenants.flatMap fun e => (below Config.cores fun c => e.2.hasCore c && s.maySteal c e.1).map fun c => Instr.stealRequest c e.1

/-- The waiters that are owed a service and have room for what they raise. -/
def State.owed (s : State) : List Access := s.accesses.filter fun a => a.order?.isSome && s.servable a && s.watchRoom (s.raisedBy a)

/-- Steps of the firmware, and what comes from outside the cores. -/
def State.outerMoves (s : State) : List Move :=
  (if s.inputMayGo then [Move.input] else []) ++ (if s.front.mboxControl.getLsbD 0 then [Move.mailbox] else []) ++
  ((s.front.marches.filter s.marchOver).map fun m => Move.march m.core) ++
  ((s.front.retiring.filter s.mayRetire).map fun r => Move.retire r.core) ++ (if s.mayCheckpoint then [Move.checkpoint] else []) ++
  (if s.mayBoot then [Move.boot] else [])

/-- Steps that change timing only, or whose time the manual leaves open. -/
def State.quietMoves (s : State) : List Move :=
  (s.owed.map fun a => Move.serve a.words) ++
  (s.queues.flatMap fun e => ((List.range 4).filter fun i => !(s.aheadOf e.2 i).isEmpty).map fun i => Move.accept e.1 i) ++ s.outerMoves ++
  ((s.stealMoves.filter fun ev => !s.posted ev).map Move.unit) ++
  (s.threads.flatMap fun t => ((List.range 8).filter fun n => s.mayReadAhead t n).map fun n => Move.readAhead t.uid n) ++
  (s.front.banks.flatMap fun e =>
    if e.2.openRow.isNone then [] else if s.idleOver e.1 then [Move.precharge e.1, Move.refresh e.1] else [Move.refresh e.1]) ++
  ((s.tags.filter fun e => e.2.ecc != .ok).map fun e => Move.scrub e.1) ++
  ((s.folios.filter fun e => !e.2.ecc.isEmpty).map fun e => Move.scrubFolio e.1) ++
  ((s.cores.filter fun e => !e.2.zot.isEmpty).map fun e => Move.zeroScrub e.1) ++
  ((s.front.margins.filter fun e => e.2.retraining).map fun e => Move.retrain (e.1 / 512) (e.1 % 512))

/-- The issue steps of the present cycle, one a core at most (R51). -/
def State.issueMoves (s : State) : List Move :=
  s.activeCores.filterMap fun c => (s.choose c).map fun x => .issue x.1.uid x.2

/-- The posted steps that can take place now. -/
def State.posts (s : State) : List Instr :=
  (s.pending.filter fun p => decide (p.at_ ≤ s.now) && !punctual p.ev && s.enabled p.ev).map (·.ev)

/-- Every step that can come next. -/
def State.moves (s : State) : List Move :=
  (s.posts ++ s.unitMoves).map Move.unit ++ s.issueMoves ++ s.quietMoves

/-- The earliest posted step that time must not pass. -/
def State.deadline (s : State) (till : Nat) : Option Post :=
  (s.pending.filter fun p => punctual p.ev && decide (p.at_ < till) || prompt p.ev && decide (p.at_ ≤ till)).foldl (fun b p =>
    match b with
    | some q => if p.at_ < q.at_ then some p else some q
    | none => some p) none

def State.dropPost (s : State) (ev : Instr) : State := { s with pending := s.pending.erase ((s.pending.find? fun p => p.ev == ev).getD { at_ := 0, ev := ev }) }

/-- The cycles until something can happen: a posted step, or the end of the spacing of a thread or of its slot (R50). -/
def State.gap (s : State) : Nat :=
  let ts := (s.pending.filter fun p => decide (s.now < p.at_)).map (·.at_) ++
    (s.threads.flatMap fun t =>
      if t.status = .ready then (t.lastIssue.toList ++ (lookup? (s.core t.core).slotIssue t.slot).toList).map (· + 8) else []).filter fun x => decide (s.now < x)
  match ts with
  | [] => 0
  | t :: rest => rest.foldl Nat.min t - s.now

/-- The next step and the state in which it happens. The second slot of a segment is taken right after the first (R206). -/
def State.turn (s : State) : Move × State :=
  match s.halfTaken with
  | some w => (.unit (.feederTake w), s)
  | none =>
  let (k, dt) := s.sched.headD (0, 1)
  let s := { s with sched := s.sched.tail }
  match s.deadline (s.now + dt) with
  | some p => (.unit p.ev, (s.pass (p.at_ - s.now)).dropPost p.ev)
  | none =>
    let s := s.pass dt
    let ms := s.moves
    match ms[k % Nat.max 1 ms.length]? with
    | some (.unit ev) => (.unit ev, s.dropPost ev)
    | some m => (m, s)
    | none => (.idle, s.pass s.gap)

end Sys2Proof.Machine
end

