-- ==== Sys2Proof/Machine/Settle.lean ====
section
/-! DEFINITION. After a step: the threads whose awaited value, space or performance has arrived become ready (R48). -/

namespace Sys2Proof.Machine

/-- A push of a record of the thread's tenant onto the deque of a core need not wait (R126). -/
def State.dequeRoom (s : State) (t : Thread) (c : Nat) : Bool :=
  (s.pushRecord c { pc := 0, g0 := 0, g1 := 0, g2 := 0, g3 := 0, id := 0, stamp := 0, tenant := t.tenant, cls := t.cls, future := false,
                    level := t.level, ecc := .ok, seeder := 0 }).isSome

/-- What a blocked-register thread waits for has arrived. An answer, a RECALL and an MTSR are ended by the unit that completes them. -/
def State.arrived (s : State) (t : Thread) : Bool :=
  match t.await with
  | .nothing => true
  | .reg n => (if n < 48 then (t.reg n).full else !s.resultDue t.uid n) || t.deferred.any fun d => d.dst.contains n
  | .upstream => decide (0 < s.upWords t)
  | .downstream => s.downRoom t
  | .mailbox => !(s.mailWords t).isEmpty
  | .accesses => s.drained t.uid
  | .answer _ => false
  | .relaxedRoom => decide (s.relaxedCount t.uid < Config.relaxedLimit)
  | .engines => !s.enginesBusy t.core t.uid
  | .coherence => !s.incoherent t.uid
  | .sends n => decide (s.sendsOf t.uid < n)
  | .roundOuts => !s.roundOuts.any fun r => r.uid == t.uid
  | .launchRoom => s.launchRoom t.core
  | .mailRoom c => s.mailRoom c || (s.core c).switched.isSome
  | .imageRoom b => s.imageRoom b || !s.images.any fun i => i.live && (areaBlocks i.base i.cores).any fun e => e.1 == b
  | .room ws => s.mayWrite ws
  | .quiet ws => s.mayTouch ws
  | .dequeRoom c => s.dequeRoom t c
  | .accumulator => !(s.core t.core).xqueue.any fun e => e.1 == t.uid
  | .revocation => (s.core t.core).revoking.isNone
  | .recall => false
  | .poolContexts need =>
    decide (need ≤ ((s.dropReserve t.core t.tenant).freePool t.core).length) || ((s.core t.core).revoking.isNone && !(s.choosable t.core t.uid).isEmpty)
  | .streamElement n =>
    !(s.accesses.any fun a => a.uid == t.uid && decide (a.kind = .streamElem n)) || t.deferred.any fun d => d.dst.contains (48 + n)
  | .streamWrites n => s.writesDone t.uid n
  | .sysWrite => false
  | .oldGathers slot => !s.oldGathers t.tenant slot t.waits
  | .coreResults => !s.coreDue t.core
  | .linkDrained => s.downDrained t
  | .invalidated => !t.waits.any s.unperformed
  | .streamPuts n k => decide (s.putsOf t n k ≠ .wait)

/-- Free exact accumulators go to the blocked XACQs of their cores (R167). -/
def State.grantAll (s : State) : State :=
  (s.cores.filter fun e => !e.2.xqueue.isEmpty).foldl (fun s e => s.grantExact e.1 8) s

/-- A member that a YIELD waits for has left the ready state (R472). -/
def State.leftReady (s : State) (uid : Nat) : Bool := ((s.thread? uid).map (·.status)) != some .ready

/-- What a step has made possible: the threads whose wait is over become ready. Those that a curfew has taken look again on their return. -/
def State.settleThread (s : State) (t : Thread) : Thread :=
  let t := { t with yield := t.yield.map fun y => { y with others := y.others.filter fun o => !s.leftReady o } }
  if t.stat = .blockedRegister ∧ s.frozen t = false ∧ s.arrived t = true then t.wake else t

/-- The watch events of the words that units have written in the step (R82, R84), and the service of their waiters (R76). -/
def State.raiseAll (s : State) : State :=
  s.raised.foldl (fun s e => (s.written e.1 (.unit e.2)).serve [e.1]) { s with raised := [] }

/-- Performs the units' stores of the step and raises its watch events, writes its trace records, and wakes the threads whose wait is
over. -/
def State.settle (s : State) : State :=
  let s := (s.tellGangs.flushStores.raiseAll.writeTraces).grantAll
  { s with threads := s.threads.map s.settleThread }

/-- After an issue step: the round-robin places, if the thread of `before` has issued (R51). -/
def State.afterIssue (s before : State) (uid : Nat) (other : Bool) : State :=
  match before.thread? uid with
  | none => s
  | some t => if ((s.core t.core).issued.map (·.uid)) = some uid then s.served (before.classOf t) t other else s

/-- The core on which a word is probed: the first array core, which every instruction can run on. -/
def probeCore : Nat := Config.firstArrayCore

/-- The thread that runs a probed word: a firmware thread, of tenant 0 and at curator level, in standby context 0, whose PC is
the first word of the core's local window (R17, R89, R247). -/
def probeThread (uid slot : Nat) : Thread :=
  Thread.fresh uid (probeCore * 512 + slot) 0 .curator .noon (w64 windowBase) []

/-- Places an instruction word, and the thread that fetches it, so that the next step issues it. -/
def State.placeProbe (s : State) (nbits w : Nat) : State :=
  let slot := (s.core probeCore).standbySlot 0
  let s := (s.store (spadPa probeCore 0) 4 (w % 2 ^ nbits)).setTag (spadPa probeCore 0) Tag.scrubbed
  let s := { s with threads := s.threads.filter (fun t : Thread => !(t.core == probeCore)) ++ [probeThread s.nextUid slot],
                    nextUid := s.nextUid + 1, front := { s.front with tripped := false } }
  let s := s.modCore probeCore fun c => { c with issued := none, stopped := false, switched := none }
  let k := (s.moves.findIdx? fun m => m == Move.issue (s.nextUid - 1) false).getD 0
  { s with sched := (k, 0) :: s.sched }

end Sys2Proof.Machine
end

