-- ==== Sys2Proof/Machine/Step.lean ====
section
/-! DEFINITION. The step of the machine: the next move, its instruction, and the threads that it wakes. -/

namespace Sys2Proof.Machine

/-- Applies a change to a next state. -/
def mapNext (f : State → State) : Host.Outcome State Fault Refusal → Host.Outcome State Fault Refusal
  | .next s => .next (f s)
  | .fault r => .fault r
  | .refused r => .refused r

/-- Carries out the move that comes next, in the state in which it happens. -/
def runMove (m : Move) (s : State) : Host.Outcome State Fault Refusal :=
  match m with
  | .unit ev => mapNext State.settle (exec ev s)
  | .issue uid other =>
    match s.fetch uid with
    | .run i s' => mapNext (fun t => (t.afterIssue s uid other).settle) (exec i s')
    | .stop s' => .next ((s'.afterIssue s uid other).settle)
  | .readAhead uid n => mapNext State.settle (execStreamReadAhead uid n s)
  | .precharge bank => execBankIdlePrecharge bank s
  | .refresh bank => execBankRefresh bank s
  | .serve ws => .next (s.serve ws).settle
  | .accept q i => .next (s.acceptAhead q i).settle
  | .input => .next s.takeInput.settle
  | .mailbox => mapNext State.settle s.serveMailbox
  | .march c => .next (s.endMarch c).settle
  | .retire c => .next (s.endRetire c).settle
  | .checkpoint => .next s.checkpoint.settle
  | .boot => .next s.enterService
  | .scrub pa => mapNext State.settle (execBackgroundScrub pa s)
  | .scrubFolio idx => .next (s.scrubFolio idx).settle
  | .zeroScrub core => execZeroOnTouchScrub core s
  | .retrain link lane => execLaneRetrainingEnd link lane s
  | .idle => .next s

/-- One step of the module. -/
def step (s : State) : Host.Outcome State Fault Refusal := runMove s.turn.1 s.turn.2

/-- `s` with the instruction word `w` placed where the next step fetches it, and a thread that runs it: see log entry 1. -/
def State.withFetchWord (s : State) (nbits w : Nat) : State := s.placeProbe nbits w

end Sys2Proof.Machine
end

