-- ==== Sys2Proof/Safety.lean ====
section
/-! DEFINITION. What the statements say of a run: when an instruction meets nothing but its own checks, what it reads, what completing
it does and leaves alone, and the invariants of a state that every step keeps. -/

namespace Sys2Proof.Machine

/-- The memory has its canonical form. -/
abbrev State.MemOk (s : State) : Prop := Memory.wf s.mem = true

/-! ### Who issues, and under which conditions -/

/-- No comparator of the core is on and no counter of it counts. -/
def Core.Unwatched (c : Core) : Prop := c.dbgc = Vector.replicate 8 0 ∧ c.pmsel = Vector.replicate 8 0

/-- Thread `t` is the one that issues in `s`. It is ready, no trap is due at it, no debug stop or step is pending on it, and no debug
unit of its core looks on. It may stand in a REP body. -/
structure Steady (s : State) (t : Thread) : Prop where
  issues : s.thread? s.cur = some t
  ready : t.status = .ready
  noHit : t.hit = none
  noDeferred : t.deferred = []
  noStop : t.stopPending = false
  noStep : t.stepping = false
  unwatched : (s.core t.core).Unwatched

/-- The instruction `i` issues in `s`: every check of R30 passes, the operands are read, and it knows `c`. `f` says what its register
fields are, and `s1` is the state before the reads. -/
def Runs (s : State) (i : Instr) (f : Thread → Core → Form) (c : Ctx) (s1 : State) : Prop :=
  ∃ t, s.thread? s.cur = some t ∧ s.attempt t (encodeWord i) (f t (s.core t.core)) = .runs c s1

/-- The instruction `i` completes with the effect `e` whenever it issues and `ok` holds of what it knows. -/
def Completes (i : Instr) (f : Thread → Core → Form) (ok : Ctx → State → Prop) (e : Ctx → State → State) : Prop :=
  ∀ s c s1, Runs s i f c s1 → ok c s1 → exec i s = .next (e c s1)

/-- Every access of the thread is performed, its results for streams among them, and no trap of a relaxed access is deferred: an ordering point
goes on at once (R104, R105, R176). -/
def Ctx.Drained (c : Ctx) (s : State) : Prop := c.t.owed = [] ∧ s.drained c.uid = true

/-! ### Operands that can be read and written at once: general registers, `z`, `tm` and stream names (R25-R29) -/

/-- The registers that a field names: two for a pair (R28). -/
def Opnd.regs (o : Opnd) (k : Int) : List Nat := if o.role.pair then [o.num k, o.num k + 1] else [o.num k]

/-- A field that can be read and written at once: it is absent, a stream name to which no result is on its way, `z`, `tm` as a source, or a general register or pair that
the core gives the context, full and without an error where it is read, and awaiting no result where it is written. In a REP body
the number carries the stagger of the pass (R29). -/
def State.Plain (s : State) (t : Thread) (o : Opnd) : Prop :=
  o.role = .off ∨ (o.role = .name ∧ 48 ≤ o.code ∧ o.code < 56 ∧ s.resultDue t.uid o.code = false) ∨ (o.role ≠ .name ∧ o.code = 56) ∨ (o.role = .src ∧ o.code = 59) ∨
    (o.general = true ∧ o.range t.stagger (s.core t.core).regCount = none ∧ o.odd t.stagger = none ∧
      (o.role.reads = true → ∀ n ∈ o.regs t.stagger, (t.reg n).full = true ∧ (t.reg n).ecc = .ok) ∧
      (o.role.writes = true → ∀ n ∈ o.regs t.stagger, (t.reg n).due = false))

/-- What such a source reads as (R25): the register, the timestamp for `tm`, and 0 for `z`. -/
def State.val (s : State) (t : Thread) (o : Opnd) : Word :=
  if o.role.reads = false then 0 else if o.general then (t.reg (o.num t.stagger)).val else if o.code = 59 then s.time t.core else 0

/-- The second register of a pair (R28). -/
def Thread.val2 (t : Thread) (o : Opnd) : Word :=
  if o.role.reads && o.role.pair && o.general then (t.reg (o.num t.stagger + 1)).val else 0

/-- The thread with a result written: the register becomes full; `z` takes nothing (R25). -/
def Thread.give (t : Thread) (o : Opnd) (v : Word) : Thread := if o.general then t.write (o.num t.stagger) v else t

/-- The checks 1 to 3 of R30 that do not concern an operand pass: the instruction is not illegal, the level suffices, and no fallback row
is met in full mode. -/
def Form.Clear (f : Form) (t : Thread) (proving : Bool) : Prop :=
  f.illegal = false ∧ f.denied = false ∧ f.level.num ≤ t.level.num ∧ (f.row = 0 ∨ proving = true)

/-- The instruction of form `f` finds everything at hand. -/
structure Ready (s : State) (t : Thread) (f : Form) : Prop where
  steady : Steady s t
  clear : f.Clear t (s.core t.core).prove
  a : s.Plain t f.a
  b : s.Plain t f.b
  d : s.Plain t f.d

/-! ### What completing an instruction does and leaves alone -/

/-- The thread past its instruction: at its successor, with an empty latch (R57), and with no link-stall count (R134). -/
def Thread.past (t : Thread) : Thread := { t.advance with latch := none, blockedAt := none }

/-- The thread past a branch to `target`, outside every loop (R187). -/
def Thread.pastTo (t : Thread) (target : Word) : Thread := { t.jump target with latch := none, blockedAt := none }

/-- A thread without what the model keeps to schedule it (the cycle and the mode of its last issue, whether it has issued since it was resumed, its YIELD, its waits and its walks)
and without PWARN. -/
def Thread.bare (t : Thread) : Thread :=
  { t with lastIssue := none, stepIssued := false, yield := none, replay := false, phase := 0, await := .nothing, dueTrap := none, proving := false, walked := [],
           pwarn := 0 }

/-- A core without what the model keeps to schedule its issues: what has issued in this cycle, and the last issue of each slot. -/
def Core.bare (c : Core) : Core := { c with issued := none, slotIssue := [] }

/-- From `s` to `s'` the issuing thread `t` became `u` and nothing else changed: no other thread, no byte of memory, no tag, no core, no
tenant, no unit. PWARN changes in proving mode only (R35). -/
structure Only (s s' : State) (t u : Thread) : Prop where
  thread : ∃ t', s'.thread? t.uid = some t' ∧ t'.bare = u.bare ∧ ((s.core t.core).prove = false → t'.pwarn = t.pwarn)
  others : ∀ n, n ≠ t.uid → (s'.thread? n).map Thread.bare = (s.thread? n).map Thread.bare
  cores : ∀ c, (s'.core c).bare = (s.core c).bare
  rest : { s' with threads := [], cores := [] } = { s with threads := [], cores := [] }

/-- From `s` to `s'` the issuing thread `t` became `u`, the rest of the state became that of `m s`, and nothing else changed. -/
structure Makes (s s' : State) (t u : Thread) (m : State → State) : Prop where
  thread : ∃ t', s'.thread? t.uid = some t' ∧ t'.bare = u.bare ∧ ((s.core t.core).prove = false → t'.pwarn = t.pwarn)
  others : ∀ n, n ≠ t.uid → (s'.thread? n).map Thread.bare = (s.thread? n).map Thread.bare
  cores : ∀ c, (s'.core c).bare = ((m s).core c).bare
  rest : { s' with threads := [], cores := [] } = { m s with threads := [], cores := [] }

/-- No access of the thread and no result for a stream of it is left, and its streams have nothing read ahead: an ordering point goes on at once
and discards nothing. -/
def State.Settled (s : State) (t : Thread) : Prop := (∀ a ∈ s.accesses, a.uid ≠ t.uid) ∧ s.pushDue t.uid = false ∧ t.dropAhead = t

/-! ### The scalar instructions: their fields, and their result by thread, ga, gb and gd -/

/-- The conditions of B and CMP (R346, R351): `.eq`, `.ne`, `.lt`, `.ge`, `.ltu` and `.geu`. -/
def cond (c : Nat) (x y : Word) : Bool :=
  (c = 0 && x = y) || (c = 1 && x ≠ y) || (c = 2 && x.toInt < y.toInt) || (c = 3 && x.toInt ≥ y.toInt) || (c = 4 && x.toNat < y.toNat) ||
    (c = 5 && x.toNat ≥ y.toNat)

/-- The integer instructions (R339, R340, R344, R350, R351, R358, R364, R396, R413, R414, R417, R424, R425, R432, R434, R437, R438, R446,
R471). -/
inductive Integer : Instr → Form → (Thread → Word → Word → Word → Word) → Prop
  | add (d a b : BitVec 6) (e f : BitVec 1) : Integer (.add d a b e f) (fmtR d a b e f) (fun _ x y _ => x + y)
  | sub (d a b : BitVec 6) (e f : BitVec 1) : Integer (.sub d a b e f) (fmtR d a b e f) (fun _ x y _ => x - y)
  | and (d a b : BitVec 6) (e f : BitVec 1) : Integer (.and d a b e f) (fmtR d a b e f) (fun _ x y _ => x &&& y)
  | or (d a b : BitVec 6) (e f : BitVec 1) : Integer (.or d a b e f) (fmtR d a b e f) (fun _ x y _ => x ||| y)
  | xor (d a b : BitVec 6) (e f : BitVec 1) : Integer (.xor d a b e f) (fmtR d a b e f) (fun _ x y _ => x ^^^ y)
  | andn (d a b : BitVec 6) (e f : BitVec 1) : Integer (.andn d a b e f) (fmtR d a b e f) (fun _ x y _ => x &&& ~~~y)
  | shl (d a b : BitVec 6) (e f : BitVec 1) : Integer (.shl d a b e f) (fmtR d a b e f) (fun _ x y _ => x <<< (y.toNat % 64))
  | shr (d a b : BitVec 6) (e f : BitVec 1) : Integer (.shr d a b e f) (fmtR d a b e f) (fun _ x y _ => x >>> (y.toNat % 64))
  | sra (d a b : BitVec 6) (e f : BitVec 1) : Integer (.sra d a b e f) (fmtR d a b e f) (fun _ x y _ => x.sshiftRight (y.toNat % 64))
  | rot (d a b : BitVec 6) (e f : BitVec 1) : Integer (.rot d a b e f) (fmtR d a b e f)
    (fun _ x y _ => if y.toNat % 64 = 0 then x else (x <<< (y.toNat % 64)) ||| (x >>> (64 - y.toNat % 64)))
  | min (d a b : BitVec 6) (e f : BitVec 1) : Integer (.min d a b e f) (fmtR d a b e f)
    (fun _ x y _ => if x.toInt ≤ y.toInt then x else y)
  | minU (d a b : BitVec 6) (e f : BitVec 1) : Integer (.minU d a b e f) (fmtR d a b e f)
    (fun _ x y _ => if x.toNat ≤ y.toNat then x else y)
  | max (d a b : BitVec 6) (e f : BitVec 1) : Integer (.max d a b e f) (fmtR d a b e f)
    (fun _ x y _ => if x.toInt ≤ y.toInt then y else x)
  | maxU (d a b : BitVec 6) (e f : BitVec 1) : Integer (.maxU d a b e f) (fmtR d a b e f)
    (fun _ x y _ => if x.toNat ≤ y.toNat then y else x)
  | sel (d a b : BitVec 6) (e f : BitVec 1) : Integer (.sel d a b e f) (fmtR3 d a b e f) (fun _ x y z => if z = 0 then y else x)
  | cmp (d a b : BitVec 6) (e f : BitVec 1) (k : BitVec 3) (h : k.toNat < 6) : Integer (.cmp d a b e f k) (fmtR d a b e f)
    (fun _ x y _ => flagWord (cond k.toNat x y))
  | clz (d a b : BitVec 6) (e f : BitVec 1) : Integer (.clz d a b e f) (fmtR1 d a b e f)
    (fun _ x _ _ => w64 ((List.range 64).takeWhile fun i => !x.toNat.testBit (63 - i)).length)
  | ctz (d a b : BitVec 6) (e f : BitVec 1) : Integer (.ctz d a b e f) (fmtR1 d a b e f)
    (fun _ x _ _ => w64 ((List.range 64).takeWhile fun i => !x.toNat.testBit i).length)
  | popc (d a b : BitVec 6) (e f : BitVec 1) : Integer (.popc d a b e f) (fmtR1 d a b e f)
    (fun _ x _ _ => w64 ((List.range 64).countP fun i => x.toNat.testBit i))
  | ext (d a b : BitVec 6) (e f : BitVec 1) : Integer (.ext d a b e f) (fmtR d a b e f)
    (fun _ x y _ => (x >>> (y.toNat % 64)) &&& w64 (2 ^ (y.toNat / 256 % 64) - 1))
  | ins (d a b : BitVec 6) (e f : BitVec 1) : Integer (.ins d a b e f) (fmtR3 d a b e f)
    (fun _ x y z => (z &&& ~~~(w64 (2 ^ (y.toNat / 256 % 64) - 1) <<< (y.toNat % 64))) |||
      ((x <<< (y.toNat % 64)) &&& (w64 (2 ^ (y.toNat / 256 % 64) - 1) <<< (y.toNat % 64))))
  | addW (d a b : BitVec 6) (e f : BitVec 1) : Integer (.addW d a b e f) (fmtR d a b e f)
    (fun _ x y _ => (x.setWidth 32 + y.setWidth 32).signExtend 64)
  | subW (d a b : BitVec 6) (e f : BitVec 1) : Integer (.subW d a b e f) (fmtR d a b e f)
    (fun _ x y _ => (x.setWidth 32 - y.setWidth 32).signExtend 64)
  | shlW (d a b : BitVec 6) (e f : BitVec 1) : Integer (.shlW d a b e f) (fmtR d a b e f)
    (fun _ x y _ => (x.setWidth 32 <<< (y.toNat % 32)).signExtend 64)
  | shrW (d a b : BitVec 6) (e f : BitVec 1) : Integer (.shrW d a b e f) (fmtR d a b e f)
    (fun _ x y _ => (x.setWidth 32 >>> (y.toNat % 32)).signExtend 64)
  | sraW (d a b : BitVec 6) (e f : BitVec 1) : Integer (.sraW d a b e f) (fmtR d a b e f)
    (fun _ x y _ => ((x.setWidth 32).sshiftRight (y.toNat % 32)).signExtend 64)
  | mul (d a b : BitVec 6) (e f : BitVec 1) : Integer (.mul d a b e f) (fmtR d a b e f) (fun _ x y _ => x * y)
  | mulh (d a b : BitVec 6) (e f : BitVec 1) : Integer (.mulh d a b e f) (fmtR d a b e f)
    (fun _ x y _ => wordI (x.toInt * y.toInt / 2 ^ 64))
  | mulhU (d a b : BitVec 6) (e f : BitVec 1) : Integer (.mulhU d a b e f) (fmtR d a b e f)
    (fun _ x y _ => w64 (x.toNat * y.toNat / 2 ^ 64))
  | mulhSu (d a b : BitVec 6) (e f : BitVec 1) : Integer (.mulhSu d a b e f) (fmtR d a b e f)
    (fun _ x y _ => wordI (x.toInt * y.toNat / 2 ^ 64))
  | div (d a b : BitVec 6) (e f : BitVec 1) : Integer (.div d a b e f) (fmtR d a b e f)
    (fun _ x y _ => if y = 0 then BitVec.allOnes 64 else if x = BitVec.intMin 64 ∧ y = -1 then BitVec.intMin 64
      else wordI (x.toInt.tdiv y.toInt))
  | divU (d a b : BitVec 6) (e f : BitVec 1) : Integer (.divU d a b e f) (fmtR d a b e f)
    (fun _ x y _ => if y = 0 then BitVec.allOnes 64 else w64 (x.toNat / y.toNat))
  | rem (d a b : BitVec 6) (e f : BitVec 1) : Integer (.rem d a b e f) (fmtR d a b e f)
    (fun _ x y _ => if y = 0 then x else if x = BitVec.intMin 64 ∧ y = -1 then 0
      else wordI (x.toInt - y.toInt * x.toInt.tdiv y.toInt))
  | remU (d a b : BitVec 6) (e f : BitVec 1) : Integer (.remU d a b e f) (fmtR d a b e f)
    (fun _ x y _ => if y = 0 then x else w64 (x.toNat % y.toNat))
  | mulW (d a b : BitVec 6) (e f : BitVec 1) : Integer (.mulW d a b e f) (fmtR d a b e f)
    (fun _ x y _ => (x.setWidth 32 * y.setWidth 32).signExtend 64)
  | addImm (d a : BitVec 6) (e : BitVec 1) (i : BitVec 13) : Integer (.addImm d a e i) (fmtI d a e) (fun _ x _ _ => x + i.signExtend 64)
  | andImm (d a : BitVec 6) (e : BitVec 1) (i : BitVec 13) : Integer (.andImm d a e i) (fmtI d a e) (fun _ x _ _ => x &&& i.signExtend 64)
  | orImm (d a : BitVec 6) (e : BitVec 1) (i : BitVec 13) : Integer (.orImm d a e i) (fmtI d a e) (fun _ x _ _ => x ||| i.signExtend 64)
  | xorImm (d a : BitVec 6) (e : BitVec 1) (i : BitVec 13) : Integer (.xorImm d a e i) (fmtI d a e) (fun _ x _ _ => x ^^^ i.signExtend 64)
  | shlImm (d a : BitVec 6) (e : BitVec 1) (r : BitVec 5) (n : BitVec 6) : Integer (.shlImm d a e r n) { fmtI d a e with rsvd := nz r }
    (fun _ x _ _ => x <<< n.toNat)
  | shrImm (d a : BitVec 6) (e : BitVec 1) (r : BitVec 5) (n : BitVec 6) : Integer (.shrImm d a e r n) { fmtI d a e with rsvd := nz r }
    (fun _ x _ _ => x >>> n.toNat)
  | sraImm (d a : BitVec 6) (e : BitVec 1) (r : BitVec 5) (n : BitVec 6) : Integer (.sraImm d a e r n) { fmtI d a e with rsvd := nz r }
    (fun _ x _ _ => x.sshiftRight n.toNat)
  | rotImm (d a : BitVec 6) (e : BitVec 1) (r : BitVec 5) (n : BitVec 6) : Integer (.rotImm d a e r n) { fmtI d a e with rsvd := nz r }
    (fun _ x _ _ => if n = 0 then x else (x <<< n.toNat) ||| (x >>> (64 - n.toNat)))
  | cmpImm (d a : BitVec 6) (e : BitVec 1) (k : BitVec 3) (i : BitVec 10) :
    Integer (.cmpImm d a e k i) { fmtI d a e with row := if 6 ≤ k.toNat then 4 else 0 }
    (fun _ x _ _ => flagWord (cond (if 6 ≤ k.toNat then 0 else k.toNat) x (i.signExtend 64)))
  | lih (d : BitVec 6) (i : BitVec 20) : Integer (.lih d i) (fmtU d) (fun _ _ _ _ => i.signExtend 64 <<< 12)
  | addpc (d : BitVec 6) (i : BitVec 20) : Integer (.addpc d i) (fmtU d) (fun h _ _ _ => h.pc + (i.signExtend 64 <<< 2))

/-- The format of a type field. -/
abbrev fmt (t : BitVec 2) : FpFmt := fmtOf t.toNat
/-- The low bits of a register at a format, and their value (R157). -/
abbrev low (t : BitVec 2) (v : Word) : Nat := lowBits (fmt t).width v
abbrev fp (t : BitVec 2) (v : Word) : FpVal := (fmt t).of v

/-- The floating-point instructions, with the flags they raise (R160-R162, R366-R373, R375, R382, R383, R394, R395). -/
inductive FloatOp : Instr → Form → (Thread → Word → Word → Word → Nat × Flags) → Prop
  | fadd (d a b : BitVec 6) (e f : BitVec 1) (t : BitVec 2) : FloatOp (.fadd d a b e f t) (fpR d a b e f t)
    (fun h x y _ => (fmt t).add h.rm.arith (fp t x) (fp t y))
  | fsub (d a b : BitVec 6) (e f : BitVec 1) (t : BitVec 2) : FloatOp (.fsub d a b e f t) (fpR d a b e f t)
    (fun h x y _ => (fmt t).add h.rm.arith (fp t x) (fp t y).neg)
  | fmul (d a b : BitVec 6) (e f : BitVec 1) (t : BitVec 2) : FloatOp (.fmul d a b e f t) (fpR d a b e f t)
    (fun h x y _ => (fmt t).mul h.rm.arith (fp t x) (fp t y))
  | fma (d a b : BitVec 6) (e f : BitVec 1) (t : BitVec 2) : FloatOp (.fma d a b e f t) (fpR3 d a b e f t)
    (fun h x y z => (fmt t).fma h.rm.arith false (fp t z) (fp t x) (fp t y))
  | fmaN (d a b : BitVec 6) (e f : BitVec 1) (t : BitVec 2) : FloatOp (.fmaN d a b e f t) (fpR3 d a b e f t)
    (fun h x y z => (fmt t).fma h.rm.arith true (fp t z) (fp t x) (fp t y))
  | fdiv (d a b : BitVec 6) (e f : BitVec 1) (t : BitVec 2) : FloatOp (.fdiv d a b e f t) (fpR d a b e f t)
    (fun h x y _ => (fmt t).div h.rm.arith (fp t x) (fp t y))
  | fsqrt (d a b : BitVec 6) (e f : BitVec 1) (t : BitVec 2) : FloatOp (.fsqrt d a b e f t) (fpR1 d a b e f t)
    (fun h x _ _ => (fmt t).sqrt h.rm.arith (fp t x))
  | fmin (d a b : BitVec 6) (e f : BitVec 1) (t : BitVec 2) : FloatOp (.fmin d a b e f t) (fpR d a b e f t)
    (fun _ x y _ => (fmt t).minmax false false (low t x) (low t y))
  | fmax (d a b : BitVec 6) (e f : BitVec 1) (t : BitVec 2) : FloatOp (.fmax d a b e f t) (fpR d a b e f t)
    (fun _ x y _ => (fmt t).minmax true false (low t x) (low t y))
  | fminn (d a b : BitVec 6) (e f : BitVec 1) (t : BitVec 2) : FloatOp (.fminn d a b e f t) (fpR d a b e f t)
    (fun _ x y _ => (fmt t).minmax false true (low t x) (low t y))
  | fmaxn (d a b : BitVec 6) (e f : BitVec 1) (t : BitVec 2) : FloatOp (.fmaxn d a b e f t) (fpR d a b e f t)
    (fun _ x y _ => (fmt t).minmax true true (low t x) (low t y))
  | fsgnJ (d a b : BitVec 6) (e f : BitVec 1) (t : BitVec 2) : FloatOp (.fsgnJ d a b e f t) (fpR d a b e f t)
    (fun _ x y _ => ((fmt t).withSign x ((fmt t).signOf y), 0))
  | fsgnN (d a b : BitVec 6) (e f : BitVec 1) (t : BitVec 2) : FloatOp (.fsgnN d a b e f t) (fpR d a b e f t)
    (fun _ x y _ => ((fmt t).withSign x (!(fmt t).signOf y), 0))
  | fsgnX (d a b : BitVec 6) (e f : BitVec 1) (t : BitVec 2) : FloatOp (.fsgnX d a b e f t) (fpR d a b e f t)
    (fun _ x y _ => ((fmt t).withSign x ((fmt t).signOf x ^^ (fmt t).signOf y), 0))
  | fclass (d a b : BitVec 6) (e f : BitVec 1) (t : BitVec 2) : FloatOp (.fclass d a b e f t) ((fmtR1 d a b e f).fp (some (fmt t)) none)
    (fun _ x _ _ => ((fmt t).classify (low t x), 0))
  | frnd (d a b : BitVec 6) (e f : BitVec 1) (t : BitVec 2) : FloatOp (.frnd d a b e f t) (fpR1 d a b e f t)
    (fun h x _ _ => (fmt t).rint h.rm.arith (fp t x))
  | fcmp (d a b : BitVec 6) (e f : BitVec 1) (k t : BitVec 2) :
    FloatOp (.fcmp d a b e f k t) ((fmtR d a b e f).fp (some (fmt t)) none)
      (fun _ x y _ =>
        (bitNat ((fmt t).compare k.toNat (low t x) (low t y)).1, ((fmt t).compare k.toNat (low t x) (low t y)).2))
  | fcvt (d a : BitVec 6) (r : BitVec 1) (m : BitVec 3) (o : BitVec 2) (e f : BitVec 1) (t : BitVec 2) :
    FloatOp (.fcvt d a r m o e f t)
      ({ Form.plain with a := opA .src a e, d := opD .dst d, rsvd := nz r || nz f, row := if 6 ≤ m.toNat then 6 else 0 }.fp (some (fmt t)) (some (fmt o)))
      (fun h x _ _ => (fmt o).convert (overrideRm h m.toNat) false (fp t x))
  | fcvti (d a b : BitVec 6) (e f : BitVec 1) (t : BitVec 2) : FloatOp (.fcvti d a b e f t) ((fmtR1 d a b e f).fp (some (fmt t)) none)
    (fun h x _ _ => intResult ((fp t x).toInt h.rm (-(2 ^ 63)) (2 ^ 63 - 1)))
  | fcvtiU (d a b : BitVec 6) (e f : BitVec 1) (t : BitVec 2) : FloatOp (.fcvtiU d a b e f t) ((fmtR1 d a b e f).fp (some (fmt t)) none)
    (fun h x _ _ => intResult ((fp t x).toInt h.rm 0 (2 ^ 64 - 1)))
  | icvtf (d a b : BitVec 6) (e f : BitVec 1) (t : BitVec 2) : FloatOp (.icvtf d a b e f t) ((fmtR1 d a b e f).fp none (some (fmt t)))
    (fun h x _ _ => (fmt t).ofInt h.rm x.toInt)
  | icvtfU (d a b : BitVec 6) (e f : BitVec 1) (t : BitVec 2) : FloatOp (.icvtfU d a b e f t) ((fmtR1 d a b e f).fp none (some (fmt t)))
    (fun h x _ _ => (fmt t).ofInt h.rm x.toNat)

/-! ### Vectors -/

/-- The vector instructions with one result element a lane, by thread and the elements of ga, gb and gd (R456, R457, R459). -/
inductive Elementwise : Instr → Form → Nat → (Thread → Nat → Nat → Nat → Nat × Flags) → Prop
  | vaddF (d a b : BitVec 6) (e f : BitVec 1) (t : BitVec 2) : Elementwise (.vaddF d a b e f t) (fmtR d a b e f) (fmt t).width
    (fun h x y _ => (fmt t).add h.rm.arith ((fmt t).unpack x) ((fmt t).unpack y))
  | vsubF (d a b : BitVec 6) (e f : BitVec 1) (t : BitVec 2) : Elementwise (.vsubF d a b e f t) (fmtR d a b e f) (fmt t).width
    (fun h x y _ => (fmt t).add h.rm.arith ((fmt t).unpack x) ((fmt t).unpack y).neg)
  | vmulF (d a b : BitVec 6) (e f : BitVec 1) (t : BitVec 2) : Elementwise (.vmulF d a b e f t) (fmtR d a b e f) (fmt t).width
    (fun h x y _ => (fmt t).mul h.rm.arith ((fmt t).unpack x) ((fmt t).unpack y))
  | vfma (d a b : BitVec 6) (e f : BitVec 1) (t : BitVec 2) : Elementwise (.vfma d a b e f t) (fmtR3 d a b e f) (fmt t).width
    (fun h x y z => (fmt t).fma h.rm.arith false ((fmt t).unpack z) ((fmt t).unpack x) ((fmt t).unpack y))
  | vfmaN (d a b : BitVec 6) (e f : BitVec 1) (t : BitVec 2) : Elementwise (.vfmaN d a b e f t) (fmtR3 d a b e f) (fmt t).width
    (fun h x y z => (fmt t).fma h.rm.arith true ((fmt t).unpack z) ((fmt t).unpack x) ((fmt t).unpack y))
  | vminF (d a b : BitVec 6) (e f : BitVec 1) (t : BitVec 2) : Elementwise (.vminF d a b e f t) (fmtR d a b e f) (fmt t).width
    (fun _ x y _ => (fmt t).minmax false false x y)
  | vmaxF (d a b : BitVec 6) (e f : BitVec 1) (t : BitVec 2) : Elementwise (.vmaxF d a b e f t) (fmtR d a b e f) (fmt t).width
    (fun _ x y _ => (fmt t).minmax true false x y)
  | vminn (d a b : BitVec 6) (e f : BitVec 1) (t : BitVec 2) : Elementwise (.vminn d a b e f t) (fmtR d a b e f) (fmt t).width
    (fun _ x y _ => (fmt t).minmax false true x y)
  | vmaxn (d a b : BitVec 6) (e f : BitVec 1) (t : BitVec 2) : Elementwise (.vmaxn d a b e f t) (fmtR d a b e f) (fmt t).width
    (fun _ x y _ => (fmt t).minmax true true x y)
  | vcmpEqF (d a b : BitVec 6) (e f : BitVec 1) (t : BitVec 2) : Elementwise (.vcmpEqF d a b e f t) (fmtR d a b e f) (fmt t).width
    (fun _ x y _ => (if ((fmt t).compare 0 x y).1 then 2 ^ (fmt t).width - 1 else 0, ((fmt t).compare 0 x y).2))
  | vcmpLtF (d a b : BitVec 6) (e f : BitVec 1) (t : BitVec 2) : Elementwise (.vcmpLtF d a b e f t) (fmtR d a b e f) (fmt t).width
    (fun _ x y _ => (if ((fmt t).compare 1 x y).1 then 2 ^ (fmt t).width - 1 else 0, ((fmt t).compare 1 x y).2))
  | vcmpLeF (d a b : BitVec 6) (e f : BitVec 1) (t : BitVec 2) : Elementwise (.vcmpLeF d a b e f t) (fmtR d a b e f) (fmt t).width
    (fun _ x y _ => (if ((fmt t).compare 2 x y).1 then 2 ^ (fmt t).width - 1 else 0, ((fmt t).compare 2 x y).2))
  | vselF (d a b : BitVec 6) (e f : BitVec 1) (t : BitVec 2) : Elementwise (.vselF d a b e f t) (fmtR d a b e f) (fmt t).width
    (fun _ x y _ => (if (List.range (fmt t).width).any x.testBit then y else 0, 0))
  | vaddI (d a b : BitVec 6) (e f : BitVec 1) (w : BitVec 2) : Elementwise (.vaddI d a b e f w) (fmtR d a b e f) (64 / 2 ^ w.toNat)
    (fun _ x y _ => (((BitVec.ofNat (64 / 2 ^ w.toNat) x) + (BitVec.ofNat (64 / 2 ^ w.toNat) y)).toNat, 0))
  | vsubI (d a b : BitVec 6) (e f : BitVec 1) (w : BitVec 2) : Elementwise (.vsubI d a b e f w) (fmtR d a b e f) (64 / 2 ^ w.toNat)
    (fun _ x y _ => (((BitVec.ofNat (64 / 2 ^ w.toNat) x) - (BitVec.ofNat (64 / 2 ^ w.toNat) y)).toNat, 0))
  | vmulI (d a b : BitVec 6) (e f : BitVec 1) (w : BitVec 2) : Elementwise (.vmulI d a b e f w) (fmtR d a b e f) (64 / 2 ^ w.toNat)
    (fun _ x y _ => (((BitVec.ofNat (64 / 2 ^ w.toNat) x) * (BitVec.ofNat (64 / 2 ^ w.toNat) y)).toNat, 0))
  | vminI (d a b : BitVec 6) (e f : BitVec 1) (w : BitVec 2) : Elementwise (.vminI d a b e f w) (fmtR d a b e f) (64 / 2 ^ w.toNat)
    (fun _ x y _ => (if (BitVec.ofNat (64 / 2 ^ w.toNat) x).toInt ≤ (BitVec.ofNat (64 / 2 ^ w.toNat) y).toInt then x else y, 0))
  | vmaxI (d a b : BitVec 6) (e f : BitVec 1) (w : BitVec 2) : Elementwise (.vmaxI d a b e f w) (fmtR d a b e f) (64 / 2 ^ w.toNat)
    (fun _ x y _ => (if (BitVec.ofNat (64 / 2 ^ w.toNat) x).toInt ≤ (BitVec.ofNat (64 / 2 ^ w.toNat) y).toInt then y else x, 0))
  | vand (d a b : BitVec 6) (e f : BitVec 1) (w : BitVec 2) : Elementwise (.vand d a b e f w) (fmtR d a b e f) (64 / 2 ^ w.toNat)
    (fun _ x y _ => (x &&& y, 0))
  | vor (d a b : BitVec 6) (e f : BitVec 1) (w : BitVec 2) : Elementwise (.vor d a b e f w) (fmtR d a b e f) (64 / 2 ^ w.toNat)
    (fun _ x y _ => (x ||| y, 0))
  | vxor (d a b : BitVec 6) (e f : BitVec 1) (w : BitVec 2) : Elementwise (.vxor d a b e f w) (fmtR d a b e f) (64 / 2 ^ w.toNat)
    (fun _ x y _ => (x ^^^ y, 0))
  | vshl (d a b : BitVec 6) (e f : BitVec 1) (w : BitVec 2) : Elementwise (.vshl d a b e f w) (fmtR d a b e f) (64 / 2 ^ w.toNat)
    (fun _ x y _ => (((BitVec.ofNat (64 / 2 ^ w.toNat) x) <<< (y % (64 / 2 ^ w.toNat))).toNat, 0))
  | vshr (d a b : BitVec 6) (e f : BitVec 1) (w : BitVec 2) : Elementwise (.vshr d a b e f w) (fmtR d a b e f) (64 / 2 ^ w.toNat)
    (fun _ x y _ => (x >>> (y % (64 / 2 ^ w.toNat)), 0))
  | vshrA (d a b : BitVec 6) (e f : BitVec 1) (w : BitVec 2) : Elementwise (.vshrA d a b e f w) (fmtR d a b e f) (64 / 2 ^ w.toNat)
    (fun _ x y _ => (((BitVec.ofNat (64 / 2 ^ w.toNat) x).sshiftRight (y % (64 / 2 ^ w.toNat))).toNat, 0))
  | vcmpEqI (d a b : BitVec 6) (e f : BitVec 1) (w : BitVec 2) : Elementwise (.vcmpEqI d a b e f w) (fmtR d a b e f) (64 / 2 ^ w.toNat)
    (fun _ x y _ => (if x = y then 2 ^ (64 / 2 ^ w.toNat) - 1 else 0, 0))
  | vcmpLtI (d a b : BitVec 6) (e f : BitVec 1) (w : BitVec 2) : Elementwise (.vcmpLtI d a b e f w) (fmtR d a b e f) (64 / 2 ^ w.toNat)
    (fun _ x y _ => (if (BitVec.ofNat (64 / 2 ^ w.toNat) x).toInt < (BitVec.ofNat (64 / 2 ^ w.toNat) y).toInt then 2 ^ (64 / 2 ^ w.toNat) - 1 else 0, 0))
  | vselI (d a b : BitVec 6) (e f : BitVec 1) (w : BitVec 2) : Elementwise (.vselI d a b e f w) (fmtR d a b e f) (64 / 2 ^ w.toNat)
    (fun _ x y _ => (if x = 0 then 0 else y, 0))

  | vsf (d a : BitVec 6) (r : BitVec 4) (t : BitVec 2) (e f : BitVec 1) (u : BitVec 4) : Elementwise (.vsf d a r t e f u)
    { Form.plain with a := opA .src a e, d := opD .dst d, rsvd := nz r || nz f, illegal := decide (8 ≤ u.toNat) } (fmt t).width
    (fun h x _ _ => (fmt t).vsf t.toNat u.toNat h.rm.arith x)

/-- The reductions (R458), with what joins two values. -/
inductive Reduces : Instr → Form → Nat → (Thread → Nat → Nat → Nat × Flags) → Prop
  | vred (d a b : BitVec 6) (e f : BitVec 1) (t : BitVec 2) : Reduces (.vred d a b e f t) (fmtR1 d a b e f) (fmt t).width
    (fun h x y => (fmt t).add h.rm.arith ((fmt t).unpack x) ((fmt t).unpack y))
  | vredMax (d a b : BitVec 6) (e f : BitVec 1) (t : BitVec 2) : Reduces (.vredMax d a b e f t) (fmtR1 d a b e f) (fmt t).width
    (fun _ x y => (fmt t).minmax true false x y)
  | vredMin (d a b : BitVec 6) (e f : BitVec 1) (t : BitVec 2) : Reduces (.vredMin d a b e f t) (fmtR1 d a b e f) (fmt t).width
    (fun _ x y => (fmt t).minmax false false x y)
  | vredW (d a b : BitVec 6) (e f : BitVec 1) (w : BitVec 2) : Reduces (.vredW d a b e f w) (fmtR1 d a b e f) (64 / 2 ^ w.toNat)
    (fun _ x y => ((x + y) % 2 ^ (64 / 2 ^ w.toNat), 0))

/-- A form whose operands the vector unit takes itself. -/
def Form.vec (f : Form) : Form := { f with vector := true }

/-- The form without its destination: the beats of a reduction are taken before its result is written. -/
def Form.sources (f : Form) : Form := { f with d := { f.d with role := .off } }

/-! ### Accesses -/

/-- The address checks of a data access pass, and it reaches the physical address `pa` (R72, R74, R94, R145): the address is in the
virtual space, a multiple of the size, translated with the permissions, tagged where that is asked, and in no range that is no longer lent. -/
def Ctx.Reaches (c : Ctx) (s : State) (va : Word) (n : Nat) (rd wr tag : Bool) (pa : Nat) : Prop :=
  va.toNat < windowEnd ∧ va.toNat % n = 0 ∧ s.reach c.t va.toNat n rd wr = .ok pa ∧ (tag = true → tagged pa = true) ∧
    s.lostByte c.t pa n = none

/-- The instruction's own write of the word at `va` goes ahead at `pa`, in the state `q` that the recall of a lent range and the check of the
word leave (R120, R121): the address checks pass, nothing refuses the access, the word is not poisoned unless it is replaced, and
its watch messages have room. -/
def Ctx.Writes (c : Ctx) (s p : State) (va : Word) (overwrites : Bool) (pa : Nat) (q : State) : Prop :=
  c.Reaches s va 8 false true true pa ∧ s.firewalled pa c.t.tenant = none ∧
    s.refusesAt pa (some c.t) c.t.tenant (c.t.level == .curator) = false ∧ q = (p.recallBy c.t pa).checkEcc pa ∧
    (q.poisoned pa = true → overwrites = true) ∧ q.mayWrite [pa] = true

/-- The pages of a range of WATCH or UNWATCH are found, with WR and in tagged memory, through the translation buffer and for the tenant for which
the thread acts (R58, R81, R316, R454, R465). -/
def State.watchRange (s : State) (t : Thread) (va len : Nat) (ps : List (Nat × Nat × Nat)) : Prop :=
  s.threadPages t.acting va len .write = .ok ps ∧ ∀ x ∈ ps, tagged x.2.1 = true

/-- Core `k` has no task record to place: none in its deque, and none in an overflow area. -/
def State.Workless (s : State) (k : Nat) : Prop := (s.core k).deque = [] ∧ ∀ e ∈ s.tenants, e.2.ovfCount = 0

/-- The `n` words of the descriptor at `pa` can be read and are `ws`; the reads leave `q`, and with the operands popped `p` (R85, R86). -/
def Ctx.Finds (c : Ctx) (s : State) (va : Word) (pa n : Nat) (ws : List Word) (q p : State) : Prop :=
  ∀ k, c.readWords s va pa n k = k ws q p

/-- The instruction of form `f` that thread `t` issues in `s` knows `c`: the thread as it is, the values of its operands, and the state after
its reads, in which nothing but the marks of the issue has changed. -/
structure Issued (s : State) (t : Thread) (f : Form) (c : Ctx) : Prop where
  uid : c.uid = t.uid
  thread : c.t = t
  a : c.a = s.val t f.a
  b : c.b = s.val t f.b
  d : c.d = s.val t f.d
  keeps : Only s c.popped t t

/-- The `n` words that an instruction of `t` reads at `va` are at hand and are `ws`: they lie in DRAM from `pa` on, where the thread may read,
and with `wr` write, them, nothing is wrong with them, and nothing is owed at them. -/
structure State.Descriptor (s : State) (t : Thread) (va : Word) (n : Nat) (wr : Bool) (pa : Nat) (ws : List Word) : Prop where
  space : va.toNat < windowEnd
  aligned : va.toNat % (8 * n) = 0
  reached : s.reach t va.toNat (8 * n) true wr = .ok pa
  sound : ∀ k < n, regionOf (pa + 8 * k) = .dram ∧ s.poisoned (pa + 8 * k) = false ∧ s.eccOf (pa + 8 * k) = .ok
  quiet : s.mayTouch ((List.range n).map fun k => pa + 8 * k) = true
  words : ws = (List.range n).map fun k => s.word (pa + 8 * k)

/-- The access may issue, from the state `p`: a relaxed one when fewer than 8 and no HALLOC.nf are
outstanding, another when none is and no trap is deferred;
what streams have read ahead is discarded then (R104, R106, R184). An access whose operands are popped at its answer leaves without that (R57,
R251). -/
def Ctx.MayBegin (c : Ctx) (s : State) (a : Access) (p : State) : Prop :=
  let q := if { a with word := c.raw }.popsLate then s.issued c.uid c.raw else c.popped
  if a.relaxed then s.allocBusy c.uid = false ∧ s.relaxedCount c.uid < 8 ∧ p = q else c.Drained s ∧ p = q.dropReadAhead c.uid

/-- The access as it leaves: with its serial number, its thread and its instruction. -/
def Ctx.numbered (c : Ctx) (p : State) (a : Access) : Access :=
  { a with id := p.nextId, uid := c.uid, word := c.raw, shown := c.shown, rsvd := c.rsvd, row := c.row }

/-- The instructions that make one access: the fields, the address, the bytes, the permissions, whether only tagged memory will do, and the
access (R24, R326, R341, R348, R407, R408, R410, R441, R445, R450, R451). -/
inductive Accesses : Instr → Form → (Ctx → Word) → Nat → Bool → Bool → Bool → (Ctx → Nat → Access) → Prop
  | ld (t b : BitVec 6) (e : BitVec 1) (m : BitVec 2) (r : BitVec 1) (z : BitVec 2) (x : BitVec 1) (o : BitVec 7) (mode : Nat)
      (h : mode = if m = 3 ∨ z ≠ 3 then 0 else m.toNat) :
    Accesses (.ld t b e m r z x o)
      { Form.plain with a := opBase b e, d := opD .gdst t, rsvd := decide (z = 3) && nz x, row := loadRow m.toNat z.toNat }
      (fun c => c.a + (o.signExtend 64 <<< z.toNat)) (2 ^ z.toNat) true (mode == 2) (mode != 0)
      (fun c pa => { Access.blank .load (c.a + (o.signExtend 64 <<< z.toNat)) pa with
        mode := mode, size := z.toNat, signed := decide (z ≠ 3) && nz x, relaxed := nz r, dst := c.dst? })
  | st (t b : BitVec 6) (e : BitVec 1) (m : BitVec 2) (r : BitVec 1) (z : BitVec 2) (x : BitVec 1) (o : BitVec 7) (mode : Nat)
      (h : mode = if z ≠ 3 then 0 else m.toNat) :
    Accesses (.st t b e m r z x o)
      { Form.plain with a := opBase b e, d := opD .gsrc t, rsvd := nz x, row := storeRow m.toNat z.toNat }
      (fun c => c.a + (o.signExtend 64 <<< z.toNat)) (2 ^ z.toNat) false true (mode != 0)
      (fun c pa => { Access.blank .store (c.a + (o.signExtend 64 <<< z.toNat)) pa with
        mode := mode, size := z.toNat, relaxed := nz r, val := c.d })
  | ldp (t b : BitVec 6) (e : BitVec 1) (m : BitVec 2) (r : BitVec 1) (z : BitVec 2) (x : BitVec 1) (o : BitVec 7) (mode : Nat)
      (h : mode = if m = 3 then 0 else m.toNat) :
    Accesses (.ldp t b e m r z x o)
      { Form.plain with a := opBase b e, d := opD .dstPair t, rsvd := nz x, row := loadPairRow m.toNat z.toNat }
      (fun c => c.a + (o.signExtend 64 <<< 3)) 16 true (mode == 2) (mode != 0)
      (fun c pa => { Access.blank .loadPair (c.a + (o.signExtend 64 <<< 3)) pa with mode := mode, relaxed := nz r, dst := c.dst? })
  | stp (t b : BitVec 6) (e : BitVec 1) (m : BitVec 2) (r : BitVec 1) (z : BitVec 2) (x : BitVec 1) (o : BitVec 7) :
    Accesses (.stp t b e m r z x o)
      { Form.plain with a := opBase b e, d := opD .srcPair t, rsvd := nz x, row := storePairRow z.toNat }
      (fun c => c.a + (o.signExtend 64 <<< 3)) 16 false true (m != 0)
      (fun c pa => { Access.blank .storePair (c.a + (o.signExtend 64 <<< 3)) pa with
        mode := m.toNat, relaxed := nz r, val := c.d, val2 := c.d2 })
  | amo (d a b : BitVec 6) (e f r g : BitVec 1) (o : BitVec 4) :
    Accesses (.amo d a b e f r g o) { Form.plain with a := opA .src a e, b := opB .src b f, d := opD .dst d } (fun c => c.a) 8 true true true
      (fun c pa => { Access.blank (.amo o.toNat) c.a pa with mode := g.toNat, relaxed := nz r, val := c.b, dst := c.dst? })
  | cas (d a b : BitVec 6) (e f r g : BitVec 1) :
    Accesses (.cas d a b e f r g) { Form.plain with a := opA .src a e, b := opB .srcPair b f, d := opD .dst d } (fun c => c.a) 8 true true true
      (fun c pa => { Access.blank .cas c.a pa with mode := g.toNat, relaxed := nz r, val := c.b, val2 := c.b2, dst := c.dst? })
  | tagrd (d a b : BitVec 6) (e f : BitVec 1) :
    Accesses (.tagrd d a b e f) { Form.plain with a := opA .src a e, d := opD .dst d, rsvd := nz b || nz f } (fun c => c.a) 8 true false true
      (fun c pa => { Access.blank .tagrd c.a pa with dst := c.dst? })
  | tagset (d a b : BitVec 6) (e f : BitVec 1) :
    Accesses (.tagset d a b e f) { Form.plain with a := opA .src a e, b := opB .src b f, rsvd := nz d } (fun c => c.a) 8 false true true
      (fun c pa => { Access.blank .tagset c.a pa with val := c.b })

end Sys2Proof.Machine
end

