-- ==== Sys2Proof/WellFormed.lean ====
section
/-! DEFINITION. Which terms are instructions: the field values of an instruction word that the opcode map leaves unassigned are no
instruction (R323, R324). The steps of units, firmware and host have no word and no such field. -/

namespace Sys2Proof

/-- CMP, register form: conditions 6 and 7 are unassigned function codes (R351, R324). -/
def cmpOk (k : BitVec 3) : Bool := decide (k.toNat < 6)

/-- AMO: operations 9 to 15 are unassigned (R342, R324). -/
def amoOk (o : BitVec 4) : Bool := decide (o.toNat < 9)

/-- VPERM: patterns 6 to 15 are unassigned (R463, R324). -/
def vpermOk (p : BitVec 4) : Bool := decide (p.toNat < 6)

/-- VSF: functions 8 to 15 are unassigned (R464, R324). -/
def vsfOk (u : BitVec 4) : Bool := decide (u.toNat < 8)

/-- XACQ and XREL: the name is xa0 to xa7 (R167). -/
def nameOk (n : BitVec 6) : Bool := decide (n.toNat < 8)

/-- The term is an instruction. -/
def Instr.wellFormed : Instr → Bool
  | .cmp _ _ _ _ _ k => cmpOk k
  | .amo _ _ _ _ _ _ _ o => amoOk o
  | .vperm _ _ _ _ _ p => vpermOk p
  | .vsf _ _ _ _ _ _ u => vsfOk u
  | .xacq n _ _ _ _ => nameOk n
  | .xrel n _ _ _ _ => nameOk n
  | _ => true

end Sys2Proof
end

