-- ==== Sys2Proof/Certificates/Slice0/Obligations.lean ====
section
/-! DEFINITION. The statements about this model. -/

open Sys2Proof Sys2Proof.Machine

/-- For each of the 192 instructions that have a word, with every operand at every value its field admits: decoding its four bytes, followed
by any bytes, gives that instruction and those bytes. (R21, R22, R323, R324, 02_encoding_and_assembly) -/
def Obligations.DecodeOfEncodeIsIdentity : Prop :=
  ∀ (i : Instr) (rest : List Byte), hasWord i = true → i.wellFormed = true → decode (encode i ++ rest) = .ok (i, rest)

/-- Whenever the decoder reads an instruction from a word, the instruction has a word and is well-formed, and encoding it gives the same 32
bits: two words never decode to one instruction, and reserved fields are kept. (R22, R323, R324, 02_encoding_and_assembly) -/
def Obligations.EncodeOfDecodeIsIdentity : Prop :=
  ∀ (w : InstWord) (i : Instr), decodeWord w = .ok i → hasWord i = true ∧ i.wellFormed = true ∧ encodeWord i = w

/-- Whatever its other bits, a word whose bits 31:26 are 0x00 or one of the reserved majors of the opcode map is refused by the decoder,
with the name of the reason. (R323, 15_opcode_and_register_maps) -/
def Obligations.ReservedMajorsAreNoInstruction : Prop :=
  ∀ w : InstWord,
    (bits w.toNat 26 6 = 0 → decodeWord w = .error .majorZero) ∧
    (bits w.toNat 26 6 ∈ [0x0B, 0x0C, 0x0D, 0x0E, 0x0F, 0x1F, 0x23, 0x26, 0x27, 0x2B, 0x2D, 0x2E, 0x2F, 0x30, 0x31, 0x32, 0x33, 0x34, 0x35,
        0x36, 0x37, 0x38, 0x39, 0x3A, 0x3B] → decodeWord w = .error .reservedMajor)

/-- ADD g3, g1, g2; ADD g1, g1, -1; LD g5 from g2 with offset 8; B.ne g1, g2, -2 words; J forward 4 words; MFSR g7 of system register 0x003;
and HINT 0, each written out bit by bit, decode to those instructions. (R22, R23, R24, R323, R324, R339, R397, R407,
15_opcode_and_register_maps) -/
def Obligations.WordsFromTheEncodingTables : Prop :=
  decodeWord 0b000001_000011_000001_000010_0_0_000000 = .ok (.add 3 1 2 0 0) ∧
  decodeWord 0b000011_000001_000001_0_1111111111111 = .ok (.addImm 1 1 0 0x1FFF) ∧
  decodeWord 0b010000_000101_000010_0_00_0_11_0_0000001 = .ok (.ld 5 2 0 0 0 3 0 1) ∧
  decodeWord 0b011000_000001_000010_001_11111111110 = .ok (.b 1 2 1 0x7FE) ∧
  decodeWord 0b011001_00000000000000000000000100 = .ok (.j 4) ∧
  decodeWord 0b111101_000111_111000_0_0000000000011 = .ok (.mfsr 7 56 0 3) ∧
  decodeWord 0b111111_00000000000000000000000000 = .ok (.hint 0)

/-- When the next move is an issue of a thread and no trap is due, the step executes the decoded instruction at that state and then wakes
what it made ready: the instruction comes from the four bytes at the PC, in a REP body from the buffered body word, and at a replay from the
latch. When the next move is a step of a unit, the step executes that. (R21, R50, R51, R57, R108, R186, 03_barrel_core) -/
def Obligations.StepRunsTheDecodedInstruction : Prop :=
  (∀ (s : State) (uid : Nat) (other : Bool) (t : Thread) (i : Instr), s.turn.1 = .issue uid other →
      let s1 := { s.turn.2 with cur := uid }
      s1.thread? uid = some t → t.ecc ≠ .double → t.dueTrap = none →
      (t.latch = none ∧ t.rep = none ∧ (∃ pa, s1.resolve t.viewer t.pc.toNat 4 .fetch = .ok pa ∧ s1.unreadable pa = false ∧
          decode (Memory.readBytes s1.mem pa 4) = .ok (i, [])) ∨
        t.latch = none ∧ (∃ r w, t.rep = some r ∧ r.body[r.idx]? = some w ∧ decodeWord w = .ok i) ∨
        (∃ l, t.latch = some l ∧ l.trapped = false ∧ l.fetch = false ∧ t.replay = true ∧ decodeWord l.word = .ok i)) →
      step s = mapNext (fun t => (t.afterIssue s.turn.2 uid other).settle) (exec i s1)) ∧
  (∀ (s : State) (ev : Instr), s.turn.1 = .unit ev → step s = mapNext State.settle (exec ev s.turn.2))

/-- From every state whose memory lists rising addresses and no byte equal to what an unlisted address reads as, whether or not a run
reaches it, a step that answers a next state answers one whose memory has the same form. (R68, R69, 04_tagged_memory) -/
def Obligations.MemoryFormKeptByEveryStep : Prop :=
  ∀ s s' : State, s.MemOk → step s = .next s' → s'.MemOk

/-- The model starts after step 5 of R309 (log entry 5). There memory has its canonical form; every core is in proving mode; and every
tagged word reads zero with P = 1, W = 0 and no poison. That no context holds a thread, that the time is 0 and that every core is in full
mode hold too. (R32, R61, R68, R309) -/
def Obligations.ResetState : Prop :=
  State.reset.MemOk ∧ (∀ c, (State.reset.core c).prove = true) ∧ (∀ c, (State.reset.core c).deep = false) ∧
  (∀ pa, tagged pa = true → State.reset.byte pa = 0 ∧ (State.reset.tag pa).p = true ∧ (State.reset.tag pa).w = false ∧
    State.reset.poisoned pa = false) ∧
  State.reset.threads = [] ∧ State.reset.now = 0

/-- At the issue of an instruction of form f by a thread on which no comparator has hit: a form that is illegal, or a field with a forbidden
code, traps illegal instruction; else a level too low traps privilege; else a fallback row in service mode traps illegal modifier
combination; else the first field in the order ra, rb, rd outside the allocated count traps register range with its number; else the first
odd pair traps misaligned register pair with its number. (R25, R28, R30, R31, R33, 02_encoding_and_assembly) -/
def Obligations.ChecksDecideInOrder : Prop :=
  ∀ (s : State) (t : Thread) (f : Form) (raw : InstWord), t.hit = none →
    let stop (c : BitVec 8) (v : Word) : Prop := s.attempt t raw f = .stops (s.trapAt t c v raw (f.show t.stagger raw))
    let fields := [f.a, f.b, f.d]
    let count := (s.core t.core).regCount
    ((f.illegal = true ∨ ∃ o ∈ fields, o.allowed = false) → stop 0x01 0) ∧
    (f.illegal = false → (∀ o ∈ fields, o.allowed = true) →
      ((f.denied = true ∨ t.level.num < f.level.num) → stop 0x03 f.privVal) ∧
      (f.denied = false → f.level.num ≤ t.level.num →
        (f.row ≠ 0 → (s.core t.core).prove = false → stop 0x02 0) ∧
        ((f.row = 0 ∨ (s.core t.core).prove = true) →
          (∀ pre o post v, fields = pre ++ o :: post → (∀ p ∈ pre, p.range t.stagger count = none) → o.range t.stagger count = some v →
            stop 0x04 v) ∧
          ((∀ o ∈ fields, o.range t.stagger count = none) →
            ∀ pre o post v, fields = pre ++ o :: post → (∀ p ∈ pre, p.odd t.stagger = none) → o.odd t.stagger = some v → stop 0x05 v))))

/-- In every pass of a REP body, a register field that holds a code from 0 to 47 names that code plus pass times stride, and any other field
names its code; and in every pass a staggered number below 0 or at or above the allocated count fails the range check with that number, and
one in range passes it. (R29) -/
def Obligations.StaggerOnlyGeneralRegisters : Prop :=
  ∀ (t : Thread) (r : Rep) (o : Opnd) (count : Nat), t.rep = some r → o.role ≠ .off → o.role ≠ .name →
    (o.code < 48 → o.at t.stagger = o.code + r.pass * r.stride.toInt) ∧ (48 ≤ o.code → o.at t.stagger = o.code) ∧
    (o.code < 48 → (o.code + r.pass * r.stride.toInt < 0 ∨ count ≤ o.code + r.pass * r.stride.toInt) →
      o.range t.stagger count = some (wordI (o.code + r.pass * r.stride.toInt))) ∧
    (o.code < 48 → o.role.pair = false → 0 ≤ o.code + r.pass * r.stride.toInt → o.code + r.pass * r.stride.toInt < count →
      o.range t.stagger count = none)

/-- For a pair field, at no stagger: codes 48 to 59 other than z are forbidden and trap illegal instruction; an even n whose n + 1 is at or
above the allocated count fails the range check; an odd n in range fails the alignment check; a pair that passes reads register n and
register n + 1, the latter as the upper 64 bits; z reads as two zeros, and a write to it changes nothing. (R28) -/
def Obligations.PairOperands : Prop :=
  ∀ (o : Opnd), o.role.pair = true →
    (48 ≤ o.code → o.code < 60 → o.code ≠ 56 → o.allowed = false) ∧
    (∀ (s : State) (t : Thread) (f : Form) (raw : InstWord), t.hit = none → f.d = o → o.allowed = false →
      s.attempt t raw f = .stops (s.trapAt t 0x01 0 raw (f.show t.stagger raw))) ∧
    (o.code < 48 → ∀ count : Nat, (o.code + 1 = count → o.range 0 count = some (w64 (o.code + 1))) ∧
      (o.code + 1 < count → o.range 0 count = none) ∧ (o.code % 2 = 1 → o.odd 0 = some (w64 o.code)) ∧ (o.code % 2 = 0 → o.odd 0 = none)) ∧
    (∀ (s : State) (t : Thread) (vec : Bool), s.thread? t.uid = some t → t.stagger = 0 → o.role.reads = true →
      (o.code < 48 → (t.reg o.code).ecc = .ok → (t.reg (o.code + 1)).ecc = .ok →
        s.readField t.uid o 0 vec = (s, (t.reg o.code).val, (t.reg (o.code + 1)).val)) ∧
      (o.code = 56 → s.readField t.uid o 0 vec = (s, 0, 0))) ∧
    (∀ (c : Ctx) (s : State) (v : Word), c.dcode = 56 → c.put s v = s ∧ c.dst? = none)

/-- When checks 1 to 5 pass and the source ra of a thread without deferred traps is an empty general register, an empty lnk or an empty mbx:
with the bit clear the thread blocks until the value arrives, with the bit set it traps empty register with the code. Blocking issues
nothing: every register and every byte of memory stays, and the thread is blocked-register at the same PC. (R27, R30, R50, R53) -/
def Obligations.EmptyOperandBlocksOrTraps : Prop :=
  (∀ (s : State) (t : Thread) (f : Form) (raw : InstWord), t.hit = none → t.deferred = [] → f.a.role = .src →
    f.check t (s.core t.core).regCount (s.core t.core).prove = none →
    let n := f.a.num t.stagger
    let shown := f.show t.stagger raw
    (f.a.code < 48 → (t.reg n).full = false →
      s.attempt t raw f = .stops (if f.a.te then s.trapAt t 0x06 (w64 n) raw shown else s.blockOn t.uid (.reg n) raw shown)) ∧
    (f.a.code = 57 → s.upWords t = 0 →
      s.attempt t raw f = .stops (if f.a.te then s.trapAt t 0x06 57 raw shown else s.blockOn t.uid .upstream raw shown)) ∧
    (f.a.code = 58 → s.mailWords t = [] →
      s.attempt t raw f = .stops (if f.a.te then s.trapAt t 0x06 58 raw shown else s.blockOn t.uid .mailbox raw shown))) ∧
  (∀ (s : State) (t : Thread) (a : Await) (raw shown : InstWord), s.thread? t.uid = some t → t.status = .ready →
    let s' := s.blockOn t.uid a raw shown
    s'.mem = s.mem ∧ s'.tags = s.tags ∧ s'.accesses = s.accesses ∧
    ∃ t', s'.thread? t.uid = some t' ∧ t'.status = .blockedRegister ∧ t'.await = a ∧ t'.regs = t.regs ∧ t'.pc = t.pc ∧
      t'.lastIssue = t.lastIssue)

/-- As a source: z reads 0 and tm the timestamp, which two cores read alike to within two cycles, and neither changes anything; lnk takes
the oldest word of the upstream channel; mbx gives the next word of the oldest message of the mailbox; a stream name takes the next element
of the bound stream. As a destination: a general register becomes full with the value; z changes nothing; lnk appends to the downstream
channel; a stream name pushes one element. (R15, R25, R26, R176, R194) -/
def Obligations.OperandCodesReadAndWrite : Prop :=
  (∀ (s : State) (c d : Nat), ∃ x y : Nat, x ≤ 2 ∧ y ≤ 2 ∧ s.time c = BitVec.ofNat 64 (s.now + x) ∧ s.time d = BitVec.ofNat 64 (s.now + y)) ∧
  (∀ (s : State) (t : Thread) (o : Opnd) (k : Int), s.thread? t.uid = some t → o.role = .src →
    (o.code = 56 → s.readField t.uid o k false = (s, 0, 0)) ∧
    (o.code = 59 → s.readField t.uid o k false = (s, s.time t.core, 0)) ∧
    (o.code = 57 → ∀ c, s.upChannel? t = some c →
      (∀ w rest, c.words = w :: rest → (s.readField t.uid o k false).2 = (w, 0)) ∧
      (c.words = [] → c.ringLen ≠ 0 → let u := (s.recallBy t (c.ringWord 0)).checkEcc (c.ringWord 0)
        s.refusesRing t (c.ringWord 0) = false → s.mayTouch [c.ringWord 0] = true → u.poisoned (c.ringWord 0) = false → (s.readField t.uid o k false).2 = (u.word (c.ringWord 0), 0))) ∧
    (o.code = 58 → ∀ m rest, s.mailbox t = m :: rest → (s.readField t.uid o k false).2 = (if m.popped then m.w1 else m.w0, 0)) ∧
    (48 ≤ o.code → o.code < 56 → ∀ x, t.stream? (o.code - 48) = some x →
      (s.readField t.uid o k false).2 = ((x.ahead.take 1).headD 0, 0))) ∧
  (∀ (s : State) (c : Ctx) (t : Thread) (v : Word), s.thread? c.uid = some t → (s.core t.core).Unwatched →
    (c.dcode < 48 → c.put s v = s.setThread (t.write c.dcode v)) ∧
    (c.dcode = 56 → c.put s v = s) ∧
    (c.dcode = 57 → c.put s v = s.pushLink t v) ∧
    (48 ≤ c.dcode → c.dcode < 56 →
      c.put s v = s.pushStream c.uid (c.dcode - 48) (c.width.getD (s.streamWidth c.uid (c.dcode - 48))) [v] c.raw c.shown))

/-- When a thread that nothing holds up issues an instruction whose checks pass and whose fields are absent, stream names, z, tm, or general
registers and pairs at hand, it issues with the values of its registers, read before any write; counting the issue changes no register, no
byte of memory, no tag and no other thread. (R25, R26, R28, R30, R50, R57) -/
def Obligations.PlainOperandsIssue : Prop :=
  ∀ (s : State) (t : Thread) (f : Form) (raw : InstWord), Ready s t f →
    ∃ c, s.attempt t raw f = .runs c s ∧ c.uid = t.uid ∧ c.t = t ∧ c.raw = raw ∧ c.rsvd = f.rsvd ∧ c.row = f.row ∧
      c.a = s.val t f.a ∧ c.a2 = t.val2 f.a ∧ c.b = s.val t f.b ∧ c.b2 = t.val2 f.b ∧ c.d = s.val t f.d ∧ c.d2 = t.val2 f.d ∧
      c.dcode = f.d.num t.stagger ∧ Only s c.popped t t

/-- For each of the 46 integer instructions, when its operands are at hand: the instruction answers the next state in which gd holds the
result that its entry gives (z takes nothing), the thread stands at the successor of the instruction, and no other register, no flag, no
byte of memory, no tag, no other thread and no unit has changed. (R339, R344, R350, R351, R358, R364, R396, R414, R417, R425, R432, R438) -/
def Obligations.IntegerResultsAndFrame : Prop :=
  ∀ (i : Instr) (f : Form) (v : Thread → Word → Word → Word → Word), Integer i f v → ∀ (s : State) (t : Thread), Ready s t f →
    ∃ s', exec i s = .next s' ∧ Only s s' t (t.give f.d (v t (s.val t f.a) (s.val t f.b) (s.val t f.d))).past

/-- For each of the 22 scalar floating-point instructions, when its operands are at hand: the instruction answers the next state in which gd
holds the result of its format with the higher bits zero, FPFLAGS has gained the flags that the operation raises and lost none, the thread
stands at the successor, and no other register, no byte of memory, no tag, no other thread and no unit has changed. (R154, R155, R157, R160,
R162, R367, R369, R370, R372, R373, R382, R383) -/
def Obligations.FloatResultsFlagsAndFrame : Prop :=
  ∀ (i : Instr) (f : Form) (v : Thread → Word → Word → Word → Nat × Flags), FloatOp i f v → ∀ (s : State) (t : Thread), Ready s t f →
    let r := v t (s.val t f.a) (s.val t f.b) (s.val t f.d)
    ∃ s', exec i s = .next s' ∧ Only s s' t { t.give f.d (w64 r.1) with fpflags := t.fpflags ||| r.2 }.past

/-- Whatever its operands are - registers, stream elements, lnk, mbx or tm - an integer or floating-point instruction whose checks pass
completes with the result of the values read, written to the destination that its field names, and its flags. (R25, R26, R155, R176, R336,
R337, R338) -/
def Obligations.ScalarFormsOfEveryOperand : Prop :=
  (∀ i f v, Integer i f v → Completes i (fun _ _ => f) (fun _ _ => True) fun c _ => c.done (c.put c.popped (v c.t c.a c.b c.d))) ∧
  (∀ i f v, FloatOp i f v → Completes i (fun _ _ => f) (fun _ _ => True) fun c _ =>
    c.done ((c.put c.popped (w64 (v c.t c.a c.b c.d).1)).raiseFlags c.uid (v c.t c.a c.b c.d).2))

/-- A step is the three exclusive-or shifts, on 0x9E3779B97F4A7C15 in place of 0. VCVT with stochastic rounding rounds element j with U =
bits 63:32 of the state after j + 1 steps, and leaves the state after as many steps as it has elements; any other rounding takes no step.
(R154, R158, R159, R461) -/
def Obligations.StochasticRoundingGenerator : Prop :=
  (∀ x : Word,
    let x := if x = 0 then 0x9E3779B97F4A7C15 else x
    let y := x ^^^ (x <<< 13)
    let z := y ^^^ (y >>> 7)
    srStep x = z ^^^ (z <<< 17)) ∧ srStep 0 = srStep 0x9E3779B97F4A7C15 ∧
  (∀ (c : Ctx) (k : Nat), (c.modes 3 k).2 = Nat.repeat srStep k c.t.srseed ∧ (c.modes 3 k).1.length = k ∧
    ∀ j, j < k → (c.modes 3 k).1[j]? = some (.sr (fieldOf (Nat.repeat srStep (j + 1) c.t.srseed) 32 32))) ∧
  (∀ (c : Ctx) (code k : Nat), code ≠ 3 → (c.modes code k).2 = c.t.srseed ∧
    (c.modes code k).1 = List.replicate k (if code = 0 then c.t.rm else if code = 2 then .rtz else .rne))

/-- When its operands are at hand: B compares ga and gb by its condition (6: always, reading nothing; 7: always, as a fallback in proving
mode) and goes to PC + 4 x offset when it holds, else to the successor, which in a REP body leaves the loop running; J goes to PC + 4 x
offset; JAL and JALR write PC + 4 to gd, and JALR goes to ga + imm with bits 1:0 clear. A jump ends a loop. Nothing else changes. (R187,
R345, R346, R397, R398, R399, R338) -/
def Obligations.BranchesSetThePc : Prop :=
  (∀ (a b : BitVec 6) (k : BitVec 3) (o : BitVec 11) (s : State) (t : Thread),
    let f : Form := if k.toNat < 6 then { Form.plain with a := { opA .src a 0 with lo := 20 }, b := { opB .src b 0 with lo := 14 } }
      else { Form.plain with rsvd := k = 6 && (nz a || nz b), row := if k = 7 then 5 else 0 }
    Ready s t f →
    ∃ s', exec (.b a b k o) s = .next s' ∧ Only s s' t
      (if 6 ≤ k.toNat ∨ Machine.cond k.toNat (s.val t f.a) (s.val t f.b) = true then t.pastTo (t.pc + (o.signExtend 64 <<< 2)) else t.past)) ∧
  (∀ (o : BitVec 26) (s : State) (t : Thread), Ready s t Form.plain →
    ∃ s', exec (.j o) s = .next s' ∧ Only s s' t (t.pastTo (t.pc + (o.signExtend 64 <<< 2)))) ∧
  (∀ (d : BitVec 6) (o : BitVec 20) (s : State) (t : Thread), Ready s t (fmtU d) →
    ∃ s', exec (.jal d o) s = .next s' ∧ Only s s' t ((t.give (opD .dst d) (t.pc + 4)).pastTo (t.pc + (o.signExtend 64 <<< 2)))) ∧
  (∀ (d a : BitVec 6) (e : BitVec 1) (i : BitVec 13) (s : State) (t : Thread), Ready s t { fmtI d a 0 with rsvd := nz e } →
    ∃ s', exec (.jalr d a e i) s = .next s' ∧
      Only s s' t ((t.give (opD .dst d) (t.pc + 4)).pastTo ((s.val t (opA .src a 0) + i.signExtend 64) &&& ~~~3)))

/-- When its operand is at hand and each body word can be fetched: REP with a count of 0 goes on behind the body; else it goes on at the
first body word, in pass 0, with the count cut to 4096, the stride and the fetched words, which later stores do not change. A body word that
cannot be fetched is raised at the REP itself. In a body, REP is illegal. (R185, R186, R187, R433) -/
def Obligations.RepStartsItsLoop : Prop :=
  (∀ (k a : BitVec 6) (e : BitVec 1) (r : BitVec 9) (l : BitVec 4) (s : State) (t : Thread) (body : List InstWord),
    let f : Form := { Form.plain with a := opA .src a e, rsvd := nz r, illegal := t.rep.isSome }
    let n := Nat.min (s.val t f.a).toNat 4096
    Ready s t f → s.fetchBody t (l.toNat + 1) (t.pc + 4) = .ok body →
    ∃ s', exec (.rep k a e r l) s = .next s' ∧ Only s s' t
      (if n = 0 then t.pastTo (t.pc + 4 + w64 (4 * (l.toNat + 1)))
       else { t.pastTo (t.pc + 4) with
         rep := some { start := t.pc + 4, len := l.toNat + 1, cnt := n, stride := k, pass := 0, idx := 0, body := body } })) ∧
  (∀ (k a : BitVec 6) (e : BitVec 1) (r : BitVec 9) (l : BitVec 4) (s : State) (c : Ctx) (s1 : State) (cause : BitVec 8) (pc : Word),
    Runs s (.rep k a e r l) (fun t _ => { Form.plain with a := opA .src a e, rsvd := nz r, illegal := t.rep.isSome }) c s1 →
    s1.fetchBody c.t (l.toNat + 1) (c.t.pc + 4) = .error (cause, pc) → exec (.rep k a e r l) s = .next (c.raise s1 cause pc)) ∧
  (∀ (k a : BitVec 6) (e : BitVec 1) (r : BitVec 9) (l : BitVec 4) (s : State) (t : Thread), s.thread? s.cur = some t → t.hit = none →
    t.rep.isSome = true →
    exec (.rep k a e r l) s = .next (s.trapAt t 0x01 0 (encodeWord (.rep k a e r l))
      (Form.show { Form.plain with a := opA .src a e, rsvd := nz r, illegal := t.rep.isSome } t.stagger (encodeWord (.rep k a e r l)))))

/-- From the first position of a loop of length len and count cnt, both at least 1, the k-th successor stands at body word k mod len of pass
k / len, for every k below cnt x len; the successor of the last is the word behind the body, outside the loop. The PC of each position is
that of its body word. (R186, R187, 08_streams_vectors_copies) -/
def Obligations.RepRunsEveryPassInOrder : Prop :=
  ∀ (t : Thread) (r : Rep), t.rep = some r → r.pass = 0 → r.idx = 0 → 0 < r.len → 0 < r.cnt → t.pc = r.start →
    (∀ k, k < r.cnt * r.len → (Nat.repeat Thread.advance k t).rep = some { r with idx := k % r.len, pass := k / r.len } ∧
      (Nat.repeat Thread.advance k t).pc = r.start + w64 (4 * (k % r.len))) ∧
    (Nat.repeat Thread.advance (r.cnt * r.len) t).rep = none ∧
    (Nat.repeat Thread.advance (r.cnt * r.len) t).pc = r.start + w64 (4 * r.len)

/-- Every word whose major is 0x3F decodes to a hint. A hint that a thread issues needs no operand, so it never traps; it reads and writes
no register, makes no memory access and changes nothing but that the thread has issued in this cycle and stands at the successor. (R34) -/
def Obligations.HintsDoNothing : Prop :=
  (∀ w : InstWord, bits w.toNat 26 6 = 0x3F → ∃ h, decodeWord w = .ok (.hint h)) ∧
  (∀ (h : BitVec 26) (s : State) (t : Thread), Steady s t →
    ∃ s', exec (.hint h) s = .next s' ∧ Only s s' t t.past ∧ s'.accesses = s.accesses ∧
      (s'.thread? t.uid).map (·.lastIssue) = some (some s.now))

/-- When an instruction completes in service mode PWARN stays. In proving mode RSVDF, HINTW and FALLB stay set once set and become set for a
non-zero reserved field, a non-canonical hint and a fallback; FBIDX becomes the fallback row at the first fallback; FIRSTW becomes the word
that sets the first flag; and an instruction with none of the three changes nothing. (R33, R34, R35, R326) -/
def Obligations.PwarnFlags : Prop :=
  ∀ (t : Thread) (w : InstWord) (rsvd hint : Bool) (row : Nat), row < 256 →
    (t.completed false w rsvd hint row).pwarn = t.pwarn ∧
    let p := (t.completed true w rsvd hint row).pwarn
    (rsvd = false → hint = false → row = 0 → p = t.pwarn) ∧
    p.toNat.testBit 0 = (t.pwarn.toNat.testBit 0 || rsvd) ∧ p.toNat.testBit 1 = (t.pwarn.toNat.testBit 1 || hint) ∧
    p.toNat.testBit 2 = (t.pwarn.toNat.testBit 2 || decide (row ≠ 0)) ∧
    fieldOf p 8 8 = (if row ≠ 0 ∧ t.pwarn.toNat.testBit 2 = false ∧ fieldOf t.pwarn 8 8 = 0 then row else fieldOf t.pwarn 8 8) ∧
    fieldOf p 32 32 = (if fieldOf t.pwarn 0 3 = 0 ∧ (rsvd = true ∨ hint = true ∨ row ≠ 0) then w.toNat else fieldOf t.pwarn 32 32) ∧
    (t.completed true w rsvd hint row).latch = none

/-- A trap of cause c at a thread without accesses outstanding: a user-level trap with INH = 0, DELEG[c] and UTRAPVEC goes to user level;
else one from user level, or from runtime level with INH = 0, goes to TRAPVEC when that is set and c is not 0x31; else one goes to CTRAPVEC
unless curator level is inhibited or CTRAPVEC is 0. FLTCAUSE, FLTVAL, FLTINST, FLTPC (the successor for TRAP and BRK), PLVL, INH and the REP
fields are written, the REP state ends, the level is the target and the PC its vector with bits 1:0 clear; no general register and no byte
of memory changes. (R247, R248, R249, R251, R255, 11_traps_curfew) -/
def Obligations.TrapEntry : Prop :=
  (∀ (t : Thread) (tv cv : Word) (c : BitVec 8),
    let delegated := t.level = .user ∧ t.inh = false ∧ t.deleg.toNat.testBit c.toNat = true ∧ t.utrapvec ≠ 0
    let runtime := (t.level = .user ∨ t.level = .runtime ∧ t.inh = false) ∧ tv ≠ 0 ∧ c ≠ 0x31
    (delegated → t.route tv cv c = some (.user, t.utrapvec)) ∧ (¬ delegated → runtime → t.route tv cv c = some (.runtime, tv)) ∧
    (¬ delegated → ¬ runtime → (t.level = .curator ∧ t.inh = true ∨ cv = 0) → t.route tv cv c = none) ∧
    (¬ delegated → ¬ runtime → ¬ (t.level = .curator ∧ t.inh = true ∨ cv = 0) → t.route tv cv c = some (.curator, cv))) ∧
  (∀ (s : State) (t : Thread) (cause : BitVec 8) (val : Word) (raw w : InstWord) (succ : Bool) (lvl : Level) (vec : Word),
    s.thread? t.uid = some t → t.deferred = [] → s.drained t.uid = true → t.stepping = false → t.status = .ready →
    t.route (s.tenant t.tenant).trapvec (s.core t.core).ctrapvec cause = some (lvl, vec) → (s.core t.core).Unwatched →
    (lvl = .curator → t.tenant = 0) →
    let s' := s.takeTrap t.uid cause val raw w succ
    let r := if succ then t.successor else (t.pc, t.rep)
    s'.mem = s.mem ∧ s'.tags = s.tags ∧
    ∃ t', s'.thread? t.uid = some t' ∧ t'.fltcause = w64 cause.toNat ∧ t'.fltval = val ∧ t'.fltinst = w64 w.toNat ∧ t'.fltpc = r.1 ∧
      t'.plvl = t.level ∧ t'.inh = true ∧ t'.trep = (match r.2 with | some p => p.pack | none => 0) ∧ t'.rep = none ∧ t'.level = lvl ∧
      t'.pc = vec &&& ~~~3 ∧ t'.latch = none ∧ t'.status = .ready ∧ t'.regs = t.regs)

/-- A trap that no handler may take leaves the thread in held-fault, with the cause, value and word latched at its PC, and sends a record of
kind 3 to the curator. When its record has been sent, a FACK of the curator makes the thread ready to replay the latched instruction, with
its registers and level as they were; FACK.t changes nothing. (R252) -/
def Obligations.DoubleTrap : Prop :=
  (∀ (s : State) (t : Thread) (cause : BitVec 8) (val : Word) (raw w : InstWord) (succ : Bool),
    s.thread? t.uid = some t → t.deferred = [] → s.drained t.uid = true → t.status = .ready →
    t.route (s.tenant t.tenant).trapvec (s.core t.core).ctrapvec cause = none →
    let s' := s.takeTrap t.uid cause val raw w succ
    (∃ t' l, s'.thread? t.uid = some t' ∧ t'.status = .heldFault ∧ t'.latch = some l ∧ l.cause = cause ∧ l.val = val ∧ l.word = raw ∧
      l.pc = t.pc ∧ l.double = true ∧ t'.pc = t.pc ∧ t'.regs = t.regs ∧ t'.level = t.level) ∧
    (∃ r, s'.records = s.records ++ [r] ∧ r.kind = 3 ∧ r.tenant = 0 ∧ r.tid = t.tid ∧ r.cause = cause ∧ r.val = val)) ∧
  (∀ (d a b : BitVec 6) (e f : BitVec 1),
    let form : Thread → Core → Form := fun _ _ => { Form.plain with a := opA .src a e, rsvd := nz d || nz b || nz f, level := .runtime }
    let held (c : Ctx) (s : State) : Prop := c.Drained s ∧ c.t.level = .curator ∧ ∃ t l,
      (c.popped.dropReadAhead c.uid).holder? (fieldOf c.a 0 20) = some t ∧ (c.popped.dropReadAhead c.uid).frozen t = false ∧
      t.status = .heldFault ∧ t.latch = some l ∧ l.double = true ∧ l.walk = false ∧ l.sent = true ∧ l.barrier = 0
    (∀ s c s1 t, Runs s (.fack d a b e f) form c s1 → held c s1 → (c.popped.dropReadAhead c.uid).holder? (fieldOf c.a 0 20) = some t →
      exec (.fack d a b e f) s =
        .next (c.done ((c.popped.dropReadAhead c.uid).modThread t.uid fun t => { t.wake with replay := true }))) ∧
    Completes (.fackT d a b e f) form held fun c _ => c.done (c.popped.dropReadAhead c.uid))

/-- When no access of the thread is outstanding, ERET goes to FLTPC at the level PLVL with INH = 0 and changes no other register: with RACT
= 0 outside every loop, with RACT = 1 at body word RIDX of pass RPASS of the loop that starts at FLTPC - 4 x RIDX with the count, length and
stride of TSTAT. A position that is none traps illegal modifier combination in service mode; in proving mode it resumes outside every loop.
While an access is outstanding ERET waits. (R249, R254, R326, R363) -/
def Obligations.EretReturns : Prop :=
  (∀ (d a b : BitVec 6) (e f : BitVec 1) (s : State) (t : Thread),
    let form : Form := { Form.plain with rsvd := nz d || nz a || nz b || nz e || nz f, row := if t.badResume then 15 else 0 }
    Ready s t form → s.drained t.uid = true →
    ∃ s' t', exec (.eret d a b e f) s = .next s' ∧ s'.thread? t.uid = some t' ∧ s'.mem = s.mem ∧ s'.tags = s.tags ∧ t'.level = t.plvl ∧
      t'.inh = false ∧ t'.pc = t.fltpc &&& ~~~3 ∧ t'.regs = t.regs ∧ t'.status = .ready ∧
      (t.ract = false → t'.rep = none) ∧ (t.badResume = true → t'.rep = none) ∧
      (t.ract = true → t.badResume = false → ∃ r, t'.rep = some r ∧ r.start = (t.fltpc &&& ~~~3) - w64 (4 * t.ridx) ∧
        r.len = t.rlen + 1 ∧ r.cnt = t.rcnt ∧ r.stride = t.rstr ∧ r.pass = t.rpass ∧ r.idx = t.ridx)) ∧
  (∀ (d a b : BitVec 6) (e f : BitVec 1) (s : State) (t : Thread), s.thread? s.cur = some t → t.hit = none → t.badResume = true →
    (s.core t.core).prove = false → exec (.eret d a b e f) s =
      .next (s.trapAt t 0x02 0 (encodeWord (.eret d a b e f)) (encodeWord (.eret d a b e f)))) ∧
  (∀ (d a b : BitVec 6) (e f : BitVec 1) (s : State) (c : Ctx) (s1 : State),
    Runs s (.eret d a b e f) (fun t _ =>
      { Form.plain with rsvd := nz d || nz a || nz b || nz e || nz f, row := if t.badResume then 15 else 0 }) c s1 →
    c.t.owed = [] → s1.drained c.uid = false → exec (.eret d a b e f) s = .next (c.block s1 .accesses))

/-- When no access of the thread is outstanding, TRAP completes and takes software trap 0x28 with FLTVAL = ga, its resume point being the
successor; BRK completes and takes breakpoint 0x29 with FLTVAL = 0, or, for a thread that BRKSTOP arms, completes and stops at the
successor. Where either would be a double trap it is taken at the instruction itself, which has popped nothing (R252). (R251, R252, R255,
R311, R347, R453) -/
def Obligations.TrapAndBreakpointComplete : Prop :=
  (∀ (d a b : BitVec 6) (e f : BitVec 1), Completes (.trap d a b e f)
    (fun _ _ => { Form.plain with a := opA .src a e, rsvd := nz d || nz b || nz f }) (fun c s => c.Drained s ∧ s.doubles c.t 0x28 = false) fun c _ =>
      (c.complete (c.popped.dropReadAhead c.uid)).takeTrap c.uid 0x28 c.a c.raw c.shown true) ∧
  (∀ (d a b : BitVec 6) (e f : BitVec 1), Completes (.trap d a b e f)
    (fun _ _ => { Form.plain with a := opA .src a e, rsvd := nz d || nz b || nz f }) (fun c s => c.Drained s ∧ s.doubles c.t 0x28 = true) fun c s =>
      c.trap s 0x28 c.a) ∧
  (∀ (d a b : BitVec 6) (e f : BitVec 1),
    let form : Thread → Core → Form := fun _ _ => { Form.plain with rsvd := nz d || nz a || nz b || nz e || nz f }
    Completes (.brk d a b e f) form (fun c s => c.Drained s ∧ s.brkArmed c.t = false ∧ s.doubles c.t 0x29 = false) (fun c _ =>
      (c.complete (c.popped.dropReadAhead c.uid)).takeTrap c.uid 0x29 0 c.raw c.shown true) ∧
    Completes (.brk d a b e f) form (fun c s => c.Drained s ∧ s.brkArmed c.t = false ∧ s.doubles c.t 0x29 = true) (fun c s => c.trap s 0x29 0) ∧
    Completes (.brk d a b e f) form (fun c s => c.Drained s ∧ s.brkArmed c.t = true) fun c _ =>
      (c.done (c.popped.dropReadAhead c.uid)).stopThread c.uid) ∧
  (∀ (c : Ctx) (s : State) (t : Thread), s.thread? c.uid = some t → ∃ t', (c.complete s).thread? c.uid = some t' ∧ t'.pc = t.pc ∧
    t'.regs = t.regs ∧ t'.rep = t.rep ∧ t'.latch = none) ∧
  (∀ (d a b : BitVec 6) (e f : BitVec 1) (s : State) (t : Thread), s.drained t.uid = true →
    let g : Form := { Form.plain with a := opA .src a e, rsvd := nz d || nz b || nz f }
    let h : Form := { Form.plain with rsvd := nz d || nz a || nz b || nz e || nz f }
    (Ready s t g → s.doubles t 0x28 = false → ∃ c, Issued s t g c ∧ exec (.trap d a b e f) s =
      .next ((c.complete (c.popped.dropReadAhead t.uid)).takeTrap t.uid 0x28 c.a c.raw c.shown true)) ∧
    (Ready s t h → s.brkArmed t = false → s.doubles t 0x29 = false → ∃ c, Issued s t h c ∧ exec (.brk d a b e f) s =
      .next ((c.complete (c.popped.dropReadAhead t.uid)).takeTrap t.uid 0x29 0 c.raw c.shown true)) ∧
    (Ready s t h → s.brkArmed t = true → ∃ c, Issued s t h c ∧ exec (.brk d a b e f) s =
      .next ((c.done (c.popped.dropReadAhead t.uid)).stopThread t.uid)))

/-- At runtime level with no access outstanding: on a thread of the tenant (the curator: of any) that is held by a fault whose record is
sent, FACK makes the thread, or every thread of a barrier hold, ready to replay, and FACK.t makes it take its cause as a trap. On a thread
in another state, in a walk, or whose record is not sent, nothing happens. A thread of another tenant, or a core that does not exist, traps
protection fault with ga. (R59, R219, R258, R365) -/
def Obligations.FackActsOnHeldThreads : Prop :=
  ∀ (d a b : BitVec 6) (e f : BitVec 1) (trap : Bool),
    let i : Instr := if trap then .fackT d a b e f else .fack d a b e f
    let form : Thread → Core → Form := fun _ _ => { Form.plain with a := opA .src a e, rsvd := nz d || nz b || nz f, level := .runtime }
    let after (c : Ctx) : State := c.popped.dropReadAhead c.uid
    let target (c : Ctx) : Option Thread := (after c).holder? (fieldOf c.a 0 20)
    let foreign (c : Ctx) (t : Thread) : Bool := c.t.level != .curator && t.tenant != c.t.tenant
    (∀ s c s1 t l, Runs s i form c s1 → c.Drained s1 → target c = some t → foreign c t = false → (after c).frozen t = false →
      t.status = .heldFault → t.latch = some l → l.walk = false → l.sent = true → l.double = false →
      exec i s = .next (c.done (((after c).heldWith t l).foldl
        (fun s u => if trap then s.trapHeld u else s.modThread u fun t => { t.wake with replay := true }) (after c)))) ∧
    (∀ s c s1 t, Runs s i form c s1 → c.Drained s1 → target c = some t → foreign c t = false →
      t.status ≠ .heldFault ∨ (after c).frozen t = true →
      exec i s = .next (c.done (after c))) ∧
    (∀ s c s1 t l, Runs s i form c s1 → c.Drained s1 → target c = some t → foreign c t = false → t.status = .heldFault → t.latch = some l →
      (l.walk = true ∨ l.sent = false) → exec i s = .next (c.done (after c))) ∧
    (∀ s c s1 t, Runs s i form c s1 → c.Drained s1 → target c = some t → foreign c t = true → exec i s = .next (c.trap s1 0x09 c.a)) ∧
    (∀ s c s1, Runs s i form c s1 → c.Drained s1 → target c = none → tidCore (fieldOf c.a 0 20) < Config.cores →
      exec i s = .next (c.done (after c))) ∧
    (∀ s c s1, Runs s i form c s1 → c.Drained s1 → target c = none → Config.cores ≤ tidCore (fieldOf c.a 0 20) →
      exec i s = .next (c.trap s1 0x09 c.a)) ∧
    (∀ (s : State) (t o : Thread) (l : Latch), let g := form t (s.core t.core)
      Ready s t g → s.drained t.uid = true → s.holder? (fieldOf (s.val t g.a) 0 20) = some o → (t.level = .curator ∨ o.tenant = t.tenant) →
      o.uid ≠ t.uid → s.frozen o = false → o.status = .heldFault → o.latch = some l → l.walk = false → l.sent = true → l.double = false →
      l.barrier = 0 → ∃ c, Issued s t g c ∧ exec i s = .next (c.done (if trap then (after c).trapHeld o.uid
        else (after c).modThread o.uid fun t => { t.wake with replay := true })))

/-- When its address passes the address checks and the ordering rules let it issue, each of these instructions answers a next state in which
one access, with the address, size, mode, data and destination that its entry gives after its fallbacks, is on its way to its controller,
and that step is posted. Issued by a thread that finds its operands at hand, it changes no byte of memory and no tag; its destination
registers are empty until the result; and its thread waits for the answer, or, when relaxed and not in a sync mode, has gone on. (R53, R56,
R103, R104, R106, R326, R341, R348, R408, R410, R441, R449) -/
def Obligations.AccessesIssue : Prop :=
  ∀ (i : Instr) (f : Form) (va : Ctx → Word) (n : Nat) (rd wr tag : Bool) (acc : Ctx → Nat → Access),
    Accesses i f va n rd wr tag acc →
    (∀ s c s1 p pa, Runs s i (fun _ _ => f) c s1 → c.Reaches s1 (va c) n rd wr tag pa → c.MayBegin s1 (acc c pa) p →
      exec i s = .next (c.send p (acc c pa))) ∧
    (∀ s t c p pa, Ready s t f → s.attempt t (encodeWord i) f = .runs c s → c.MayBegin s (acc c pa) p →
      let a := c.numbered p (acc c pa)
      let s' := c.send p (acc c pa)
      s'.mem = s.mem ∧ s'.tags = s.tags ∧ a ∈ s'.accesses ∧ (∀ b ∈ s'.accesses, b = a ∨ b ∈ p.accesses) ∧
      (∀ b ∈ p.accesses, b.ahead = false → b ∈ s'.accesses) ∧ { at_ := s.now, ev := .accessPerformed a.id } ∈ s'.pending ∧
      ∃ t', s'.thread? t.uid = some t' ∧ (∀ m ∈ a.dsts, m < 48 → (t'.reg m).full = false ∧ (t'.reg m).due = true) ∧
        (∀ m, m ∉ a.dsts → t'.reg m = t.reg m) ∧
        (a.answers = true → t'.status = .blockedRegister ∧ t'.await = .answer a.id ∧ t'.pc = t.pc) ∧
        (a.answers = false → t'.status = .ready ∧ t'.pc = t.successor.1))

/-- For each instruction that makes one access, when its checks at issue pass: an AMO or CAS whose address is no multiple of 8 traps
misaligned address first; an address at or above 2^52 traps protection fault; then an address that is no multiple of the size traps
misaligned address; then a translation that is not at hand is latched for a walk, and a failed one is raised with its cause; then a sync
access to untagged memory traps protection fault; then a dusk access to a range no longer lent traps lease lost. (R58, R72, R74, R94, R145,
R343, R408, R442) -/
def Obligations.AddressChecksOfAccesses : Prop :=
  ∀ (i : Instr) (f : Form) (va : Ctx → Word) (n : Nat) (rd wr tag : Bool) (acc : Ctx → Nat → Access),
    Accesses i f va n rd wr tag acc → ∀ s c s1, Runs s i (fun _ _ => f) c s1 →
    let a := (va c).toNat
    let locked : Prop := (∃ d x y e f r g o, i = .amo d x y e f r g o) ∨ ∃ d x y e f r g, i = .cas d x y e f r g
    (locked → a % 8 ≠ 0 → exec i s = .next (c.trap s1 0x0A (va c))) ∧
    (¬ locked ∨ a % 8 = 0 →
      (windowEnd ≤ a → exec i s = .next (c.trap s1 0x09 (va c))) ∧
      (a < windowEnd → a % n ≠ 0 → exec i s = .next (c.trap s1 0x0A (va c))) ∧
      (a < windowEnd → a % n = 0 →
        (s1.reach c.t a n rd wr = .miss → exec i s = .next (c.miss s1 (va c) (needCode rd wr n))) ∧
        (∀ cause, s1.reach c.t a n rd wr = .bad cause → exec i s = .next (c.raise s1 cause (va c))) ∧
        (∀ pa, s1.reach c.t a n rd wr = .ok pa →
          (tag = true → tagged pa = false → exec i s = .next (c.trap s1 0x09 (va c))) ∧
          ((tag = true → tagged pa = true) → ∀ v, s1.lostByte c.t pa n = some v → exec i s = .next (c.trap s1 0x14 v)))))

/-- For each instruction that makes one access, when its checks pass: a non-relaxed one whose thread has an access outstanding, or a result
still to be pushed to a stream, blocks until none is and issues nothing; with a trap deferred it takes that trap instead; a relaxed one
waits for a HALLOC.nf of its thread, and with eight relaxed accesses outstanding blocks until one of them is performed. Blocking changes no
memory and makes no access. (R78, R104, R105, R106, R253) -/
def Obligations.OrderingOfIssue : Prop :=
  ∀ (i : Instr) (f : Form) (va : Ctx → Word) (n : Nat) (rd wr tag : Bool) (acc : Ctx → Nat → Access),
    Accesses i f va n rd wr tag acc → ∀ s c s1 pa, Runs s i (fun _ _ => f) c s1 → c.Reaches s1 (va c) n rd wr tag pa →
    ((acc c pa).relaxed = false → c.t.owed = [] → s1.drained c.uid = false → exec i s = .next (c.block s1 .accesses)) ∧
    (∀ d rest, (acc c pa).relaxed = false → c.t.owed = d :: rest →
      exec i s = .next ((s1.issued c.uid c.raw).takeDeferred c.t c.raw d)) ∧
    ((acc c pa).relaxed = true → s1.allocBusy c.uid = true → exec i s = .next (c.block s1 .accesses)) ∧
    ((acc c pa).relaxed = true → s1.allocBusy c.uid = false → 8 ≤ s1.relaxedCount c.uid → exec i s = .next (c.block s1 .relaxedRoom)) ∧
    (∀ w, (c.block s1 w).mem = s1.mem ∧ (c.block s1 w).tags = s1.tags ∧ (c.block s1 w).accesses = s1.accesses)

/-- For a 64-bit load of tagged memory: .p never waits and .f and .t wait until P = 1; each returns the current data; after .p and .f
nothing has changed, so P is as before (1 for .f), and no watch event is raised; after .t P is 0, no byte has changed, and the word has been
written for watch. (R70) -/
def Obligations.LoadModesOnTags : Prop :=
  ∀ (s : State) (a : Access), a.kind = .load → a.size = 3 → a.pa % 8 = 0 → a.mode < 3 →
    (a.mode = 0 → s.condition a = true) ∧ (a.mode ≠ 0 → s.condition a = (s.tag a.pa).p) ∧
    (s.applyTagged a).2 = a.results (w64 (s.read a.pa 8)) 0 ∧
    (a.mode ≠ 2 → (s.applyTagged a).1 = s) ∧
    (a.mode = 2 → (s.applyTagged a).1 = (s.setP a.pa false).written a.pa (.thread a.uid (some a)) ∧
      ((s.setP a.pa false).tag a.pa).p = false ∧ (s.setP a.pa false).mem = s.mem)

/-- For a 64-bit store to a tagged word that is not poisoned: only .e waits, until P = 0; the word holds the data; P is unchanged after .p,
1 after .e and .s and 0 after .c; every byte outside the word is unchanged; and the word has been written for watch. (R71) -/
def Obligations.StoreModesOnTags : Prop :=
  ∀ (s : State) (a : Access), s.MemOk → a.kind = .store → a.size = 3 → a.pa % 8 = 0 → a.mode < 4 → s.poisoned a.pa = false →
    (a.mode ≠ 1 → s.condition a = true) ∧ (a.mode = 1 → s.condition a = !(s.tag a.pa).p) ∧
    ∃ s' : State, (s.applyTagged a).1 = s'.written a.pa (.thread a.uid (some a)) ∧ s'.word a.pa = a.val ∧
      (s'.tag a.pa).p = (if a.mode = 0 then (s.tag a.pa).p else decide (a.mode = 1 ∨ a.mode = 2)) ∧
      (∀ j, j < a.pa ∨ a.pa + 8 ≤ j → s'.byte j = s.byte j) ∧ s'.threads = s.threads

/-- On words with W = 0: a load gives its bytes, extended as its form says, and changes no byte; a narrow store writes its bytes and keeps
P; an AMO writes the result of its operation on the old and the given word, which it returns; a CAS writes the new word exactly when the old
one is the expected one, and returns the old; a pair loads or stores both words; TAGRD gives P and W and TAGSET sets P to bit 0 of its
value. Each leaves every byte outside those it stores unchanged. (R24, R69, R72, R86, R87, R342, R349, R409, R442, R445, R450, R451) -/
def Obligations.PerformedDataAndFrame : Prop :=
  ∀ (s : State) (a : Access), s.MemOk → (∀ w ∈ a.words, (s.tag w).w = false ∧ s.poisoned w = false) →
    let r := s.applyTagged a
    (a.kind = .load → a.mode ≠ 2 → a.size ≤ 3 → r.1 = s ∧
      r.2 = a.results (if a.signed && a.size != 3 then wordI (if s.read a.pa (2 ^ a.size) < 2 ^ (8 * 2 ^ a.size - 1) then s.read a.pa (2 ^ a.size)
        else (s.read a.pa (2 ^ a.size) : Int) - 2 ^ (8 * 2 ^ a.size)) else w64 (s.read a.pa (2 ^ a.size))) 0) ∧
    (a.kind = .store → a.mode = 0 → a.size ≤ 3 → a.pa % 2 ^ a.size = 0 → (r.1.read a.pa (2 ^ a.size) = a.val.toNat % 2 ^ (8 * 2 ^ a.size) ∧
      (∀ j, j < a.pa ∨ a.pa + 2 ^ a.size ≤ j → r.1.byte j = s.byte j) ∧ (r.1.tag a.pa).p = (s.tag a.pa).p)) ∧
    (∀ op, a.kind = .amo op → r.2 = a.results (s.word a.pa) 0 ∧ r.1.word a.pa = amoResult op (s.word a.pa) a.val ∧
      (∀ j, j < a.pa ∨ a.pa + 8 ≤ j → r.1.byte j = s.byte j) ∧ r.1.tags = s.tags) ∧
    (a.kind = .cas → r.2 = a.results (s.word a.pa) 0 ∧ r.1.word a.pa = (if s.word a.pa = a.val then a.val2 else s.word a.pa) ∧
      (∀ j, j < a.pa ∨ a.pa + 8 ≤ j → r.1.byte j = s.byte j) ∧ r.1.tags = s.tags) ∧
    (a.kind = .loadPair → r.2 = a.results (s.word a.pa) (s.word (a.pa + 8)) ∧ r.1.mem = s.mem) ∧
    (a.kind = .storePair → a.size = 3 → a.pa % 16 = 0 → r.1.word a.pa = a.val ∧ r.1.word (a.pa + 8) = a.val2 ∧
      ∀ j, j < a.pa ∨ a.pa + 16 ≤ j → r.1.byte j = s.byte j) ∧
    (a.kind = .tagrd → r.1 = s ∧ r.2 = a.results (w64 ((if (s.tag a.pa).p then 1 else 0) + if (s.tag a.pa).w then 2 else 0)) 0) ∧
    (a.kind = .tagset → r.1.mem = s.mem ∧ (r.1.tag a.pa).p = a.val.toNat.testBit 0 ∧ (r.1.tag a.pa).w = false)

/-- The step does nothing while an earlier access of the thread to a common word is outstanding, while its thread is stopped by a curfew,
while a waiter of its words is still to be served, while a watch message that the access raises has no room, or while a row operation runs
on its row. Else an access of tagged memory that no firewall, curfew, lease or error code concerns is refused with poisoned word when a word
is poisoned and it does not overwrite it; when its condition holds it is performed and the waiters of its words are served; when not it is
placed on the wait list. Waiters are served in arrival order, the earliest satisfiable first, until none is; one whose watch messages have
no room waits for it, and one whose row an operation has for that. (R69, R70, R71, R75, R76, R79, R86, R106, R264) -/
def Obligations.ArrivalAtTheController : Prop :=
  (∀ (s : State) (id : Nat) (a : Access), s.access? id = some a → s.mayArrive a = true →
    exec (.accessPerformed id) s = .next ((s.activate a.pa).arrive a)) ∧
  (∀ (s : State) (id : Nat), (∀ a, s.access? id = some a → s.mayArrive a = false) → exec (.accessPerformed id) s = .next s) ∧
  (∀ (s : State) (a : Access), s.mayArrive a = true → a.phase = .sent ∧ (∀ t, s.thread? a.uid = some t → s.frozen t = false ∨ t.status = .restoring) ∧
    s.watchRoom (s.raisedBy a) = true ∧ (∀ b ∈ s.waiters a.words, s.servable b = false) ∧ (∀ r ∈ s.rowOps, ∀ w ∈ a.words, w / 8192 * 8192 ≠ r.dst) ∧
    ∀ b ∈ s.outstanding a.uid, b.id < a.id → a.uid ≠ 0 ∨ b.kind = a.kind → ∀ w ∈ b.words, w ∉ a.words) ∧
  (∀ (s : State) (a : Access), a.kind ≠ .alloc → a.kind ≠ .clear → tagged a.pa = true → (∀ w ∈ a.words, tagged w = true ∧ s.eccOf w = .ok) →
    s.access? a.id = some a → s.firewalled a.pa (s.accessTenant a) = none → s.leaseOf a = none →
    (∀ c off, regionOf a.pa = .spad c off → (s.core c).stopped = false ∧ (s.core c).switched = none ∧ (s.core c).lent = []) →
    (a.overwrites = false → (∃ w ∈ a.words, s.poisoned w = true) → s.arrive a =
      s.refuse a 0x0E (w64 (if a.kind.pair = true ∧ s.poisoned a.pa = false then a.va + 8 else a.va)) 0) ∧
    ((a.overwrites = true ∨ ∀ w ∈ a.words, s.poisoned w = false) →
      (s.condition a = true → s.arrive a = (s.performTagged a).serve a.words) ∧ (s.condition a = false → s.arrive a = s.placeWaiter a))) ∧
  (∀ (s : State) (n : Nat) (ws : List Nat), ((∀ b ∈ s.waiters ws, s.servable b = false) → s.serveFuel (n + 1) ws = s) ∧
    ∀ a pre post, s.waiters ws = pre ++ a :: post → (∀ b ∈ pre, s.servable b = false) → s.servable a = true →
      (s.watchRoom (s.raisedBy a) = true → s.serveFuel (n + 1) ws = (s.performTagged a).serveFuel n (ws ++ a.words)) ∧
      (s.watchRoom (s.raisedBy a) = false → s.serveFuel (n + 1) ws = s)) ∧
  (∀ (s : State) (a : Access), s.servable a = true ↔ s.condition a = true ∧ ∀ w ∈ a.words, s.rowRunning w = false ∧ s.rowClaimed w = false)

/-- A performed answer ends the access and the instruction, which takes its stream, lnk and mbx operands now (R57), and whose thread goes
on; an answer that the access waits parks the thread, or lets a relaxed one go on; a refusal restores the destination and raises its cause,
or defers it for a relaxed access. A long-latency result writes its registers full in one step. A time-out whose limit has passed withdraws
the waiter with wait time-out. A relaxed access that still owed its answer lets its thread go on then too. The end of a walk makes the held
instruction replay, or holds it by its fault, or traps; a thread that is stopped or revoked stays held. (R48, R54, R56, R58, R77, R78, R79) -/
def Obligations.AnswersAndResultsReachTheThread : Prop :=
  (∀ (s : State) (id : Nat) (a : Access), s.access? id = some a →
    (a.phase = .performed → exec (.controllerAnswer id) s = .next ((s.dropAccess id).retireAccess a)) ∧
    (∀ o n, a.phase = .waiting o n → a.answered = false → a.relaxed = false → exec (.controllerAnswer id) s =
      .next ((s.setAccess { a with answered := true }).modThread a.uid fun t => { t.setStat .parkedMemory with await := .nothing })) ∧
    (∀ o n, a.phase = .waiting o n → a.answered = false → a.relaxed = true → exec (.controllerAnswer id) s =
      .next ((s.setAccess { a with answered := true }).retireAccess a)) ∧
    (∀ cause val detail, a.phase = .refused cause val detail → (a.relaxed = false ∨ cause = 0x0D) → exec (.controllerAnswer id) s =
      .next ((((s.dropAccess a.id).restoreDests a).modThread a.uid Thread.wake).raise a.uid cause val detail a.word a.shown)) ∧
    (∀ cause val detail, a.phase = .refused cause val detail → a.relaxed = true → cause ≠ 0x0D → exec (.controllerAnswer id) s =
      .next (((s.dropAccess a.id).modThread a.uid fun t =>
        t.defer { id := a.id, cause := cause, val := val, word := a.shown, dst := a.dsts }).retireAccess a))) ∧
  (∀ (s : State) (a : Access), s.retireAccess a =
    (a.pops.foldl (fun s c => s.popCode a.uid c) ((a.pops.filter fun c => decide (c < 56)).eraseDups.foldl (fun s c => s.newRecord a.uid (c - 48)) s)).retire
      a.uid a.word a.rsvd false a.row) ∧
  (∀ (s : State) (id n : Nat) (r : Result) (t : Thread) (v : Word), s.results.find? (fun r => r.id == id) = some r → r.regs = [(n, v)] → r.restores = [] →
    n < 48 → s.thread? r.uid = some t → (s.core t.core).Unwatched →
    exec (.longLatencyResult id) s = .next ({ s with results := s.results.filter fun r => !(r.id == id) }.setThread (t.write n v)) ∧
    (n < t.regs.size → (t.write n v).reg n = { val := v, full := true, due := false, ecc := .ok })) ∧
  (∀ (s : State) (id o since : Nat) (a : Access) (t : Thread), s.access? id = some a → a.phase = .waiting o since →
    s.thread? a.uid = some t → (∀ n, a.kind ≠ .streamElem n) → t.waitlim ≠ 0 → since + t.waitlim.toNat ≤ s.now →
    exec (.waitTimeOut id) s = .next (if a.relaxed then
        let u := (s.dropAccess a.id).modThread a.uid fun t => t.defer { id := a.id, cause := 0x0C, val := w64 a.va, word := a.shown, dst := a.dsts }
        if a.answers && !a.answered then u.retireAccess a else u
      else (((s.dropAccess a.id).restoreDests a).modThread a.uid Thread.wake).raise a.uid 0x0C (w64 a.va) 0 a.word a.shown)) ∧
  (∀ (s : State) (uid : Nat) (t : Thread) (l : Latch), s.thread? uid = some t → t.latch = some l → l.walk = true →
    (t.status ≠ .heldFault ∨ s.frozen t = true → exec (.translationWalkEnd uid) s = .next s) ∧
    (t.status = .heldFault → s.frozen t = false → let v := s.checkWalk t l
    (∀ s', v.endWalk t l = .ok s' → exec (.translationWalkEnd uid) s = .next (s'.modThread uid fun t => { t.wake with replay := true })) ∧
    (∀ cause, v.endWalk t l = .error cause → replayable cause = false →
      exec (.translationWalkEnd uid) s = .next (v.takeTrap uid cause l.val l.word l.shown)) ∧
    (∀ cause, v.endWalk t l = .error cause → replayable cause = true → exec (.translationWalkEnd uid) s =
      .next (((v.setThread { t with latch := some { l with walk := false, cause := cause, detail := 0 } }).count t.core 7 (some t)).sendHeld t
        { l with walk := false, cause := cause, detail := 0 }))))

/-- For an instruction that finds its operands at hand: the reads change nothing; writing the result changes the destination register alone,
and nothing for z; completing moves the thread to its successor; a long-latency result leaves its destination empty and is posted; an
ordering point with no access outstanding and nothing read ahead goes on at once. No byte of memory, no tag, no other thread and no unit
changes by any of them. The statements below give the other effects of each instruction, applied to the state these leave. (R25, R35, R52,
R53, R57, R104, R105, R184, 03_barrel_core) -/
def Obligations.WhatCompletingChanges : Prop :=
  ∀ (s : State) (t : Thread) (f : Form) (raw : InstWord) (c : Ctx), Ready s t f → s.attempt t raw f = .runs c s →
    Only s c.popped t t ∧
    (∀ (p : State) (x : Thread), p.thread? t.uid = some x → x.stopPending = false → x.stepping = false → x.status = .ready →
      x.proving = (p.core x.core).prove → Only p (c.done p) x x.past) ∧
    (∀ (p : State) (x : Thread) (v : Word), p.thread? t.uid = some x → (p.core x.core).Unwatched → x.rep = t.rep → f.d.role.writes = true →
      Only p (c.put p v) x (x.give f.d v) ∧ c.finish v = c.done (c.put c.popped v)) ∧
    (∀ (p : State) (x : Thread) (v : Word), p.thread? t.uid = some x → x.stopPending = false → x.stepping = false → x.status = .ready →
      x.proving = (p.core x.core).prove → f.d.role.writes = true →
      (f.d.general = false → Only p (c.finishLater p v) x x.past) ∧
      (f.d.general = true → Makes p (c.finishLater p v) x (x.markDue (f.d.num t.stagger)).past fun p => { p with
        results := p.results ++ [{ id := p.nextId, uid := t.uid, restores := [], regs := [(f.d.num t.stagger, v)] }]
        pending := p.pending ++ [{ at_ := p.now, ev := .longLatencyResult p.nextId }], nextId := p.nextId + 1 })) ∧
    (s.Settled t → (∀ k, c.ordered s k = k (c.popped.dropReadAhead t.uid)) ∧ Only s (c.popped.dropReadAhead t.uid) t t)

/-- For each of the 27 elementwise V-F and V-I instructions and VSF: when the operands of k active lanes are at hand, lane i of the result
is the operation on lane i of ga, gb and gd at the element width, the lanes go to the destination, the flags of all are ORed into FPFLAGS,
and the instruction completes. With general registers every lane is the broadcast low bits, so the destination gets the operation on them,
zero-extended, and nothing else changes. The active count is at most the lanes of the width and what each bound stream has left per lane,
and it is the largest such number. (R163, R173, R174, R175, R176, R455, R456, R457, R459, R464) -/
def Obligations.VectorLanes : Prop :=
  (∀ (i : Instr) (f : Form) (w : Nat) (op : Thread → Nat → Nat → Nat → Nat × Flags), Elementwise i f w op →
    (∀ s c s1 l, Runs s i (fun _ _ => f.vec) c s1 → c.tryLanes s1 f.vec (lanes w) w w true false = .runs l →
      let r := (List.range l.k).map fun j => op c.t (lowBits w (l.a.getD j 0)) (lowBits w (l.b.getD j 0)) (lowBits w (l.d.getD j 0))
      exec i s = .next (l.c.done ((l.c.putLanes l.p w (r.map (·.1))).raiseFlags c.uid ((r.map (·.2)).foldl (· ||| ·) 0)))) ∧
    (∀ s t, Ready s t f.vec →
      let r := op t (lowBits w (s.val t f.a)) (lowBits w (s.val t f.b)) (lowBits w (s.val t f.d))
      ∃ s', exec i s = .next s' ∧ Only s s' t { t.give f.d (w64 r.1) with fpflags := t.fpflags ||| r.2 }.past)) ∧
  (∀ (t : Thread) (reads writes : List Nat) (n k : Nat), k ≤ activeCount t reads writes n ↔ k ≤ n ∧
    (∀ m ∈ reads, ∀ x l, t.stream? m = some x → x.left = some l → k * reads.count m ≤ l) ∧
    ∀ m ∈ writes, m ∉ reads → ∀ x l, t.stream? m = some x → x.record = [] → x.left = some l → k ≤ l)

/-- For VRED, VRED.max, VRED.min and the V-I VRED: when a beat is at hand, its elements are reduced by the tree and joined behind the
partial result, which a trap leaves as it is; while the source has elements left the thread stays at the VRED with the partial result, else
the value is written, the flags of all beats are ORed into FPFLAGS and the VRED completes. With a general register the copies are reduced
and nothing else changes. The tree joins adjacent pairs, a last element without a partner passes unchanged, one element is its own result,
and the V-I tree gives the sum modulo 2^w. (R155, R165, R173, R175, R458, R459) -/
def Obligations.VectorReductions : Prop :=
  (∀ (i : Instr) (f : Form) (w : Nat) (op : Thread → Nat → Nat → Nat × Flags), Reduces i f w op →
    (∀ s c s1 l, Runs s i (fun _ _ => f.vec) c s1 → c.tryLanes s1 f.vec (lanes w) w w c.part.isNone true = .runs l →
      let v := nextPart (op c.t) c.part c.t (treeReduce (op c.t) 8 (l.a.map (lowBits w)))
      let more := ∃ n t x, f.a.stream = some n ∧ l.p.thread? c.uid = some t ∧ t.stream? n = some x ∧ x.left.getD 0 ≠ 0
      (more → exec i s = .next (l.p.modThread c.uid fun t => { t with vred := some v })) ∧
      (¬ more → l.held.putsStop ((l.held.thread? c.uid).getD c.t) f.streamWrites 1 c.raw c.shown = none →
        exec i s = .next (l.c.done (((l.c.putLanes l.p w [v.val.toNat]).raiseFlags c.uid v.flags).modThread c.uid fun t =>
          if c.part.isNone then t else { t with vred := none })))) ∧
    (∀ s t, Ready s t f.vec → (∀ v, t.vred = some v → t.atVred v = false) →
      let r := treeReduce (op t) 8 (List.replicate (lanes w) (lowBits w (s.val t f.a)))
      ∃ s', exec i s = .next s' ∧ Only s s' t { t.give f.d (w64 r.1) with fpflags := t.fpflags ||| r.2 }.past)) ∧
  (∀ (op : Nat → Nat → Nat × Flags) (v : VredPart) (t : Thread) (x : Nat) (fl : Flags),
    nextPart op none t (x, fl) = { val := w64 x, beats := 1, flags := fl, pc := t.pc, rep := t.repPos, depth := 0 } ∧
    nextPart op (some v) t (x, fl) =
      { v with val := w64 (op v.val.toNat x).1, beats := v.beats + 1, flags := v.flags ||| (op v.val.toNat x).2 ||| fl }) ∧
  (∀ (t : Thread) (lvl : Level) (vec : Word) (cause : BitVec 8) (val : Word) (w : InstWord) (succ fackt : Bool) (v : VredPart),
    t.vred = some v → (t.enter lvl vec cause val w succ fackt).vred =
      some (if t.atVred v = true then v else { v with depth := v.depth + 1 })) ∧
  (∀ (op : Nat → Nat → Nat × Flags) (fuel x : Nat), treeReduce op (fuel + 1) [x] = (x, 0)) ∧
  (∀ (op : Nat → Nat → Nat × Flags) (x y : Nat) (l : List Nat), (pairLevel op (x :: y :: l)).1 = (op x y).1 :: (pairLevel op l).1) ∧
  (∀ (op : Nat → Nat → Nat × Flags) (x : Nat), pairLevel op [x] = ([x], 0)) ∧
  (∀ (w : Nat) (l : List Nat), 0 < l.length → l.length ≤ 256 → (∀ x ∈ l, x < 2 ^ w) →
    (treeReduce (fun a b => ((a + b) % 2 ^ w, 0)) 8 l).1 = l.sum % 2 ^ w)

/-- When its lanes are at hand and no scale byte is poisoned or still to be written, VCVT converts each element by its format, rounding and
scale, and stores the generator after one step per element for .sr; for an MX destination it writes the scale of the block and its elements
after one issue per beat; both OR the flags. VPERM gives lane 7 - i, (i - s) mod 8, s, the low halves, the high halves or i, reading 0
beyond the active count; a permutation above 5 is illegal. A block with a value that is no number gets scale 0xFF and elements 0; a block of
zeros scale 0. (R152, R153, R154, R158, R160, R460, R461, R462, R463) -/
def Obligations.VectorConversionsAndPermutations : Prop :=
  (∀ (d a : BitVec 6) (m : BitVec 2) (src : BitVec 4) (e f : BitVec 1) (k : BitVec 4) (sat : Bool) (s : State) (c : Ctx) (s1 : State) (l : Lanes),
    let i : Instr := if sat then .vcvtSat d a m src e f k else .vcvt d a m src e f k
    let form (t : Thread) := cvtForm (cvtOf t d.toNat src.toNat k.toNat m.toNat sat) d a e f
    let v := cvtOf c.t d.toNat src.toNat k.toNat m.toNat sat
    let ww := formatWidth v.dst
    Runs s i (fun t _ => form t) c s1 → c.tryLanes s1 (form c.t) v.count (formatWidth v.src) ww true false = .runs l →
    s1.scaleBusy c.t v a.toNat l.k = false → s1.badScale c.t v a.toNat l.k = none →
    let xs := (l.a.zip (s1.scalesOf c.t v a.toNat l.k)).map fun x => readElem v.src x.1.toNat x.2
    let p := l.p.modThread c.uid fun t => { t with srseed := (c.modes v.rnd l.k).2 }
    (isMx v.dst = false →
      let r := (xs.zip (c.modes v.rnd l.k).1).map fun x => convertElem v.dst x.2 v.sat x.1
      exec i s = .next (l.c.done ((l.c.putLanes p ww (r.map (·.1))).raiseFlags c.uid ((r.map (·.2)).foldl (· ||| ·) 0)))) ∧
    (isMx v.dst = true → c.t.phase + 1 < v.beats l.k →
      exec i s = .next ((s1.issued c.uid c.raw).modThread c.uid fun t => { t with phase := t.phase + 1 })) ∧
    (isMx v.dst = true → v.beats l.k ≤ c.t.phase + 1 → ∃ fmt, codeFmt v.dst = some fmt ∧
      let r := convertBlock fmt (xs.map Elem.val) (c.modes v.rnd l.k).1
      exec i s = .next (l.c.done ((l.c.putLanes (p.putScale c d.toNat r.1) ww r.2.1).raiseFlags c.uid r.2.2)))) ∧
  (∀ (d a b : BitVec 6) (e f : BitVec 1) (n : BitVec 4) (s : State) (c : Ctx) (s1 : State) (l : Lanes), n.toNat < 6 →
    Runs s (.vperm d a b e f n) (fun _ _ => permForm d a b e f n.toNat) c s1 →
    c.tryLanes s1 (permForm d a b e f n.toNat) 8 64 64 true false = .runs l →
    let lane (i : Nat) : Nat :=
      if n = 0 then (l.a.getD (7 - i) 0).toNat else if n = 1 then (l.a.getD ((i + 8 - (l.b.getD 0 0).toNat % 8) % 8) 0).toNat
      else if n = 2 then (l.a.getD ((l.b.getD 0 0).toNat % 8) 0).toNat
      else if n = 5 then i else ((if i % 2 = 0 then l.a else l.b).getD ((if n = 3 then 0 else 4) + i / 2) 0).toNat
    exec (.vperm d a b e f n) s = .next (l.c.done (l.c.putLanes l.p 64 ((List.range l.k).map lane)))) ∧
  (∀ (d a b : BitVec 6) (e f : BitVec 1) (n : BitVec 4) (s : State) (t : Thread), s.thread? s.cur = some t → t.hit = none → 6 ≤ n.toNat →
    exec (.vperm d a b e f n) s =
      .next (s.trapAt t 0x01 0 (encodeWord (.vperm d a b e f n)) (encodeWord (.vperm d a b e f n)))) ∧
  (∀ (f : FpFmt) (vs : List FpVal) (rms : List Rm), (∃ v ∈ vs, v.isNan = true ∨ v = .inf false ∨ v = .inf true) →
    (convertBlock f vs rms).1 = 0xFF ∧ (convertBlock f vs rms).2.1 = vs.map fun _ => 0) ∧
  (∀ (f : FpFmt) (vs : List FpVal) (rms : List Rm), (∀ v ∈ vs, ∃ n e, v = .fin n 0 e) →
    (convertBlock f vs rms).1 = 0 ∧ (convertBlock f vs rms).2.2 = 0) ∧
  (∀ (x : Word) (k : Nat), (draws k x).1.length = k ∧ (draws k x).2 = Nat.repeat srStep k x)

/-- On a bound name XCLR clears, XFMA, XFMA.n and XADD add the exact product or value or set a sticky flag, with NV for a signalling NaN and
0 x infinity, XWRW writes a chunk or the flags, and XRND, XSGN and XRDW give their long-latency result; an unbound name is illegal. XACQ of
a bound name clears it, of an unbound one binds a free accumulator, cleared, or joins the arrival order; XREL frees. Contributions that are
added in another order give the same value; a chunk reads as written; no other chunk changes. (R166, R167, R168, R169, R171, R467, R468,
R469) -/
def Obligations.ExactAccumulators : Prop :=
  (∀ (d a b : BitVec 6) (e f : BitVec 1) (n : BitVec 3),
    let dab : Form := { Form.plain with a := opA .src a e, b := opB .src b f, rsvd := nz d }
    let acts (i : Instr) (f : Form) (g : Ctx → ExactAcc → ExactAcc) (fl : Ctx → Flags) : Prop :=
      Completes i (fun t _ => { f with illegal := (t.exact? n.toNat).isNone }) (fun _ _ => True) fun c _ =>
        c.done ((c.modExact c.popped n.toNat (g c)).raiseFlags c.uid (fl c))
    let reads (i : Instr) (f : Form) (g : Ctx → ExactAcc → Word × Flags) : Prop :=
      Completes i (fun t _ => { f with illegal := (t.exact? n.toNat).isNone }) (fun _ _ => True) fun c _ =>
        c.finishLater (c.popped.raiseFlags c.uid (g c (c.exact c.popped n.toNat)).2) (g c (c.exact c.popped n.toNat)).1
    let product (c : Ctx) : Option FpVal :=
      if (fp64.of c.a).isNan ∨ (fp64.of c.b).isNan then none else mulExact (fp64.of c.a) (fp64.of c.b)
    let nv (c : Ctx) : Flags := if (fp64.of c.a).isSnan ∨ (fp64.of c.b).isSnan ∨
      (product c = none ∧ ¬ (fp64.of c.a).isNan ∧ ¬ (fp64.of c.b).isNan) then flNV else 0
    acts (.xclr d a b e f n) { Form.plain with rsvd := nz d || nz a || nz b || nz e || nz f } (fun _ x => { x with v := 0, flags := 0 }) (fun _ => 0) ∧
    acts (.xfma d a b e f n) { dab with width := some 64 } (fun c x => x.addExact (product c)) nv ∧
    acts (.xfmaN d a b e f n) { dab with width := some 64 } (fun c x => x.addExact ((product c).map FpVal.neg)) nv ∧
    acts (.xadd d a b e f n) { Form.plain with a := opA .src a e, rsvd := nz d || nz b || nz f, width := some 64 }
      (fun c x => x.addExact (some (fp64.of c.a))) (fun c => if (fp64.of c.a).isSnan then flNV else 0) ∧
    acts (.xwrw d a b e f n) dab (fun c x => x.setChunk (c.a.toNat % 128) c.b) (fun _ => 0) ∧
    reads (.xrnd d a b e f n) { Form.plain with
        d := opD .dst d, rsvd := nz a || decide (8 ≤ b.toNat) || nz e || nz f, row := if 6 ≤ b.toNat % 8 then 7 else 0, wwidth := some 64 }
      (fun c x => (w64 (x.roundTo (overrideRm c.t (b.toNat % 8))).1, (x.roundTo (overrideRm c.t (b.toNat % 8))).2)) ∧
    reads (.xsgn d a b e f n) { Form.plain with d := opD .dst d, rsvd := nz a || nz b || nz e || nz f } (fun _ x => x.signWord) ∧
    reads (.xrdw d a b e f n) { Form.plain with a := opA .src a e, d := opD .dst d, rsvd := nz b || nz f }
      (fun c x => (x.chunk (c.a.toNat % 128), 0))) ∧
  (∀ (n a b : BitVec 6) (e f : BitVec 1),
    let form : Thread → Core → Form := fun _ _ => { Form.plain with illegal := decide (8 ≤ n.toNat), rsvd := nz a || nz b || nz e || nz f }
    (∀ j, Completes (.xacq n a b e f) form (fun c _ => c.t.exact? n.toNat = some j) fun c _ =>
      c.done (c.popped.modCore c.t.core fun k => { k with xacc := k.xacc.setIfInBounds j { k.exact j with v := 0, flags := 0 } })) ∧
    (∀ j, Completes (.xacq n a b e f) form (fun c s1 => c.t.exact? n.toNat = none ∧ (s1.core c.t.core).freeExact = some j) fun c _ =>
      c.done ((c.popped.modCore c.t.core fun k => { k with xacc := k.xacc.setIfInBounds j { owner := some c.uid, v := 0, flags := 0 } }).modThread
        c.uid fun t => { t with xa := t.xa.setIfInBounds n.toNat (some j) })) ∧
    (Completes (.xacq n a b e f) form (fun c s1 => c.t.exact? n.toNat = none ∧ (s1.core c.t.core).freeExact = none) fun c s1 =>
      c.block (s1.modCore c.t.core fun k => if (c.uid, n.toNat) ∈ k.xqueue then k else { k with xqueue := k.xqueue ++ [(c.uid, n.toNat)] })
        .accumulator) ∧
    (Completes (.xrel n a b e f) form (fun c _ => c.t.exact? n.toNat = none) fun c _ => c.done c.popped) ∧
    (∀ j, Completes (.xrel n a b e f) form (fun c _ => c.t.exact? n.toNat = some j) fun c _ =>
      c.done ((c.popped.modCore c.t.core fun k => { k with xacc := k.xacc.setIfInBounds j ExactAcc.empty }).modThread c.uid fun t =>
        { t with xa := t.xa.setIfInBounds n.toNat none }))) ∧
  (∀ (x : ExactAcc) (p q : Int), ((x.addUnits p).addUnits q).v = ((x.addUnits q).addUnits p).v ∧ (x.addUnits p).v = BitVec.ofInt 4288 (x.v.toInt + p) ∧
    (x.addUnits p).flags = (if x.v.toInt + p < -(2 ^ 4287) ∨ 2 ^ 4287 ≤ x.v.toInt + p then x.flags ||| 8 else x.flags)) ∧
  (∀ (x : ExactAcc) (neg : Bool) (m : Nat) (e : Int), -2148 ≤ e → x.addExact (some (.fin neg m e)) =
    x.addUnits (if neg then -((m * 2 ^ (e + 2148).toNat : Nat) : Int) else (m * 2 ^ (e + 2148).toNat : Nat))) ∧
  (∀ (x : ExactAcc) (q : Bool), x.addExact none = { x with flags := x.flags ||| 4 } ∧ x.addExact (some (.nan q)) = { x with flags := x.flags ||| 4 } ∧
    x.addExact (some (.inf false)) = { x with flags := x.flags ||| 1 } ∧ x.addExact (some (.inf true)) = { x with flags := x.flags ||| 2 }) ∧
  (∀ (x : ExactAcc) (i j : Nat) (w : Word), (i < 67 → (x.setChunk i w).chunk i = w) ∧ (i ≠ j → (x.setChunk i w).chunk j = x.chunk j) ∧
    (67 < i → x.setChunk i w = x ∧ x.chunk i = 0) ∧ (x.setChunk 67 w).flags = w.setWidth 4)

/-- SPAWN, at hand and with room on its target core, completes: it places or pushes the record of its thread (entry gb, g0-g3, the task ID,
the time, tenant, class and level) and gives the task ID; SPAWN.f clears P of the future word before, once. DQPUSH pushes the record of
entry ga. DQPOP gives 0, or makes the newest record of the tenant the task of the thread. QUIT, QUIT.d and QUIT.f complete whenever they
issue and no access is outstanding: the thread ends, QUIT.f after filling its future word; it is gone, its accesses with it, and on a core
without other work no thread takes its place. The task ID holds the thread ID and the count of spawns, which a placed thread starts at 0 and
each spawn steps. A record that is pushed is the newest of the deque, a pop takes the newest, and a push to a core with room never waits.
(R118, R119, R120, R121, R125, R126, R359, R360, R361, R426, R427, R439) -/
def Obligations.SpawnQuitAndDeques : Prop :=
  (∀ (d a b : BitVec 6) (e f : BitVec 1) (s : State) (c : Ctx) (s1 : State),
    let p := c.popped.dropReadAhead c.uid
    let id := w64 (c.t.tid + c.t.spawns.toNat * 2 ^ 20)
    let record (pc : Word) (future : Bool) : TaskRec :=
      { pc := pc, g0 := (c.t.reg 0).val, g1 := (c.t.reg 1).val, g2 := (c.t.reg 2).val,
        g3 := (c.t.reg 3).val, id := id, stamp := p.time c.t.core, tenant := c.t.tenant, cls := p.classOf c.t, future := future, level := c.t.level, ecc := .ok, seeder := 0 }
    let empty (x : State) : State := c.mark (x.modThread c.uid fun t => [0, 1, 2, 3].foldl (fun t n => t.markDue n) t)
    let target := if c.a = BitVec.allOnes 64 then c.t.core else c.a.toNat
    let allowed := c.a = BitVec.allOnes 64 ∨ (s1.tenant c.t.tenant).hasCore target = true ∧ s1.present target = true
    let args := ∀ n < 4, (c.t.reg n).full = true ∧ (c.t.reg n).ecc = .ok
    c.Drained s1 →
    (Runs s (.spawn d a b e f) (fun _ _ => fmtR d a b e f) c s1 → args → allowed → ∀ q,
      p.spawnTo target (c.a ≠ BitVec.allOnes 64) (record c.b false) c.uid = some q →
      exec (.spawn d a b e f) s = .next (c.finishLater (q.countSpawn c.uid) id)) ∧
    (Runs s (.spawnF d a b e f) (fun _ _ => fmtR d a b e f) c s1 → args → allowed →
      (∀ pa u q, c.t.phase = 0 → c.Writes s1 p (c.t.reg 3).val false pa u →
        ((((u.setP pa false).written pa (.thread c.uid (some (.own .tagset c.uid (c.t.reg 3).val pa)))).serve [pa]).modThread c.uid fun t =>
          { t with phase := 1 }).spawnTo target (c.a ≠ BitVec.allOnes 64) (record c.b true) c.uid = some q →
        exec (.spawnF d a b e f) s = .next (c.finishLater (q.countSpawn c.uid) id)) ∧
      (∀ q, c.t.phase ≠ 0 → p.spawnTo target (c.a ≠ BitVec.allOnes 64) (record c.b true) c.uid = some q →
        exec (.spawnF d a b e f) s = .next (c.finishLater (q.countSpawn c.uid) id))) ∧
    (Runs s (.dqpush d a b e f) (fun _ _ => { Form.plain with a := opA .src a e, rsvd := nz d || nz b || nz f }) c s1 → args → ∀ q,
      p.pushRecord c.t.core (record c.a false) = some q →
      exec (.dqpush d a b e f) s = .next (c.done ((q.countSpawn c.uid).pushed c.t.core (record c.a false) c.uid
        (q.slotsFor c.t.core c.t.tenant (p.classOf c.t))))) ∧
    (Runs s (.dqpop d a b e f) (fun _ _ => { Form.plain with d := opD .dst d, rsvd := nz a || nz b || nz e || nz f }) c s1 →
      (∀ n < 4, (c.t.reg n).due = false) →
      let q := p.checkDeque c.t.core c.t.tenant
      (q.popNewest c.t.core c.t.tenant = none → exec (.dqpop d a b e f) s = .next (c.done ((empty q).sendRestore c.uid
        ([0, 1, 2, 3].filter fun n => n != c.dcode) (if c.dcode = 56 then [] else [(c.dcode, 0)])))) ∧
      (∀ r u, q.popNewest c.t.core c.t.tenant = some (r, u) →
        let v := (u.completeTask c.t).modThread c.uid fun t =>
          { t with future := if r.future then some r.g3 else none, task := r.id, seeder := r.seeder, start := (u.completeTask c.t).now }
        let x := match v.thread? c.uid with
          | some t => v.startTask t r.stamp
          | none => v
        exec (.dqpop d a b e f) s = .next (c.done ((empty x).sendResult c.uid
          (([(0, r.g0), (1, r.g1), (2, r.g2), (3, r.g3)].filter fun w => w.1 != c.dcode) ++ if c.dcode = 56 then [] else [(c.dcode, r.pc)]))))) ∧
    (Runs s (.quit d a b e f) (fun _ _ => { Form.plain with rsvd := nz d || nz a || nz b || nz e || nz f }) c s1 →
      exec (.quit d a b e f) s = .next (p.endThread c.uid)) ∧
    (Runs s (.quitD d a b e f) (fun t _ =>
        { Form.plain with rsvd := nz d || nz a || nz b || nz e || nz f, row := if t.drain.isSome then 0 else 14 }) c s1 →
      exec (.quitD d a b e f) s = .next (p.endThread c.uid)) ∧
    (Runs s (.quitF d a b e f) (fun t _ =>
        { Form.plain with
          a := if t.drain.isNone && t.future.isNone then noOp else opA .src a e, illegal := !(opA .src a e).allowed, rsvd := nz d || nz b || nz f,
          row := if t.drain.isNone && t.future.isNone then 13 else 0 }) c s1 →
      (c.t.drain.isSome = true ∨ c.t.future = none → exec (.quitF d a b e f) s = .next (p.endThread c.uid)) ∧
      (∀ va pa u, c.t.drain = none → c.t.future = some va → c.Writes s1 p va true pa u →
        exec (.quitF d a b e f) s = .next ((u.performOwn (futurePut c.uid va pa c.a)).endThread c.uid)))) ∧
  (∀ (d a b : BitVec 6) (e f : BitVec 1) (s : State) (t : Thread), s.Settled t →
    let id := w64 (t.tid + t.spawns.toNat * 2 ^ 20)
    let args := ∀ n < 4, (t.reg n).full = true ∧ (t.reg n).ecc = .ok
    let x := s.val t (opA .src a e)
    let target := if x = BitVec.allOnes 64 then t.core else x.toNat
    let room (k : Nat) : Prop := s.away k = false ∧ (s.core k).deque.length < 256
    let gone (i : Instr) : Prop := ∃ s', exec i s = .next s' ∧
      (s.Workless t.core → (∀ g ∈ (s.tenant t.tenant).gangs, t.uid ∉ g.2.members) →
        s'.thread? t.uid = none ∧ (∀ n, n ≠ t.uid → (s'.thread? n).map Thread.bare = (s.thread? n).map Thread.bare) ∧ s'.accesses = s.accesses)
    (Ready s t (fmtR d a b e f) → args → x = BitVec.allOnes 64 ∨ (s.tenant t.tenant).hasCore target = true ∧ s.present target = true →
      room target → ∀ c, s.attempt t (encodeWord (.spawn d a b e f)) (fmtR d a b e f) = .runs c s →
      ∃ q, exec (.spawn d a b e f) s = .next (c.finishLater q id)) ∧
    (∀ pa, Ready s t (fmtR d a b e f) → args → x = BitVec.allOnes 64 ∨ (s.tenant t.tenant).hasCore target = true ∧ s.present target = true →
      room target → (t.reg 3).val.toNat < windowEnd → (t.reg 3).val.toNat % 8 = 0 → s.reach t (t.reg 3).val.toNat 8 false true = .ok pa →
      regionOf pa = .dram → s.poisoned pa = false → s.eccOf pa = .ok → (s.tag pa).w = false → s.waiters [pa] = [] → s.rowOps = [] →
      ∃ c q, Issued s t (fmtR d a b e f) c ∧ exec (.spawnF d a b e f) s = .next (c.finishLater q id)) ∧
    (Ready s t { Form.plain with a := opA .src a e, rsvd := nz d || nz b || nz f } → args → room t.core →
      ∀ c, s.attempt t (encodeWord (.dqpush d a b e f)) { Form.plain with a := opA .src a e, rsvd := nz d || nz b || nz f } = .runs c s →
      ∃ q, exec (.dqpush d a b e f) s = .next (c.done q)) ∧
    (Ready s t { Form.plain with d := opD .dst d, rsvd := nz a || nz b || nz e || nz f } → (∀ n < 4, (t.reg n).due = false) →
      (∃ s', exec (.dqpop d a b e f) s = .next s') ∧ (s.Workless t.core →
        ∀ c, s.attempt t (encodeWord (.dqpop d a b e f)) { Form.plain with d := opD .dst d, rsvd := nz a || nz b || nz e || nz f } = .runs c s →
        exec (.dqpop d a b e f) s = .next (c.done ((c.mark ((c.popped.dropReadAhead t.uid).modThread t.uid fun t =>
          [0, 1, 2, 3].foldl (fun t n => t.markDue n) t)).sendRestore t.uid ([0, 1, 2, 3].filter fun n => n != c.dcode)
          (if c.dcode = 56 then [] else [(c.dcode, 0)]))))) ∧
    (Ready s t { Form.plain with rsvd := nz d || nz a || nz b || nz e || nz f } → gone (.quit d a b e f)) ∧
    (Ready s t { Form.plain with rsvd := nz d || nz a || nz b || nz e || nz f, row := if t.drain.isSome then 0 else 14 } → gone (.quitD d a b e f)) ∧
    (t.future = none → Ready s t { Form.plain with
        a := if t.drain.isNone && t.future.isNone then noOp else opA .src a e, illegal := !(opA .src a e).allowed, rsvd := nz d || nz b || nz f,
        row := if t.drain.isNone && t.future.isNone then 13 else 0 } →
      gone (.quitF d a b e f))) ∧
  (∀ (s : State) (c : Nat) (direct : Bool) (r : TaskRec) (uid : Nat), s.away c = false →
    (direct = true → s.slotsFor c r.tenant r.cls ≠ [] → s.spawnTo c direct r uid = some (s.placeRecord c r)) ∧
    (direct = false ∨ s.slotsFor c r.tenant r.cls = [] → (s.core c).deque.length < 256 → ∃ q, s.pushRecord c r = some q ∧
      (q.core c).deque = (s.core c).deque ++ [r] ∧ s.spawnTo c direct r uid = some (q.pushed c r uid (q.openPool c r.tenant r.cls)))) ∧
  (∀ (s : State) (c : Nat) (r : TaskRec) (pre post : List TaskRec), (s.core c).deque = pre ++ r :: post → (∀ x ∈ post, x.tenant ≠ r.tenant) →
    ∃ u, s.popNewest c r.tenant = some (r, u) ∧ (u.core c).deque = pre ++ post) ∧
  (∀ (s : State) (pa : Nat) (uid : Nat) (va v : Word), s.MemOk → pa % 8 = 0 → regionOf pa = .dram →
    ∃ u : State, u.word pa = v ∧ (u.tag pa).p = true ∧ s.performOwn (futurePut uid va pa v) =
      (if s.poisoned pa = true then u else u.written pa (.thread uid (some (futurePut uid va pa v)))).serve [pa]) ∧
  (∀ (s : State) (c slot tenant : Nat) (l : Level) (k : Cls) (pc : Word) (g : List Word), s.thread? s.nextUid = none →
    ∃ t, (s.placeThread c slot tenant l k pc g id).thread? s.nextUid = some t ∧ t.tid = c * 512 + slot ∧ t.spawns = 0 ∧ t.level = l ∧
      t.cls = k ∧ t.tenant = tenant ∧ t.pc = pc &&& ~~~3 ∧ t.status = .ready ∧ t.latch = none ∧ t.rep = none ∧
      ∀ n < 48, t.reg n = { val := g.getD n 0, full := true, due := false, ecc := .ok }) ∧
  (∀ (s : State) (t : Thread), s.thread? t.uid = some t → s.Workless t.core →
    (∀ g ∈ (s.tenant t.tenant).gangs, t.uid ∉ g.2.members) →
    (s.endThread t.uid).threads = (s.threads.filter fun x => x.uid != t.uid) ∧
    (s.endThread t.uid).accesses = (s.accesses.filter fun x => x.uid != t.uid)) ∧
  (∀ (s : State) (t : Thread), s.thread? t.uid = some t → ∃ u, (s.countSpawn t.uid).thread? t.uid = some u ∧ u.spawns = t.spawns + 1)

/-- YIELD completes and waits for the eligible contexts of its class on its core; with none it only moves its thread past itself. After 64
cycles the wait ends. A request for a tenant leaves an idle core that has none outstanding, to a victim not yet tried, in a first round the
nearest, and the next may leave 64 cycles later. The victim gives the oldest record of the overflow area, else of its deque; a record is
placed when a context may hold it. A failure is counted with its cycles; after a round of failures the core waits 4096 cycles, and the wait
ends then. No core asks for tenant 0. (R50, R123, R126, R127, R128, R129, R137, R472) -/
def Obligations.YieldAndStealing : Prop :=
  (∀ (d a b : BitVec 6) (e f : BitVec 1),
    let form : Thread → Core → Form := fun _ _ => { Form.plain with rsvd := nz d || nz a || nz b || nz e || nz f }
    (Completes (.yield d a b e f) form (fun c s1 => s1.peers c.t = []) fun c _ => c.done c.popped) ∧
    (Completes (.yield d a b e f) form (fun c s1 => s1.peers c.t ≠ []) fun c s1 =>
      let p := (c.done c.popped).modThread c.uid fun t => { t with yield := some { others := s1.peers c.t, till := (c.done c.popped).now + 64 } }
      { p with pending := p.pending ++ [{ at_ := (c.done c.popped).now + 64, ev := .yieldTimeout c.uid }] }) ∧
    (∀ s t, Ready s t { Form.plain with rsvd := nz d || nz a || nz b || nz e || nz f } →
      (s.peers t = [] → ∃ s', exec (.yield d a b e f) s = .next s' ∧ Only s s' t t.past) ∧
      (s.peers t ≠ [] → ∃ s', exec (.yield d a b e f) s = .next s' ∧
        Makes s s' t t.past (fun s => { s with pending := s.pending ++ [{ at_ := s.now + 64, ev := .yieldTimeout t.uid }] }) ∧
        ∃ u, s'.thread? t.uid = some u ∧ u.yield = some { others := s.peers t, till := s.now + 64 }))) ∧
  (∀ (s : State) (uid : Nat) (t : Thread) (y : YieldWait), s.thread? uid = some t → t.yield = some y →
    (y.till ≤ s.now → exec (.yieldTimeout uid) s = .next (s.setThread { t with yield := none })) ∧
    (s.now < y.till → exec (.yieldTimeout uid) s = .next s)) ∧
  (∀ (s : State) (core tenant : Nat),
    let left := (s.victims core tenant).filter fun v => !((s.core core).accountOf tenant).tried.contains v
    (s.maySteal core tenant = true → ∀ v s1, s.nextVictim core tenant = (some v, s1) → v ∈ left ∧ exec (.stealRequest core tenant) s =
      .next ((s1.modAccount core tenant fun a => { a with asking := some v, askedAt := s1.now + 64 }).postNow (.stealServe core v tenant))) ∧
    (left ≠ [] → ∃ v s1, s.nextVictim core tenant = (some v, s1)) ∧
    (((s.core core).accountOf tenant).first = true → s.nextVictim core tenant = (left.head?, s)) ∧
    (s.maySteal core tenant = true → tenant ≠ 0 ∧ ((s.core core).accountOf tenant).asking = none ∧
      ((s.core core).accountOf tenant).askedAt ≤ s.now ∧ ((s.core core).accountOf tenant).backoff ≤ s.now ∧
      ∀ r ∈ (s.core core).deque, r.tenant ≠ tenant) ∧
    (s.maySteal core tenant = false → exec (.stealRequest core tenant) s = .next s)) ∧
  (∀ (s : State) (thief victim tenant : Nat), ((s.core thief).accountOf tenant).asking = some victim →
    (s.away victim = true → exec (.stealServe thief victim tenant) s = .next (s.failSteal thief victim tenant)) ∧
    (s.away victim = false →
      let q := s.checkDeque victim tenant
      (q.popOldest victim tenant = none → exec (.stealServe thief victim tenant) s = .next (q.failSteal thief victim tenant)) ∧
      (∀ r u, q.popOldest victim tenant = some (r, u) →
        let p := u.modAccount thief tenant fun a =>
          { a with tried := [], first := true, asking := none, search := a.searchAt u.now }
        (p.slotsFor thief tenant r.cls ≠ [] → exec (.stealServe thief victim tenant) s = .next (p.placeRecord thief r)) ∧
        (p.slotsFor thief tenant r.cls = [] → 
          (∀ w, p.pushRecord thief r = some w → exec (.stealServe thief victim tenant) s =
            .next (w.pushed thief r 0 (w.openPool thief tenant r.cls))) ∧
          (p.pushRecord thief r = none → exec (.stealServe thief victim tenant) s =
            .next (p.modCore victim fun k => { k with deque := r :: k.deque })))))) ∧
  (∀ (s : State) (c tenant : Nat) (r : TaskRec) (u : State), (s.tenant tenant).ovfCount = 0 → s.popOldest c tenant = some (r, u) →
    r.tenant = tenant ∧ ∃ pre post, (s.core c).deque = pre ++ r :: post ∧ (u.core c).deque = pre ++ post ∧ ∀ x ∈ pre, x.tenant ≠ tenant) ∧
  (∀ (s : State) (c tenant n pa : Nat), (s.tenant tenant).ovfCount = n + 1 → s.ovfPa tenant 0 = some pa →
    let q := ((List.range 8).map fun k => pa + 8 * k).foldl (fun s a => s.checkEcc a) s
    (q.recordOf pa).ecc ≠ .double → s.popOldest c tenant =
      some ({ q.recordOf pa with seeder := ((q.tenant tenant).ovfSeeders.head?).getD 0 }, q.modTenant tenant fun t =>
        { t with ovfCount := n, ovfFirst := (t.ovfFirst + 1) % 2048, ovfSeeders := t.ovfSeeders.drop 1 })) ∧
  (∀ (s : State) (thief victim tenant : Nat),
    let a := (s.core thief).accountOf tenant
    let b := ((s.failSteal thief victim tenant).core thief).accountOf tenant
    b.fsteal = a.fsteal + 1 ∧ b.asking = none ∧ b.search = a.searchAt s.now ∧
    ((∀ v ∈ s.victims thief tenant, v ∈ a.tried ++ [victim]) → b.tried = [] ∧ b.first = false ∧ b.backoff = s.now + 4096) ∧
    ((∃ v ∈ s.victims thief tenant, v ∉ a.tried ++ [victim]) → b.tried = a.tried ++ [victim] ∧ b.backoff = a.backoff)) ∧
  (∀ (s : State) (core tenant : Nat), ((s.core core).accountOf tenant).backoff ≤ s.now →
    exec (.stealBackoffExpiry core tenant) s = .next (s.modAccount core tenant fun a => { a with backoff := 0 }))

/-- GNEW creates a gang of its thread with a free index and the next check value, never 0, or gives 0 at the quota. GJOIN of a non-member,
GLEAVE and GBAR of a member and GEND change the gang: a join adds a member; a leave removes one; GBAR parks its thread as arrived; when the
arrivals are all the members they are released and the generation steps; a gang without members is freed; GEND frees it, a broken one too.
An ID that is not live, a GJOIN by a member and a GBAR or GLEAVE by a non-member take bad gang; GJOIN, GLEAVE and GBAR of a broken gang take
gang broken. (R113, R130, R131, R132, R387, R388, R389, R390) -/
def Obligations.GangsAndBarriers : Prop :=
  (∀ (d a b : BitVec 6) (e f : BitVec 1),
    let form : Thread → Core → Form := fun _ _ => { Form.plain with d := opD .dst d, rsvd := nz a || nz b || nz e || nz f }
    let quota (c : Ctx) : Nat := if c.t.tenant = 0 then 4096 else (c.popped.tenant c.t.tenant).gangQuota
    (Completes (.gnew d a b e f) form (fun c _ => quota c ≤ (c.popped.tenant c.t.tenant).gangs.length) fun c _ => c.finish 0) ∧
    (∀ s c s1, Runs s (.gnew d a b e f) form c s1 → (c.popped.tenant c.t.tenant).gangs.length < Nat.min 4096 (quota c) →
      ∃ i k p, i < 4096 ∧ lookup? (c.popped.tenant c.t.tenant).gangs i = none ∧ c.popped.pick (Nat.max 1 (below 4096 fun i =>
          (lookup? (c.popped.tenant c.t.tenant).gangs i).isNone).length) = (k, p) ∧
        (let old := lookupD (c.popped.tenant c.t.tenant).checks i 0
         let check : BitVec 12 := if old = 4095 then 1 else old + 1
         exec (.gnew d a b e f) s = .next (c.done (c.put (p.modTenant c.t.tenant fun t => { t with
           gangs := insert t.gangs i { check := check, n := 1, gen := 0, members := [c.uid], arrived := [], ecc := .ok, broken := false } })
           (w64 (i + check.toNat * 4096)))) ∧ check ≠ 0))) ∧
  (∀ (d a b : BitVec 6) (e f : BitVec 1),
    let form : Thread → Core → Form := fun _ _ => { Form.plain with a := opA .src a e, rsvd := nz d || nz b || nz f }
    let before (c : Ctx) : State := c.popped.dropReadAhead c.uid
    let live (c : Ctx) (i : Nat) (g : Gang) (p : State) : Prop := ∃ g0, (before c).findGang c.t.tenant c.a = some (i, g0) ∧
      (before c).checkCounters c.t.tenant c.t.core i g0 = (p, g) ∧ g.broken = false
    (∀ i g p, Completes (.gjoin d a b e f) form (fun c s1 => c.Drained s1 ∧ live c i g p ∧ c.uid ∉ g.members) fun c _ =>
      c.done (p.setGang c.t.tenant i { g with n := g.n + 1, members := g.members ++ [c.uid] })) ∧
    (∀ i g p, Completes (.gleave d a b e f) form (fun c s1 => c.Drained s1 ∧ live c i g p ∧ c.uid ∈ g.members) fun c _ =>
      c.done (p.leaveGang c.t.tenant i c.uid)) ∧
    (∀ i g p, Completes (.gbar d a b e f) form (fun c s1 => c.Drained s1 ∧ live c i g p ∧ c.uid ∈ g.members) fun c _ =>
      ((p.modThread c.uid fun t =>
        { t.setStat .parkedMemory with await := .nothing, parked := c.raw, parkedShown := c.shown, parkedRsvd := c.rsvd }).setGang c.t.tenant i
          { g with arrived := g.arrived ++ [c.uid] }).checkGang c.t.tenant i) ∧
    (∀ i g, Completes (.gend d a b e f) form (fun c s1 => c.Drained s1 ∧ (before c).findGang c.t.tenant c.a = some (i, g)) fun c _ =>
      (c.done (before c)).endGang c.t.tenant i g) ∧
    (∀ i : Instr, i = .gjoin d a b e f ∨ i = .gleave d a b e f ∨ i = .gbar d a b e f ∨ i = .gend d a b e f →
      Completes i form (fun c s1 => c.Drained s1 ∧ (before c).findGang c.t.tenant c.a = none) fun c s1 => c.trap s1 0x22 c.a) ∧
    (∀ i g p, Completes (.gjoin d a b e f) form (fun c s1 => c.Drained s1 ∧ live c i g p ∧ c.uid ∈ g.members) fun c s1 => c.trap s1 0x22 c.a) ∧
    (∀ i g p (x : Instr), x = .gleave d a b e f ∨ x = .gbar d a b e f →
      Completes x form (fun c s1 => c.Drained s1 ∧ live c i g p ∧ c.uid ∉ g.members) fun c s1 => c.trap s1 0x22 c.a) ∧
    (∀ i g (x : Instr), x = .gjoin d a b e f ∨ x = .gleave d a b e f ∨ x = .gbar d a b e f →
      Completes x form (fun c s1 => c.Drained s1 ∧ (before c).findGang c.t.tenant c.a = some (i, g) ∧ (g.ecc = .double ∨ g.broken = true))
        fun c s1 => c.trap (s1.checkCounters c.t.tenant c.t.core i g).1 0x23 c.a)) ∧
  (∀ (s : State) (tenant i : Nat) (id : Word) (g : Gang), s.findGang tenant id = some (i, g) ↔
    lookup? (s.tenant tenant).gangs i = some g ∧ id = w64 (i + g.check.toNat * 4096) ∧ i < 4096) ∧
  (∀ (s : State) (tenant i : Nat) (g : Gang), lookup? (s.tenant tenant).gangs i = some g →
    (g.n ≠ 0 ∧ g.arrived.length ≠ g.n ∨ g.broken = true → s.checkGang tenant i = s) ∧
    (g.broken = false → g.n ≠ 0 → g.arrived.length = g.n → s.checkGang tenant i =
      g.arrived.foldl (fun s u => s.release u) (s.setGang tenant i { g with arrived := [], gen := g.gen + 1 })) ∧
    (g.broken = false → g.n = 0 → s.checkGang tenant i = s.endGang tenant i g) ∧
    (g.broken = false → g.ecc = .ok → ∀ u ∈ g.members, s.leaveGang tenant i u = (s.setGang tenant i { g with
      n := g.n - 1, members := g.members.filter fun x => x != u, arrived := g.arrived.filter fun x => x != u }).checkGang tenant i) ∧
    (g.arrived = [] → lookup? ((s.endGang tenant i g).tenant tenant).gangs i = none))

/-- MSEND enters its pair into the mailbox of the named thread of its tenant, or into the mailbox image of its save area, or discards and
counts it, and waits while the mailbox has its 224 sent messages or 256 entries. MWAIT gives the header of the oldest message, or parks. A
device message that waited enters when the 256 entries have room (and, for a restored sent message, the 224). LCFG reads its descriptor as
one ordering access. LCFG waits for the old downstream channel, then sets both ends and the ring and discards the old words. A thread
blocked on lnk for the limit takes link stall with the thread ID of the other end. (R133, R134, R135, R192, R193, R194, R195, R404, R405,
R406, R416, R418) -/
def Obligations.MessagesAndLinks : Prop :=
  (∀ (d a b : BitVec 6) (e f : BitVec 1) (s : State) (c : Ctx) (s1 : State),
    Runs s (.msend d a b e f) (fun _ _ => { Form.plain with a := opA .src a e, b := opB .srcPair b f, rsvd := nz d }) c s1 →
    let p := c.popped.dropReadAhead c.uid
    let tid := fieldOf c.a 0 20
    let k := tidCore tid
    let m : Msg :=
      { id := p.nextId, slot := tidSlot tid, bound := none, kind := 1, status := 0, sender := c.t.tid, w0 := c.b, w1 := c.b2,
        popped := false, device := false }
    ((s1.tenant c.t.tenant).hasCore k = false → exec (.msend d a b e f) s = .next (c.trap s1 0x09 c.a)) ∧
    ((s1.tenant c.t.tenant).hasCore k = true → c.Drained s1 →
      let resident := ∃ o, p.holder? tid = some o ∧ o.tenant = c.t.tenant
      (∀ block, ¬ resident → p.imageOfTid k tid c.t.tenant = some block →
        (p.imageRoom block = true → exec (.msend d a b e f) s = .next (c.done (p.imageEnter block m))) ∧
        (p.imageRoom block = false → exec (.msend d a b e f) s = .next (c.block s1 (.imageRoom block)))) ∧
      (resident ∨ p.imageOfTid k tid c.t.tenant = none →
        (p.mailRoom k = false → exec (.msend d a b e f) s = .next (c.block s1 (.mailRoom k))) ∧
        (p.mailRoom k = true → resident → exec (.msend d a b e f) s = .next (c.done (p.enterMessage k m))) ∧
        (p.mailRoom k = true → ¬ resident →
          exec (.msend d a b e f) s = .next (c.done (p.modCore k fun x => { x with mailDiscards := x.mailDiscards + 1 })))))) ∧
  (∀ (s : State) (k : Nat), s.mailRoom k = true ↔ ((s.core k).mail.filter fun m => !m.device).length < 224 ∧ (s.core k).mail.length < 256) ∧
  (∀ (d a b : BitVec 6) (e f : BitVec 1),
    let form : Thread → Core → Form := fun _ _ => { Form.plain with d := opD .dst d, rsvd := nz a || nz b || nz e || nz f }
    (∀ m rest, Completes (.mwait d a b e f) form (fun c _ => c.popped.mailbox c.t = m :: rest) fun c _ =>
      c.finish (w64 (m.kind + m.status * 256 + m.sender * 65536))) ∧
    (Completes (.mwait d a b e f) form (fun c _ => c.popped.mailbox c.t = []) fun c _ => c.popped.modThread c.uid fun t =>
      { t.setStat .parkedMessage with await := .nothing, phase := 1 + c.dcode, parked := c.raw, parkedShown := c.shown, parkedRsvd := c.rsvd })) ∧
  (∀ (s : State) (k : Nat) (m : Msg) (t : Thread), s.addressee k m = some t → t.status = .ready →
    s.enterMessage k m = { s with nextId := s.nextId + 1 }.modCore k fun c =>
      { c with mail := c.mail ++ [{ m with bound := some t.uid, slot := t.slot, id := s.nextId }] }) ∧
  (∀ (s : State) (id k : Nat) (m : Msg), s.devMsgs.find? (fun e => e.2.id == id) = some (k, m) →
    (s.deviceRoom k m = true →
      exec (.deviceMessageEntry id) s = .next ({ s with devMsgs := s.devMsgs.filter fun e => e.2.id != id }.enterMessage k m)) ∧
    (s.deviceRoom k m = false → exec (.deviceMessageEntry id) s = .next s)) ∧
  (∀ (s : State) (k : Nat) (m : Msg) (t : Thread), s.addressee k m = some t →
    (s.deviceRoom k m = true ↔ (s.core k).mail.length < 256 ∧ (m.device = true ∨ ((s.core k).mail.filter fun m => !m.device).length < 224))) ∧
  (∀ (d a b : BitVec 6) (e f : BitVec 1) (s : State) (c : Ctx) (s1 : State),
    Runs s (.lcfg d a b e f) (fun _ _ => { Form.plain with a := opA .src a e, b := opB .src b f, rsvd := nz d }) c s1 →
    let down : Option Nat := if c.a.toNat.testBit 20 then some (fieldOf c.a 0 20) else none
    let up : Option Nat := if c.a.toNat.testBit 44 then some (fieldOf c.a 24 20) else none
    let allowed := s1.linkAllowed c.t down = true ∧ s1.linkAllowed c.t up = true
    let linked (p : State) (ring base : Nat) (pas : List Nat) : State := c.done
      ({ p with channels := p.channels.filter fun x => !(x.dst == c.uid) && !(x.src == c.uid) }.modThread c.uid fun t =>
        { t with down := down, up := up, ring := ring, ringVa := base, ringPa := pas })
    let pages (s : State) (va n : Nat) (ps : List (Nat × Nat × Nat)) : Prop := s.threadPages c.t va n .both = .ok ps ∧ ∀ x ∈ ps, tagged x.2.1 = true
    (¬ allowed → exec (.lcfg d a b e f) s = .next (c.trap s1 0x09 c.a)) ∧
    (allowed → c.b = 0 → s1.downDrained c.t = true → exec (.lcfg d a b e f) s = .next (linked c.popped 0 0 [])) ∧
    (allowed → c.b = 0 → s1.downDrained c.t = false → exec (.lcfg d a b e f) s = .next (c.block s1 .linkDrained)) ∧
    (allowed → c.b.toNat % 16 ≠ 0 → exec (.lcfg d a b e f) s = .next (c.trap s1 0x0A c.b)) ∧
    (∀ ps pa rs ws q p, allowed → c.b ≠ 0 → c.b.toNat % 16 = 0 → pages s1 c.b.toNat 16 ps → pageOf ps c.b.toNat = some pa → c.Drained s1 →
      c.Finds s1 c.b pa 2 ws q p → 4 ≤ (ws.getD 1 0).toNat → (ws.getD 1 0).toNat ≤ 20 →
      pages q (ws.getD 0 0).toNat (8 * 2 ^ (ws.getD 1 0).toNat) rs → (ws.getD 0 0).toNat % 8 = 0 →
      (q.downDrained c.t = true → exec (.lcfg d a b e f) s = .next (linked p c.b.toNat (ws.getD 0 0).toNat
        (wordsOf rs (ws.getD 0 0).toNat (2 ^ (ws.getD 1 0).toNat)))) ∧
      (q.downDrained c.t = false → exec (.lcfg d a b e f) s = .next (c.block q .linkDrained)))) ∧
  (∀ (s : State) (uid : Nat) (t : Thread) (o n : Nat), s.thread? uid = some t → t.status = .blockedRegister → s.frozen t = false →
    t.blockedAt = some n → n + (s.tenant t.tenant).linkLimit ≤ s.now → t.await = .upstream ∧ t.up = some o ∨ t.await = .downstream ∧ t.down = some o →
    exec (.linkStall uid) s = .next ((s.setThread t.wake).trapAt t.wake 0x12 (w64 o) t.parked t.parkedShown))

/-- FENCE.t completes when no access of the thread is outstanding, FENCE.d when also no engine operation is, FENCE.s when also no store is
short of its coherence point; else they wait. HALLOC, and HALLOC.nf at its allocator unit with the HEAPDESC of its issue, give the address
of a block that is aligned to its class, overlaps no live block and lies behind the metadata head of an arena, which becomes live; when
there is none HALLOC traps heap exhausted and HALLOC.nf gives 0. HFREE of a live block removes it, and of another address traps heap misuse.
Once a store of the tenant has met a metadata head, HALLOC may give the address of a live block, as the picks say. (R97, R98, R99, R100,
R101, R110, R374, R392, R393) -/
def Obligations.FencesAndHeap : Prop :=
  (∀ (d a b : BitVec 6) (e f : BitVec 1),
    let form : Thread → Core → Form := fun _ _ => { Form.plain with rsvd := nz d || nz a || nz b || nz e || nz f }
    let past (c : Ctx) : State := c.done (c.popped.dropReadAhead c.uid)
    Completes (.fenceT d a b e f) form (fun c s1 => c.Drained s1) (fun c _ => past c) ∧
    Completes (.fenceD d a b e f) form (fun c s1 => c.Drained s1 ∧ s1.enginesBusy c.t.core c.uid = false) (fun c _ => past c) ∧
    Completes (.fenceS d a b e f) form (fun c s1 => c.Drained s1 ∧ s1.enginesBusy c.t.core c.uid = false ∧ s1.incoherent c.uid = false)
      (fun c _ => past c) ∧
    Completes (.fenceD d a b e f) form (fun c s1 => c.Drained s1 ∧ s1.enginesBusy c.t.core c.uid = true)
      (fun c s1 => c.block (s1.flushSends c.uid) .engines) ∧
    Completes (.fenceS d a b e f) form (fun c s1 => c.Drained s1 ∧ s1.enginesBusy c.t.core c.uid = true) (fun c s1 => c.block s1 .engines) ∧
    Completes (.fenceS d a b e f) form (fun c s1 => c.Drained s1 ∧ s1.enginesBusy c.t.core c.uid = false ∧ s1.incoherent c.uid = true)
      (fun c s1 => c.block s1 .coherence) ∧
    ∀ i : Instr, i = .fenceT d a b e f ∨ i = .fenceD d a b e f ∨ i = .fenceS d a b e f →
      Completes i form (fun c s1 => c.t.owed = [] ∧ s1.drained c.uid = false) (fun c s1 => c.block s1 .accesses)) ∧
  (∀ (d a b : BitVec 6) (e f : BitVec 1) (s : State) (c : Ctx) (s1 : State), c.Drained s1 →
    let p := c.popped.dropReadAhead c.uid
    let desc := (s1.tenant c.t.tenant).heapdesc
    (Runs s (.halloc d a b e f) (fun _ _ => fmtR1 d a b e f) c s1 →
      (∀ va q, p.allocBlock c.t.tenant c.t.core c.a.toNat desc = (some va, q) → exec (.halloc d a b e f) s = .next (c.finishLater q (w64 va))) ∧
      ((p.allocBlock c.t.tenant c.t.core c.a.toNat desc).1 = none → exec (.halloc d a b e f) s = .next (c.trap s1 0x20 c.a))) ∧
    (Runs s (.hallocNf d a b e f) (fun _ _ => fmtR1 d a b e f) c s1 →
      exec (.hallocNf d a b e f) s = .next (c.send p { Access.blank .alloc 0 0 with val := c.a, val2 := desc, dst := c.dst? }))) ∧
  (∀ (s : State) (a : Access) (t : Thread), a.kind = .alloc → s.thread? a.uid = some t →
    let r := s.allocBlock t.tenant t.core a.val.toNat a.val2
    s.arrive a = r.2.performedWith a (a.results (w64 (r.1.getD 0)) 0)) ∧
  (∀ (s : State) (tenant core n : Nat) (desc : Word),
    let t := { s.tenant tenant with heapdesc := desc }
    let k := Nat.max 5 (ceilLog2 (Nat.max n 1))
    (t.arenaSize = 0 ∨ 65536 < n → s.allocBlock tenant core n desc = (none, s)) ∧
    (t.arenaSize ≠ 0 → n ≤ 65536 → t.headHit = false → ∀ j q, s.pick (2 ^ 64) = (j, q) →
      (∀ va, t.allocate (homeStack core) k j = some va →
        s.allocBlock tenant core n desc = (some va, q.modTenant tenant fun t =>
          if t.heapdesc = desc then { t with live := insert t.live va k } else { t with oldLive := (va, k) :: t.oldLive })) ∧
      (t.allocate (homeStack core) k j = none → s.allocBlock tenant core n desc = (none, q))) ∧
    (∀ ps j x, t.arenaSize ≠ 0 → n ≤ 65536 → t.headHit = true → s.picks = j :: ps → j % (t.live.length + 1) ≠ 0 →
      t.live[j % (t.live.length + 1) - 1]? = some x → s.allocBlock tenant core n desc = (some x.1, { s with picks := ps }))) ∧
  (∀ (t : Tenant) (home k pick va : Nat), k ≤ 16 → t.allocate home k pick = some va →
    va % 2 ^ k = 0 ∧ (∃ i, t.heapBase + i * t.arenaSize + t.arenaSize / 32 ≤ va ∧ va + 2 ^ k ≤ t.heapBase + (i + 1) * t.arenaSize) ∧
    ∀ b ∈ t.live ++ t.oldLive, va + 2 ^ k ≤ b.1 ∨ b.1 + 2 ^ b.2 ≤ va) ∧
  (∀ (d a b : BitVec 6) (e f : BitVec 1),
    let form : Thread → Core → Form := fun _ _ => { Form.plain with a := opA .src a e, rsvd := nz d || nz b || nz f }
    let live (c : Ctx) : Bool := (lookup? ((c.popped.dropReadAhead c.uid).tenant c.t.tenant).live c.a.toNat).isSome
    let hit (c : Ctx) : Bool := ((c.popped.dropReadAhead c.uid).tenant c.t.tenant).headHit
    Completes (.hfree d a b e f) form (fun c s1 => c.Drained s1 ∧ live c = true ∧ hit c = false) (fun c _ =>
      c.done ((c.popped.dropReadAhead c.uid).modTenant c.t.tenant fun t => { t with live := t.live.filter fun x => x.1 != c.a.toNat })) ∧
    Completes (.hfree d a b e f) form (fun c s1 => c.Drained s1 ∧ live c = false) (fun c s1 => c.trap s1 0x21 c.a))

/-- WATCH of a range of whole granules with an allowed action and enough room completes: it installs the entries for its runs, sets W on
each word of them and gives their number; with no room it gives 0. UNWATCH completes and removes the entries that WATCH or a debug core
installed for the tenant within its pages. Neither changes anything else; a curator thread acts for the tenant in TSCR0. A range or a length
that is no multiple of 64 traps misaligned address, an action below 2 protection fault. A write to a word with W = 0 raises nothing; with W
= 1 and no matching entry it clears W. No byte of memory changes when W is set. (R81, R82, R84, R316, R449, R454, R465, R466) -/
def Obligations.WatchTables : Prop :=
  (∀ (d a b : BitVec 6) (e f : BitVec 1) (s : State) (c : Ctx) (s1 : State), Runs s (.watch d a b e f) (fun _ _ => fmtR d a b e f) c s1 →
    let len := fieldOf c.b 0 32
    let act := fieldOf c.b 32 2
    let target := fieldOf c.b 44 20
    let tenant := c.t.actsFor
    (c.a.toNat % 64 ≠ 0 ∨ len % 64 ≠ 0 → exec (.watch d a b e f) s = .next (c.trap s1 0x0A c.a)) ∧
    (c.a.toNat % 64 = 0 → len % 64 = 0 →
      (act < 2 ∨ act = 3 ∧ (s1.tenant tenant).hasCore (tidCore target) = false → exec (.watch d a b e f) s = .next (c.trap s1 0x09 c.b)) ∧
      (2 ≤ act → (act = 3 → (s1.tenant tenant).hasCore (tidCore target) = true) →
        (len = 0 → exec (.watch d a b e f) s = .next (c.finish 0)) ∧
        (∀ ps, len ≠ 0 → s1.watchRange c.t c.a.toNat len ps → c.Drained s1 →
          let p := c.popped.dropReadAhead c.uid
          let runs := runsOf c.a.toNat [] ps
          let es := p.entriesFor runs
          (p.tablesHold es = false → exec (.watch d a b e f) s = .next (c.done (c.put p 0))) ∧
          (p.tablesHold es = true →
            let q := p.installWatch es runs tenant act (BitVec.ofNat 32 (if act = 2 then fieldOf c.b 34 2 + tenant * 256 else target))
              (if c.t.level = .curator then .debug else .watch) ((p.holder? target).map (·.uid))
            exec (.watch d a b e f) s = .next (c.done (c.put q (w64 es.length)))))))) ∧
  (∀ (d a b : BitVec 6) (e f : BitVec 1) (s : State) (c : Ctx) (s1 : State),
    Runs s (.unwatch d a b e f) (fun _ _ => { Form.plain with a := opA .src a e, b := opB .src b f, rsvd := nz d }) c s1 →
    (c.a.toNat % 64 ≠ 0 ∨ c.b.toNat % 64 ≠ 0 → exec (.unwatch d a b e f) s = .next (c.trap s1 0x0A c.a)) ∧
    (c.a.toNat % 64 = 0 → c.b.toNat % 64 = 0 →
      (c.b = 0 → exec (.unwatch d a b e f) s = .next (c.done c.popped)) ∧
      (∀ ps, c.b ≠ 0 → s1.watchRange c.t c.a.toNat c.b.toNat ps → c.Drained s1 →
        let p := c.popped.dropReadAhead c.uid
        exec (.unwatch d a b e f) s = .next (c.done { p with watch := p.watch.filter fun w => !(w.removable c.t ps) })))) ∧
  (∀ (d a b : BitVec 6) (e f : BitVec 1) (s : State) (t : Thread) (ps : List (Nat × Nat × Nat)), s.Settled t →
    let lo := (s.val t (opA .src a e)).toNat
    let w := s.val t (opB .src b f)
    let len := fieldOf w 0 32
    let act := fieldOf w 32 2
    let target := fieldOf w 44 20
    let es := s.entriesFor (runsOf lo [] ps)
    let g := fmtR d a b e f
    let h := { Form.plain with a := opA .src a e, b := opB .src b f, rsvd := nz d }
    (Ready s t g → lo % 64 = 0 → len % 64 = 0 → 2 ≤ act → (act = 3 → (s.tenant t.actsFor).hasCore (tidCore target) = true) →
      (len = 0 ∨ (s.watchRange t lo len ps ∧ s.tablesHold es = false) →
        ∃ s', exec (.watch d a b e f) s = .next s' ∧ Only s s' t (t.give g.d 0).past) ∧
      (len ≠ 0 → s.watchRange t lo len ps → s.tablesHold es = true →
        ∃ s', exec (.watch d a b e f) s = .next s' ∧ Makes s s' t (t.give g.d (w64 es.length)).past fun s =>
          s.installWatch es (runsOf lo [] ps) t.actsFor act (BitVec.ofNat 32 (if act = 2 then fieldOf w 34 2 + t.actsFor * 256 else target))
            (if t.level = .curator then .debug else .watch) ((s.holder? target).map (·.uid)))) ∧
    (Ready s t h → lo % 64 = 0 → w.toNat % 64 = 0 →
      (w = 0 → ∃ s', exec (.unwatch d a b e f) s = .next s' ∧ Only s s' t t.past) ∧
      (w ≠ 0 → s.watchRange t lo w.toNat ps → ∃ s', exec (.unwatch d a b e f) s = .next s' ∧
        Makes s s' t t.past fun s => { s with watch := s.watch.filter fun w => !(w.removable t ps) }))) ∧
  (∀ t : Thread, t.actsFor = if t.level = .curator then fieldOf t.tscr0 0 8 else t.tenant) ∧
  (∀ (s : State) (pa n j : Nat), pa % 8 = 0 → (s.setW pa n).mem = s.mem ∧
    (j < n / 8 → tagged (pa + 8 * j) = true → ((s.setW pa n).tag (pa + 8 * j)).w = true) ∧
    ((s.setW pa n).tag (pa + 8 * j)).p = (s.tag (pa + 8 * j)).p) ∧
  (∀ (s : State) (pa : Nat) (by_ : By), ((s.tag pa).w = false → s.written pa by_ = s) ∧
    (∀ t, by_ = .unit t → tagged pa = true → (s.tag pa).w = true → s.watchMatches pa = [] →
      ((s.written pa by_).tag pa).w = false ∧ (s.written pa by_).mem = s.mem ∧ (s.written pa by_).threads = s.threads) ∧
    (∀ f w, w.action = 0 → s.folio? w.arg.toNat = some f → s.watchAction w pa by_ = s.setFolio w.arg.toNat f.watched) ∧
    (∀ w, w.action = 1 → s.watchAction w pa by_ = s.dropHotRow w pa) ∧ (∀ w, w.action = 2 → s.watchAction w pa by_ = s.watchpoint w pa by_) ∧
    (∀ w, w.action = 3 → ∃ m, s.watchAction w pa by_ = s.deviceMessage (tidCore (w.arg.toNat % 2 ^ 20)) m ∧ m.kind = 3 ∧
      m.w0 = w.arg.setWidth 64 ∧ m.w1 = w64 (w.offset + (wordAddr pa - w.lo)) ∧ m.bound = w.bound) ∧
    (∀ t w ws, by_ = .unit t → tagged pa = true → (s.tag pa).w = true → s.watchMatches pa = w :: ws →
      s.written pa by_ = (w :: ws).foldl (fun s w => s.watchAction w pa by_) s))

/-- STAB replaces the entry by a good record and clears it for address 0; a bad record traps stream unbound and leaves it. SBIND waits for
the write beats of the old binding, then binds a copy of the entry at position 0, or unbinds. SSKIP moves the position by ga, modulo total
when the stream wraps, else at most to total; SPOS gives it. A pop takes the oldest elements at hand and moves the position as SSKIP does.
Position i0 + C0 (i1 + C1 i2) lies at BASE + i0 S0 + i1 S1 + i2 S2. The unit reads one element ahead where that is allowed. (R177, R178,
R179, R180, R181, R183, R184, R435, R436, R440, R444) -/
def Obligations.StreamTableAndPositions : Prop :=
  (∀ (d a b : BitVec 6) (e f : BitVec 1) (s : State) (c : Ctx) (s1 : State),
    Runs s (.stab d a b e f) (fun _ _ => { Form.plain with a := opA .src a e, b := opB .src b f, rsvd := nz d }) c s1 →
    let k := c.t.core
    (c.b.toNat % 32 ≠ 0 → exec (.stab d a b e f) s = .next (c.trap s1 0x0A c.b)) ∧
    (c.b.toNat % 32 = 0 → s1.hasStreamIndex c.t.tenant k c.a.toNat = false → exec (.stab d a b e f) s = .next (c.trap s1 0x09 c.a)) ∧
    (c.b.toNat % 32 = 0 → s1.hasStreamIndex c.t.tenant k c.a.toNat = true →
      (c.b = 0 → exec (.stab d a b e f) s = .next (c.done (c.popped.modCore k fun x =>
        { x with stab := x.stab.filter fun e => e.1 != c.a.toNat }))) ∧
      (∀ pa ws q p, c.b ≠ 0 → c.Reaches s1 c.b 32 true false false pa → c.Drained s1 → c.Finds s1 c.b pa 4 ws q p →
        let r := StreamEntry.ofWords ws
        (r.good k = true → p.streamInside c.t.tenant k r = true → exec (.stab d a b e f) s = .next (c.done (p.modCore k fun x =>
          { x with stab := insert x.stab c.a.toNat r }))) ∧
        (r.good k = false ∨ p.streamInside c.t.tenant k r = false → exec (.stab d a b e f) s = .next (c.trap q 0x10 c.b))))) ∧
  (∀ (d a b : BitVec 6) (e f : BitVec 1) (s : State) (c : Ctx) (s1 : State),
    Runs s (.sbind d a b e f) (fun _ _ => { Form.plain with a := opA .src a e, d := opD .name d, rsvd := nz b || nz f }) c s1 →
    let n := d.toNat - 48
    let unbind := c.a.toNat.testBit 63
    let entry := lookup? (s1.core c.t.core).stab c.a.toNat
    let quiet := ∀ x ∈ s1.accesses, x.uid = c.uid → x.kind ≠ .streamPut n
    let bound (x : Option Stream) : State := c.done ((({ c.popped with
      accesses := c.popped.accesses.filter fun (x : Access) => !(x.uid == c.uid && decide (x.kind = AccessKind.streamElem n)) }).modThread c.uid fun t =>
        { t with deferred := t.deferred.filter fun d => !d.dst.contains (48 + n) }).setStream c.uid n x)
    (unbind = false → s1.hasStreamIndex c.t.tenant c.t.core c.a.toNat = false → exec (.sbind d a b e f) s = .next (c.trap s1 0x09 c.a)) ∧
    (unbind = false → s1.hasStreamIndex c.t.tenant c.t.core c.a.toNat = true → entry = none →
      exec (.sbind d a b e f) s = .next (c.trap s1 0x10 (w64 n))) ∧
    (unbind = true → quiet → exec (.sbind d a b e f) s = .next (bound none)) ∧
    (∀ r, unbind = false → s1.hasStreamIndex c.t.tenant c.t.core c.a.toNat = true → entry = some r → quiet →
      exec (.sbind d a b e f) s = .next (bound (some { entry := r, pos := 0, record := [], ahead := [], aheadW := r.width }))) ∧
    (unbind = true ∨ s1.hasStreamIndex c.t.tenant c.t.core c.a.toNat = true ∧ entry.isSome = true → ¬ quiet →
      exec (.sbind d a b e f) s = .next (c.block s1 (.streamWrites n)))) ∧
  (∀ (d a b : BitVec 6) (e f : BitVec 1) (n : Nat),
    let skips : Thread → Core → Form := fun _ _ => { Form.plain with a := opA .src a e, d := opD .name d, rsvd := nz b || nz f }
    let asks : Thread → Core → Form := fun _ _ => { Form.plain with a := opA .name a 0, d := opD .dst d, rsvd := nz b || nz f }
    (∀ x, Completes (.spos d a b e f) asks (fun c _ => c.t.stream? (a.toNat - 48) = some x) fun c _ => c.finish (w64 x.pos)) ∧
    Completes (.spos d a b e f) asks (fun c _ => c.t.stream? (a.toNat - 48) = none) (fun c s1 => c.trap s1 0x10 (w64 (a.toNat - 48))) ∧
    (n = d.toNat - 48 →
      Completes (.sskip d a b e f) skips (fun c _ => c.t.stream? n = none) (fun c s1 => c.trap s1 0x10 (w64 n)) ∧
      (∀ x, Completes (.sskip d a b e f) skips (fun c _ => c.t.stream? n = some x ∧ c.a = 0) fun c _ => c.done c.popped) ∧
      (∀ x, Completes (.sskip d a b e f) skips (fun c _ => c.t.stream? n = some x ∧ c.a ≠ 0) fun c _ =>
        let p := c.popped
        let gone : State := { p with accesses := p.accesses.filter fun (x : Access) => !(x.uid == c.uid && decide (x.kind = AccessKind.streamElem n)) }.modThread
          c.uid fun t => { t with deferred := t.deferred.filter fun d => !d.dst.contains (48 + n) }
        c.done ((if ((((p.thread? c.uid).bind fun t => t.stream? n).map fun x => x.ahead.length).getD 0) < c.a.toNat then gone else p).modThread c.uid fun t =>
          { t with streams := t.streams.setIfInBounds n ((t.stream? n).map fun x => x.skip c.a.toNat) })))) ∧
  (∀ (x : Stream) (k : Nat), (x.skip k).pos = (if x.entry.wrap then (x.pos + k) % Nat.max 1 x.entry.total else Nat.min x.entry.total (x.pos + k)) ∧
    (x.skip k).record = [] ∧ (x.skip k).entry = x.entry) ∧
  (∀ (s : State) (uid n k : Nat) (t : Thread) (x : Stream), s.thread? uid = some t → t.stream? n = some x →
    (s.popStream uid n k).2 = x.ahead.take k ∧ ∃ t' y, (s.popStream uid n k).1.thread? uid = some t' ∧ t'.stream? n = some y ∧
      y.pos = (x.skip k).pos ∧ y.ahead = x.ahead.drop k ∧ (x.entry.dir ≠ 2 → y.record = [])) ∧
  (∀ (e : StreamEntry) (i0 i1 i2 : Nat), i0 < e.count0 → i1 < e.count1 → e.width ≠ 4 →
    e.place (i0 + e.count0 * (i1 + e.count1 * i2)) = ((e.base : Int) + i0 * e.stride0 + i1 * e.stride1 + i2 * e.stride2, 0)) ∧
  (∀ (s : State) (uid n p : Nat) (t : Thread) (x : Stream), s.thread? uid = some t → t.stream? n = some x →
    (s.mayReadAhead t n = false → exec (.streamReadAhead uid n) s = .next s) ∧
    (s.mayReadAhead t n = true → x.aheadW = x.entry.width → x.posAt x.ahead.length = some p → exec (.streamReadAhead uid n) s =
      .next ({ s with nextId := s.nextId + 1 }.startStreamAccess { x.readAccess n uid t.core p x.entry.width s.nextId 0 0 with answered := true })))

/-- CPYGO whose values are multiples of 8, whose pages are at hand and whose queue has room appends the transfer, clears P of its
destination unless .nc, and gives the ID of the counter of the core, which steps. CPYST gives state and rows of the newest transfer of that
ID and tenant, else 0. CPYCAN cancels one that is queued or running. A step reads and writes words, all by default, and ends the transfer
behind its last, or takes a stopped one to a boundary; reads may run ahead of the writes; a plain word arrives with P = 1, or P unchanged
for .nc. SUBS adds or replaces an entry under its checks, UNSUBS removes it. (R109, R188, R189, R190, R191, R196, R353, R354, R355, R356,
R447) -/
def Obligations.CopiesAndSubscriptions : Prop :=
  (∀ (d a b : BitVec 6) (e f : BitVec 1) (nc : Bool) (s : State) (c : Ctx) (s1 : State),
    let i : Instr := if nc then .cpygoNc d a b e f else .cpygo d a b e f
    Runs s i (fun _ _ => { Form.plain with a := opA .src a e, d := opD .dst d, rsvd := nz b || nz f }) c s1 → c.Drained s1 →
    let p := c.popped.dropReadAhead c.uid
    let r := c.t.copyRegs
    let odd := [r.src, r.dst, r.len, wordI r.sstr, wordI r.dstr].filter fun v => v.toNat % 8 ≠ 0
    (∀ v rest, odd = v :: rest → exec i s = .next (c.trap s1 0x0A v)) ∧
    (∀ cause v, odd = [] → copyRange (s1.pager c.t) r = .error (.bad cause v) → exec i s = .next (c.raise s1 cause (w64 v))) ∧
    (∀ v n, odd = [] → copyRange (s1.pager c.t) r = .error (.miss v n) →
      ∃ code, exec i s = .next (c.miss s1 (w64 v) code)) ∧
    (∀ ps, odd = [] → copyRange (s1.pager c.t) r = .ok ps → 32 ≤ (s1.core c.t.core).transfers.length →
      exec i s = .next (c.block s1 .launchRoom)) ∧
    (∀ ps, odd = [] → copyRange (s1.pager c.t) r = .ok ps → (s1.core c.t.core).transfers.length < 32 →
      let x : Transfer :=
        { id := (p.core c.t.core).nextTransfer.toNat, serial := p.nextId, uid := some c.uid, tid := c.t.tid, tenant := c.t.tenant,
          dusk := p.classOf c.t == .dusk, cls := (p.classOf c.t).num, queue := none, src := c.t.cpysrc.toNat, dst := c.t.cpydst.toNat, len := c.t.cpylen.toNat % 2 ^ 32,
          sstr := (c.t.cpystr.setWidth 32).toInt, dstr := ((c.t.cpystr >>> 32).setWidth 32).toInt,
          rows := Nat.max 1 (c.t.cpyrows.toNat % 2 ^ 32), flg := c.t.cpyflg, tag := c.a.toNat % 2 ^ 16, nc := nc, rowFallback := false,
          curatorLevel := c.t.level == .curator, pages := ps, subs := p.subscribers c.t.core c.t.tenant c.t.cpyflg, state := .queued, next := 0,
          carried := [], written := 0, done := 0, short := false, poisoned := false, lease := false }
      let q := if nc then p else p.claimCopy c.t.core x
      exec i s = .next (c.finishLater (({ q with nextId := q.nextId + 1 }.modCore c.t.core fun k =>
        { k with transfers := k.transfers ++ [x], nextTransfer := k.nextTransfer + 1 }).postNow (.copyCompletion c.t.core x.serial)) (w64 x.id)))) ∧
  (∀ (d a b : BitVec 6) (e f : BitVec 1),
    let asks : Thread → Core → Form := fun _ _ => { Form.plain with a := opA .src a e, d := opD .dst d, rsvd := nz b || nz f }
    let names : Thread → Core → Form := fun _ _ => { Form.plain with a := opA .src a e, rsvd := nz d || nz b || nz f }
    let found (c : Ctx) (s1 : State) : Option Transfer :=
      (s1.core c.t.core).transfers.reverse.find? fun x => x.id == c.a.toNat % 2 ^ 16 && x.tenant == c.t.tenant && x.uid.isSome
    (∀ x, Completes (.cpyst d a b e f) asks (fun c s1 => found c s1 = some x) fun c _ => c.finishLater c.popped
      (w64 ((match x.state with | .queued => 1 | .running => 2 | .cancelled => 3) + x.done * 2 ^ 32))) ∧
    Completes (.cpyst d a b e f) asks (fun c s1 => found c s1 = none) (fun c _ => c.finishLater c.popped 0) ∧
    (∀ x, Completes (.cpycan d a b e f) names (fun c s1 => found c s1 = some x ∧ x.state ≠ .cancelled ∧ x.next < x.rows * (x.len / 8)) fun c _ =>
      c.done (c.popped.modCore c.t.core fun k => k.setTransfer { x with state := .cancelled })) ∧
    Completes (.cpycan d a b e f) names (fun c s1 => ∀ x, found c s1 = some x → x.state = .cancelled ∨ x.rows * (x.len / 8) ≤ x.next) (fun c _ => c.done c.popped)) ∧
  (∀ (s : State) (core id : Nat) (x : Transfer), (s.core core).transfers.find? (fun x => x.serial == id) = some x →
    (s.transferStopped core x = false →
      (x.state = .cancelled → exec (.copyCompletion core id) s = .next (s.endTransfer core x)) ∧
      (x.state ≠ .cancelled → (s.core core).mayRun x = false → exec (.copyCompletion core id) s = .next s) ∧
      (x.state ≠ .cancelled → (s.core core).mayRun x = true → 
        let left := 2 * (x.words - x.next) - x.carried.length
        ∀ k q u y, s.pick (left + 1) = (k, q) →
        q.copyWords core (if k = 0 then left else k) { x with state := .running } = (u, y) →
        exec (.copyCompletion core id) s =
          .next (if y.words ≤ y.next then u.endTransfer core y else u.modCore core fun k => k.setTransfer y))) ∧
    (s.transferStopped core x = true →
      (x.aligned = true → exec (.copyCompletion core id) s = .next s) ∧
      (x.aligned = false → ∀ u y, s.copyWords core 1 x = (u, y) → exec (.copyCompletion core id) s = .next (u.modCore core fun k => k.setTransfer y)))) ∧
  (∀ (s : State) (core n : Nat) (x : Transfer), s.copyWords core 0 x = (s, x) ∧
    (x.next < x.words → s.copyMayAct x = true → ∀ u y, s.copyAct core x = (u, y) → s.copyWords core (n + 1) x = u.copyWords core n y) ∧
    (x.words ≤ x.next ∨ s.copyMayAct x = false → s.copyWords core (n + 1) x = (s, x))) ∧
  (∀ (s : State) (core : Nat) (x : Transfer) (a : Nat), x.carried = [] → x.srcPa x.next = some a → regionOf a = .dram →
    s.eccOf a = .ok → s.copyAct core x = (s, { x with
      carried := [if s.poisoned a = true then .poison else .data (s.word a)], poisoned := x.poisoned || s.poisoned a })) ∧
  (∀ (s : State) (core : Nat) (x : Transfer) (w : CopyWord) (rest : List CopyWord), x.carried = w :: rest →
    (s.copyMayPut x = true → s.copyMayRead x = false → s.copyAct core x = s.copyWrite core x w) ∧
    (s.copyMayPut x = false → s.copyAct core x = s.copyRead core x) ∧
    (s.copyMayPut x = true → s.copyMayRead x = true → ∀ k q, s.pick 2 = (k, q) →
      s.copyAct core x = if k = 0 then q.copyWrite core x w else q.copyRead core x)) ∧
  (∀ (s : State) (core : Nat) (x : Transfer) (v : Word) (d : Nat), s.MemOk → (s.core core).Unwatched → x.subs = [] → x.rowFallback = false →
    x.dstPa x.next = some d → regionOf d = .dram → d % 8 = 0 → s.eccOf d = .ok →
    s.poisoned d = false → (s.tag d).w = false → s.waiters [d] = [] →
    let r := s.copyWrite core x (.data v)
    let last := (x.next + 1) % (x.len / 8) = 0
    r.2 = { x with
      next := x.next + 1, carried := x.carried.tail, written := x.written + 1, done := x.done + (if last ∧ x.short = false then 1 else 0),
      short := x.short && !decide last } ∧ r.1.word d = v ∧
      (r.1.tag d).p = (if x.nc then (s.tag d).p else true) ∧ (∀ j, j < d ∨ d + 8 ≤ j → r.1.byte j = s.byte j) ∧ r.1.threads = s.threads) ∧
  (∀ (d a b : BitVec 6) (e f : BitVec 1) (s : State) (c : Ctx) (s1 : State),
    Runs s (.subs d a b e f) (fun _ _ => { Form.plain with a := opA .src a e, b := opB .src b f, rsvd := nz d }) c s1 →
    let root := fieldOf c.a 16 11
    let off := c.b.toNat % 2 ^ 20
    let u : Subscription := { tenant := c.t.tenant, tag := c.a.toNat % 2 ^ 16, root := root, off := off }
    let old := (s1.core c.t.core).subs.find? fun v => v.tenant == u.tenant && v.tag == u.tag && v.root == root
    let rooted := s1.present root = true ∧ (s1.tenant c.t.tenant).hasCore root = true
    let placed := off % 8 = 0 ∧ s1.allots c.t.tenant c.t.core off 8 = true
    (¬ rooted → exec (.subs d a b e f) s = .next (c.trap s1 0x09 c.a)) ∧ (rooted → ¬ placed → exec (.subs d a b e f) s = .next (c.trap s1 0x09 c.b)) ∧
    (rooted → placed → old = none → 16 ≤ (s1.core c.t.core).subs.length → exec (.subs d a b e f) s = .next (c.trap s1 0x09 c.a)) ∧
    (rooted → placed → old = none → (s1.core c.t.core).subs.length < 16 → exec (.subs d a b e f) s =
      .next (c.done (c.popped.modCore c.t.core fun k => { k with subs := k.subs ++ [u] }))) ∧
    (∀ v, rooted → placed → old = some v → exec (.subs d a b e f) s =
      .next (c.done (c.popped.modCore c.t.core fun k => { k with subs := k.subs.map fun x => if x = v then u else x })))) ∧
  (∀ (d a b : BitVec 6) (e f : BitVec 1),
    Completes (.unsubs d a b e f) (fun _ _ => { Form.plain with a := opA .src a e, rsvd := nz d || nz b || nz f }) (fun _ _ => True) fun c _ =>
      c.done (c.popped.modCore c.t.core fun k => { k with subs := k.subs.filter fun u =>
        !(u.tenant == c.t.tenant && u.tag == c.a.toNat % 2 ^ 16 && u.root == fieldOf c.a 16 11) }))

/-- GATH and GATH.sum of a good request whose slot holds a table and whose pages are at hand clear P of the destination and launch the
gather with that version; a bad request traps protection fault. A row step writes the row, poisons the words of poison, or skips and counts
it, and goes on to the next row or ends; before it the engine may read any of its source words. TBSW installs a good descriptor or empties
the slot; the version held becomes old. TBDRN waits for the gathers, also saved ones, of the versions that were old when it began, and then
removes those. An empty bag sums to zeros, INT64 sums wrap. The counts of a hot-row store halve after 2^20 lookups. (R229, R230, R231, R232,
R233, R234, R235, R238, R385, R386, R452) -/
def Obligations.GathersAndTables : Prop :=
  (∀ (d a b : BitVec 6) (e f : BitVec 1) (sum : Bool) (s : State) (c : Ctx) (s1 : State) (pa : Nat) (q : List Word) (s2 p : State),
    let i : Instr := if sum then .gathSum d a b e f else .gath d a b e f
    Runs s i (fun _ _ => { Form.plain with a := opA .src a e, rsvd := nz d || nz b || nz f }) c s1 →
    (c.a.toNat % 32 ≠ 0 → exec i s = .next (c.trap s1 0x0A c.a)) ∧
    (c.a.toNat % 32 = 0 → c.Reaches s1 c.a 32 true false false pa → c.Drained s1 → c.Finds s1 c.a pa 4 q s2 p →
      let slot := fieldOf (q.getD 0 0) 0 8
      let table := lookup? (p.tenant c.t.tenant).tables slot
      (table = none ∨ reqGood q sum = false ∨ (∃ t, table = some t ∧ sum = true ∧ t.fmt ∉ [0, 1, 2, 3, 9, 10]) →
        exec i s = .next (c.trap s2 0x09 c.a)) ∧
      (∀ t, table = some t → reqGood q sum = true → (sum = true → t.fmt ∈ [0, 1, 2, 3, 9, 10]) →
        let rows := if sum then fieldOf (q.getD 0 0) 16 16 else fieldOf (q.getD 0 0) 32 32
        let size := if (q.getD 0 0).toNat.testBit 8 then 8 else 4
        ∀ is os ds, s2.threadPages c.t (fieldOf (q.getD 1 0) 0 52) (fieldOf (q.getD 0 0) 32 32 * size) .read = .ok is →
          s2.threadPages c.t (fieldOf (q.getD 3 0) 0 52) (if sum then (fieldOf (q.getD 0 0) 16 16 + 1) * size else 0) .read = .ok os →
          s2.threadPages c.t (fieldOf (q.getD 2 0) 0 52) (rows * t.rowBytes) .write = .ok ds →
          (∀ x rest, ds.filter badDest = x :: rest → exec i s = .next (c.trap s2 0x09 (w64 x.1))) ∧
          (ds.filter badDest = [] →
          let g : Gather :=
            { id := p.nextId, uid := c.uid, tenant := c.t.tenant, core := c.t.core, stack := homeStack c.t.core, sum := sum,
              curatorLevel := c.t.level == .curator, req := reqDefined q sum, slot := slot, table := t, next := 0, rows := rows,
              lookups := fieldOf (q.getD 0 0) 32 32, dusk := p.classOf c.t == .dusk, window := 0, seen := [], got := [], pages := is ++ os ++ ds }
          let u := p.claimRange c.t.core c.t.tenant g.dusk g.curatorLevel g.pages (fieldOf (q.getD 2 0) 0 52) (rows * t.rowBytes / 8)
          exec i s = .next (c.done ({ u with nextId := u.nextId + 1, gathers := u.gathers ++ [g] }.postNow (.gatherRowWrite g.id))))))) ∧
  (∀ (d a b : BitVec 6) (e f : BitVec 1) (s : State) (c : Ctx) (s1 : State),
    Runs s (.tbsw d a b e f) (fun _ _ => { Form.plain with a := opA .src a e, b := opB .src b f, rsvd := nz d }) c s1 →
    (255 < c.a.toNat → exec (.tbsw d a b e f) s = .next (c.trap s1 0x09 c.a)) ∧
    (c.a.toNat ≤ 255 → c.b.toNat % 64 ≠ 0 → exec (.tbsw d a b e f) s = .next (c.trap s1 0x0A c.b)) ∧
    (c.a.toNat ≤ 255 → c.b = 0 → c.Drained s1 → exec (.tbsw d a b e f) s =
      .next (c.done ((c.popped.dropReadAhead c.uid).modTenant c.t.tenant fun t => t.retire c.a.toNat))) ∧
    (∀ pa ws q p, c.a.toNat ≤ 255 → c.b.toNat % 64 = 0 → c.b ≠ 0 → c.Reaches s1 c.b 64 true false false pa → c.Drained s1 →
      c.Finds s1 c.b pa 8 ws q p →
      let good := ({ words := ws, hot := false, serial := 0 } : TableSlot).good ((p.tenant c.t.tenant).tableVersion c.a.toNat)
      (good = true → exec (.tbsw d a b e f) s = .next (c.done (p.installTable c.t.viewer c.t.tenant c.a.toNat (TableSlot.defined ws)))) ∧
      (good = false → exec (.tbsw d a b e f) s = .next (c.trap q 0x09 c.b)))) ∧
  (∀ (s : State) (v : Viewer) (n slot : Nat) (ws : List Word) (t : Tenant), s.tenant? n = some t → (ws.getD 2 0).toNat.testBit 4 = false →
    ∃ t', (s.installTable v n slot ws).tenant? n = some t' ∧ lookup? t'.tables slot = some { words := ws, hot := false, serial := s.nextId } ∧
      t'.oldTables = t.oldTables ++ (match lookup? t.tables slot with | some o => [(slot, o)] | none => [])) ∧
  (∀ (d a b : BitVec 6) (e f : BitVec 1),
    let form : Thread → Core → Form := fun _ _ => { Form.plain with a := opA .src a e, rsvd := nz d || nz b || nz f }
    Completes (.tbdrn d a b e f) form (fun c _ => 255 < c.a.toNat) (fun c s1 => c.trap s1 0x09 c.a) ∧
    (let old (c : Ctx) (s1 : State) := if c.t.phase = 0 then (s1.tenant c.t.tenant).oldVersions c.a.toNat else c.t.waits
     Completes (.tbdrn d a b e f) form (fun c s1 => c.a.toNat ≤ 255 ∧ s1.oldGathers c.t.tenant c.a.toNat (old c s1) = true)
      (fun c s1 => c.block (s1.modThread c.uid fun t => { t with phase := 1, waits := old c s1 }) (.oldGathers c.a.toNat)) ∧
     Completes (.tbdrn d a b e f) form (fun c s1 => c.a.toNat ≤ 255 ∧ s1.oldGathers c.t.tenant c.a.toNat (old c s1) = false)
      (fun c s1 => c.done ((c.popped.drainTable c.t.tenant c.a.toNat (old c s1)).modThread c.uid fun t => { t with waits := [] })))) ∧
  (∀ (d a b : BitVec 6) (e f : BitVec 1) (s : State) (t : Thread),
    let x := s.val t (opA .src a e)
    let old := (s.tenant t.tenant).oldVersions x.toNat
    (Ready s t { Form.plain with a := opA .src a e, rsvd := nz d || nz b || nz f } → x.toNat ≤ 255 → t.phase = 0 →
      s.oldGathers t.tenant x.toNat old = false → ∃ s', exec (.tbdrn d a b e f) s = .next s' ∧
        Makes s s' t { t with waits := [] }.past fun s => s.drainTable t.tenant x.toNat old) ∧
    (s.Settled t → Ready s t { Form.plain with a := opA .src a e, b := opB .src b f, rsvd := nz d } → x.toNat ≤ 255 →
      s.val t (opB .src b f) = 0 → ∃ s', exec (.tbsw d a b e f) s = .next s' ∧
        Makes s s' t t.past fun s => s.modTenant t.tenant fun n => n.retire x.toNat)) ∧
  (∀ (t : Tenant) (slot : Nat), lookup? (t.retire slot).tables slot = none ∧
    (t.retire slot).oldTables = t.oldTables ++ (match lookup? t.tables slot with | some o => [(slot, o)] | none => [])) ∧
  (∀ (s : State) (tenant slot : Nat) (old : List Nat), s.oldGathers tenant slot old = true ↔
    ∃ g, (g ∈ s.gathers ∨ ∃ i ∈ s.images, i.live = true ∧ g ∈ i.gathers) ∧ g.tenant = tenant ∧ g.slot = slot ∧ g.table.serial ∈ old) ∧
  (∀ (s : State) (id : Nat) (g : Gather), s.gathers.find? (fun g => g.id == id) = some g →
    (s.gatherMayWrite g = false → exec (.gatherRowWrite id) s = .next s) ∧
    (s.gatherMayWrite g = true →
      let n := 1 + g.table.rowBytes / 8
      let words := n * (g.lookups + (if g.sum then fieldOf (g.req.getD 0 0) 16 16 + 1 else 0))
      ∀ k q, s.pick (1 + words) = (k, q) →
      (k ≠ 0 → ∀ u h, q.gatherPeek g ((k - 1) / n) ((k - 1) % n) = (u, h) → exec (.gatherRowWrite id) s =
        .next ({ u with gathers := u.gathers.map fun x : Gather => if x.id = id then h else x }.postNow (.gatherRowWrite id))) ∧
      ∀ u h r, k = 0 → (if g.sum then q.bag g g.next else q.lookupRow g g.next) = (u, h, r) →
      let pas := h.rowPas h.next
      let lost := ∃ pa ∈ pas, u.engineLost h.core (some h.core) h.tenant h.dusk h.curatorLevel pa = true
      (r = .skip ∨ lost → exec (.gatherRowWrite id) s = .next ((u.countSkipped h.stack h.tenant).gatherNext h)) ∧
      (r = .poison → ¬ lost → exec (.gatherRowWrite id) s = .next ((u.putRow h pas (pas.map fun _ => none)).gatherNext h)) ∧
      (∀ ws, r = .value ws → ¬ lost → exec (.gatherRowWrite id) s = .next ((u.putRow h pas ws).gatherNext h)))) ∧
  (∀ (fmt n : Nat), poolRows fmt (8 * n) [] = List.replicate n 0) ∧
  (∀ (n : Nat) (r : List Word) (rs : List (List Word)), (∀ x ∈ r :: rs, x.length = n) →
    poolRows 9 (8 * n) (r :: rs) = rs.foldl (fun x y => List.zipWith (· + ·) x y) r) ∧
  (∀ (s : State) (stack : Nat), (lookupD s.front.hotLookups stack 0 < 2 ^ 20 → exec (.hotRowCountHalving stack) s = .next s) ∧
    (2 ^ 20 ≤ lookupD s.front.hotLookups stack 0 → ∃ u, exec (.hotRowCountHalving stack) s = .next (s.modFront fun _ => u) ∧
      (∀ k, k / 2 ^ 16 = stack → (lookupD u.hotCounts k 0).toNat = (lookupD s.front.hotCounts k 0).toNat / 2) ∧
      (∀ k, k / 2 ^ 16 ≠ stack → lookupD u.hotCounts k 0 = lookupD s.front.hotCounts k 0))) ∧
  (∀ (d a b : BitVec 6) (e f : BitVec 1) (sum : Bool) (s : State) (t : Thread) (pa : Nat) (q : List Word) (table : TableSlot)
    (is os ds : List (Nat × Nat × Nat)),
    let i : Instr := if sum then .gathSum d a b e f else .gath d a b e f
    let h : Form := { Form.plain with a := opA .src a e, rsvd := nz d || nz b || nz f }
    let rows := if sum then fieldOf (q.getD 0 0) 16 16 else fieldOf (q.getD 0 0) 32 32
    let size := if (q.getD 0 0).toNat.testBit 8 then 8 else 4
    Ready s t h → s.drained t.uid = true → s.Descriptor t (s.val t h.a) 4 false pa q →
    lookup? (s.tenant t.tenant).tables (fieldOf (q.getD 0 0) 0 8) = some table → reqGood q sum = true →
    (sum = true → table.fmt ∈ [0, 1, 2, 3, 9, 10]) →
    s.threadPages t (fieldOf (q.getD 1 0) 0 52) (fieldOf (q.getD 0 0) 32 32 * size) .read = .ok is →
    s.threadPages t (fieldOf (q.getD 3 0) 0 52) (if sum then (fieldOf (q.getD 0 0) 16 16 + 1) * size else 0) .read = .ok os →
    s.threadPages t (fieldOf (q.getD 2 0) 0 52) (rows * table.rowBytes) .write = .ok ds → ds.filter badDest = [] →
    ∃ s' g, exec i s = .next s' ∧ g ∈ s'.gathers ∧ g.uid = t.uid ∧ g.tenant = t.tenant ∧ g.core = t.core ∧ g.sum = sum ∧
      g.req = reqDefined q sum ∧ g.table = table ∧ g.rows = rows ∧ g.next = 0 ∧ g.pages = is ++ os ++ ds) ∧
  (∀ (d a b : BitVec 6) (e f : BitVec 1) (s : State) (t : Thread) (pa : Nat) (ws : List Word),
    let h : Form := { Form.plain with a := opA .src a e, b := opB .src b f, rsvd := nz d }
    Ready s t h → s.drained t.uid = true → (s.val t h.a).toNat ≤ 255 → s.val t h.b ≠ 0 → s.Descriptor t (s.val t h.b) 8 false pa ws →
    ({ words := ws, hot := false, serial := 0 } : TableSlot).good ((s.tenant t.tenant).tableVersion (s.val t h.a).toNat) = true →
    ∃ c, Issued s t h c ∧ exec (.tbsw d a b e f) s = .next (c.done ((c.popped.dropReadAhead t.uid).installTable t.viewer t.tenant
      (s.val t h.a).toNat (TableSlot.defined ws))))

/-- KSEND to a configured set with fewer than 64 sends outstanding sends its key and value to the bin that the configuration names, else it
traps or waits. BIN_UPDATE applies a send to its bin without changing P, or drops it, which counts for its threads, when the core refuses
the tenant or the bin is poisoned. An entry of a combining buffer goes on after 512 cycles. Combining sums, maxima and minima never changes
what the bin gets. KFLUSH waits for the sends and round-outs of its thread, gives the dropped count and starts it at 0. KBIN installs a good
descriptor. (R239, R240, R241, R242, R243, R244, R245, R246, R401, R402, R403) -/
def Obligations.KeyRoutedSends : Prop :=
  (∀ (d a b : BitVec 6) (e f : BitVec 1) (s : State) (c : Ctx) (s1 : State),
    Runs s (.kbin d a b e f) (fun _ _ => { Form.plain with a := opA .src a e, b := opB .src b f, rsvd := nz d }) c s1 →
    (63 < c.a.toNat → exec (.kbin d a b e f) s = .next (c.trap s1 0x09 c.a)) ∧
    (c.a.toNat ≤ 63 → c.b.toNat % 32 ≠ 0 → exec (.kbin d a b e f) s = .next (c.trap s1 0x0A c.b)) ∧
    (c.a.toNat ≤ 63 → c.b = 0 → c.Drained s1 → exec (.kbin d a b e f) s = .next (c.done ((c.popped.dropReadAhead c.uid).modTenant c.t.tenant
      fun t => { t with bins := t.bins.filter fun x => x.1 != c.a.toNat }))) ∧
    (∀ pa ws q p, c.a.toNat ≤ 63 → c.b.toNat % 32 = 0 → c.b ≠ 0 → c.Reaches s1 c.b 32 true false false pa → c.Drained s1 →
      c.Finds s1 c.b pa 4 ws q p →
      (p.goodBins c.t.tenant (ws.getD 0 0, ws.getD 1 0) = true → exec (.kbin d a b e f) s = .next (c.done (p.modTenant c.t.tenant
        fun t => { t with bins := insert t.bins c.a.toNat (ws.getD 0 0, ws.getD 1 0) }))) ∧
      (p.goodBins c.t.tenant (ws.getD 0 0, ws.getD 1 0) = false → exec (.kbin d a b e f) s = .next (c.trap q 0x09 c.b)))) ∧
  (∀ (n a b : BitVec 6) (e f : BitVec 1),
    let form : Thread → Core → Form := fun _ _ => { Form.plain with a := opA .src a e, b := opB .src b f }
    let set (c : Ctx) (s1 : State) : Option BinSet := lookup? (s1.tenant c.t.tenant).bins n.toNat
    Completes (.ksend n a b e f) form (fun c s1 => set c s1 = none) (fun c s1 => c.trap s1 0x09 (w64 n.toNat)) ∧
    (∀ x, Completes (.ksend n a b e f) form (fun c s1 => set c s1 = some x ∧ 64 ≤ s1.sendsOf c.uid) fun c s1 => c.block s1 (.sends 64)) ∧
    (∀ x, Completes (.ksend n a b e f) form (fun c s1 => set c s1 = some x ∧ s1.sendsOf c.uid < 64) fun c _ =>
      c.done ({ c.popped with nextId := c.popped.nextId + 1 }.enterSend
        { id := c.popped.nextId, uids := [c.uid], tid := c.t.tid, tenant := c.t.tenant, from_ := c.t.core, curatorLevel := c.t.level == Level.curator,
          dusk := c.popped.classOf c.t == Cls.dusk, set := n.toNat, key := c.a, op := BinSet.op x, core := (BinSet.place x c.a).1,
          off := (BinSet.place x c.a).2, value := (sendValue (BinSet.op x) c.b).1, flags := (sendValue (BinSet.op x) c.b).2, since := c.popped.now,
          buffered := false }))) ∧
  (∀ (x : BinSet) (key : Word), 0 < x.cores → 0 < x.bins →
    let total := x.cores * x.bins
    let k := if x.hsel = 0 then key.toNat % total else key.toNat * 0x9E3779B97F4A7C15 % 2 ^ 64 / 2 ^ 32 * total / 2 ^ 32
    k < total ∧ x.place key = (x.core0 + k / x.bins, x.base + k % x.bins * (if x.op = 2 then 64 else 8))) ∧
  (∀ (s : State) (id : Nat) (x : Send), s.sends.find? (fun x => x.id == id) = some x →
    let pa := 0x010000000000 + x.core * 0x100000 + x.off
    let ws := if x.op = 2 then (List.range 8).map fun i => pa + 8 * i else [pa]
    (s.sendMayGo x = false → exec (.binUpdate id) s = .next s) ∧
    (s.sendMayGo x = true → ∀ u, ws.foldl (fun (s : State) w => s.checkEcc w)
        (({ s with sends := s.sends.filter fun y => y.id != id } : State).recallFor pa x.tenant x.dusk) = u →
      (u.refusesCore x.core (some x.from_) x.tenant x.curatorLevel = true ∨ (∃ w ∈ ws, u.poisoned w = true) → exec (.binUpdate id) s = .next (x.uids.foldl (fun s n => s.modThread n fun t => { t with dropped := t.dropped + 1 }) u)) ∧
      (u.refusesCore x.core (some x.from_) x.tenant x.curatorLevel = false → (∀ w ∈ ws, u.poisoned w = false) →
        exec (.binUpdate id) s = .next (u.writeBin x.tenant (u.binWords x pa)))) ∧
    (x.buffered = true → s.sendMayGo x = false) ∧
    (x.buffered = true → x.since + 512 ≤ s.now → exec (.combiningEntryTimeout id) s = .next (s.sendOn id)) ∧
    (s.now < x.since + 512 → exec (.combiningEntryTimeout id) s = .next s)) ∧
  (∀ (s : State) (x : Send) (pa : Nat),
    (x.op = 1 ∨ x.op = 5 → s.binWords x pa = [(pa, s.word pa + wordI x.value)]) ∧
    (x.op = 3 → s.binWords x pa = [(pa, wordI (if (s.word pa).toInt ≤ x.value then x.value else (s.word pa).toInt))]) ∧
    (x.op = 4 → s.binWords x pa = [(pa, wordI (if (s.word pa).toInt ≤ x.value then (s.word pa).toInt else x.value))]) ∧
    (x.op = 0 → s.binWords x pa = [(pa, w64 (fp32.add .rne (fp32.unpack ((s.word pa).toNat % 2 ^ 32)) (fp32.unpack x.value.toNat)).1)])) ∧
  (∀ (op : Nat) (old x y : Word), op = 1 ∨ op = 3 ∨ op = 4 ∨ op = 5 →
    let apply (old : Word) (v : Int) : Word := if op = 3 then wordI (max old.toInt v) else if op = 4 then wordI (min old.toInt v) else old + wordI v
    apply (apply old x.toInt) y.toInt = apply old (combine op x.toInt y.toInt)) ∧
  (∀ (d a b : BitVec 6) (e f : BitVec 1),
    let form : Thread → Core → Form := fun _ _ => fmtR1 d a b e f
    let finish (c : Ctx) : State := c.done ((c.put c.popped (w64 c.t.dropped)).modThread c.uid fun t => { t with dropped := 0 })
    Completes (.kflush d a b e f) form (fun c s1 => c.t.phase = 0 ∧ s1.sendsOf c.uid = 0 ∧ s1.roundSet c.t.tenant c.a = none) (fun c _ => finish c) ∧
    Completes (.kflush d a b e f) form (fun c s1 => c.t.phase ≠ 0 ∧ ∀ r ∈ s1.roundOuts, r.uid ≠ c.uid) (fun c _ => finish c) ∧
    Completes (.kflush d a b e f) form (fun c s1 => c.t.phase ≠ 0 ∧ ∃ r ∈ s1.roundOuts, r.uid = c.uid) (fun c s1 => c.block s1 .roundOuts) ∧
    Completes (.kflush d a b e f) form (fun c s1 => c.t.phase = 0 ∧ s1.sendsOf c.uid ≠ 0)
      (fun c s1 => c.block (s1.flushSends c.uid) (.sends 1)) ∧
    ∀ x, Completes (.kflush d a b e f) form (fun c s1 => c.t.phase = 0 ∧ s1.sendsOf c.uid = 0 ∧ s1.roundSet c.t.tenant c.a = some x) fun c s1 =>
      c.block ((s1.requestRoundOuts c.uid x).modThread c.uid fun t => { t with phase := 1 }) .roundOuts) ∧
  (∀ (s : State) (id : Nat) (r : RoundOut) (t : Thread), s.roundOuts.find? (fun r => r.id == id) = some r → s.thread? r.uid = some t →
    let pa := 0x010000000000 + r.core * 0x100000 + r.off
    let ws := (List.range 8).map fun i => pa + 8 * i
    (s.roundOutMayGo r = false → exec (.binRoundOut id) s = .next s) ∧
    (s.roundOutMayGo r = true → ∀ u, ws.foldl (fun (s : State) w => s.checkEcc w)
        (({ s with roundOuts := s.roundOuts.filter fun x => x.id != id } : State).recallFor pa t.tenant (s.classOf t == Cls.dusk)) = u →
      u.refusesCore r.core (some t.core) t.tenant (t.level == Level.curator) = false → (∀ w ∈ ws, u.poisoned w = false) →
      exec (.binRoundOut id) s = .next (u.writeBin t.tenant [(pa + 48, setField (u.word (pa + 48)) 0 32
        (roundOut (BitVec.ofNat 320 (u.read pa 40)).toInt (fieldOf (u.word (pa + 40)) 0 4)))]))) ∧
  (∀ (d a b n : BitVec 6) (e f : BitVec 1) (s : State) (t : Thread),
    let h : Form := { Form.plain with a := opA .src a e, b := opB .src b f, rsvd := nz d }
    let g : Form := { Form.plain with a := opA .src a e, b := opB .src b f }
    let k : Form := fmtR1 d a b e f
    (Ready s t h → s.Settled t → (s.val t h.a).toNat ≤ 63 → s.val t h.b = 0 → ∃ s', exec (.kbin d a b e f) s = .next s' ∧
      Makes s s' t t.past fun s => s.modTenant t.tenant fun x => { x with bins := x.bins.filter fun y => y.1 != (s.val t h.a).toNat }) ∧
    (∀ pa ws, Ready s t h → s.Settled t → (s.val t h.a).toNat ≤ 63 → s.val t h.b ≠ 0 → s.Descriptor t (s.val t h.b) 4 false pa ws →
      s.goodBins t.tenant (ws.getD 0 0, ws.getD 1 0) = true → ∃ s', exec (.kbin d a b e f) s = .next s' ∧
      Makes s s' t t.past fun s => s.modTenant t.tenant fun x => { x with bins := insert x.bins (s.val t h.a).toNat (ws.getD 0 0, ws.getD 1 0) }) ∧
    (∀ x, Ready s t g → lookup? (s.tenant t.tenant).bins n.toNat = some x → s.sendsOf t.uid < 64 → ∃ c, Issued s t g c ∧
      exec (.ksend n a b e f) s = .next (c.done (({ c.popped with nextId := s.nextId + 1 } : State).enterSend
        { id := s.nextId, uids := [t.uid], tid := t.tid, tenant := t.tenant, from_ := t.core, curatorLevel := t.level == Level.curator,
          dusk := s.classOf t == Cls.dusk, set := n.toNat, key := c.a, op := BinSet.op x, core := (BinSet.place x c.a).1,
          off := (BinSet.place x c.a).2, value := (sendValue (BinSet.op x) c.b).1, flags := (sendValue (BinSet.op x) c.b).2, since := s.now,
          buffered := false }))) ∧
    (Ready s t k → t.phase = 0 → s.sendsOf t.uid = 0 → s.roundSet t.tenant (s.val t k.a) = none → ∃ s', exec (.kflush d a b e f) s = .next s' ∧
      Only s s' t { t.give k.d (w64 t.dropped) with dropped := 0 }.past))

/-- RCOPY and RZERO of 8 KiB-aligned rows of class 3 clear P of the row, post the operation and give the path: 0 within a subarray and for
RZERO, 1 in the same stack, 2 between stacks in proving mode, by the copy engine with fallback row 16; between stacks service mode traps. An
odd address traps misaligned address, a wrong row protection fault. Once its turn comes, a copy reads its whole source row in one step (the
model's choice, log entry 85); the row step writes what was read, or zeros. The claim changes no byte. A bank whose idle timer has run out,
and a refresh, close the open row. (R298, R299, R300, R428, R429, R430) -/
def Obligations.RowOperationsAndBanks : Prop :=
  (∀ (d a b : BitVec 6) (e f : BitVec 1) (s : State) (c : Ctx) (s1 : State), Runs s (.rcopy d a b e f) (fun _ _ => fmtR d a b e f) c s1 →
    c.Drained s1 →
    let p := c.popped.dropReadAhead c.uid
    (c.a.toNat % 8192 ≠ 0 → exec (.rcopy d a b e f) s = .next (c.trap s1 0x0A c.a)) ∧
    (c.a.toNat % 8192 = 0 → c.b.toNat % 8192 ≠ 0 → exec (.rcopy d a b e f) s = .next (c.trap s1 0x0A c.b)) ∧
    (∀ dst src, c.a.toNat % 8192 = 0 → c.b.toNat % 8192 = 0 → s1.reach c.t c.a.toNat 8192 false true = .ok dst →
      s1.reach c.t c.b.toNat 8192 true false = .ok src →
      (s1.goodRow dst = false → exec (.rcopy d a b e f) s = .next (c.trap s1 0x09 c.a)) ∧
      (s1.goodRow dst = true → s1.goodRow src = false → exec (.rcopy d a b e f) s = .next (c.trap s1 0x09 c.b)) ∧
      (s1.goodRow dst = true → s1.goodRow src = true →
        let x := s1.cellOf dst
        let y := s1.cellOf src
        (x.stack = y.stack → ∃ path, path = (if (p.cellOf dst).bankNo = (p.cellOf src).bankNo ∧ (p.cellOf dst).row / 512 = (p.cellOf src).row / 512
            then 0 else 1) ∧
          exec (.rcopy d a b e f) s = .next (c.done (c.put ((({ p with nextId := p.nextId + 1, rowOps := p.rowOps ++
            [{ id := p.nextId, uid := c.uid, tid := c.t.tid, tenant := c.t.tenant, src := some src, dst := dst, data := none }] } : State).claimRow dst).postNow
              (.rowOperationWrite p.nextId)) (w64 path)))) ∧
        (x.stack ≠ y.stack → (s1.core c.t.core).prove = false → exec (.rcopy d a b e f) s = .next (c.trap s1 0x02 0)) ∧
        (x.stack ≠ y.stack → (s1.core c.t.core).prove = true → (s1.core c.t.core).transfers.length < 32 →
          let q := (p.launchCopy c.t.core { src := c.b, dst := c.a, len := 8192, strides := 0, rows := 1, flg := 2 }
            [(c.a.toNat, dst, 8192), (c.b.toNat, src, 8192)] 0 true (some c.t) c.t.tenant none true).2
          exec (.rcopy d a b e f) s = .next (({ c with row := if c.row = 0 then 16 else c.row } : Ctx).done (c.put (q.claimRow dst) 2)))))) ∧
  (∀ (d a b : BitVec 6) (e f : BitVec 1) (s : State) (c : Ctx) (s1 : State), Runs s (.rzero d a b e f) (fun _ _ => fmtR1 d a b e f) c s1 →
    c.Drained s1 →
    let p := c.popped.dropReadAhead c.uid
    (c.a.toNat % 8192 ≠ 0 → exec (.rzero d a b e f) s = .next (c.trap s1 0x0A c.a)) ∧
    (∀ dst, c.a.toNat % 8192 = 0 → s1.reach c.t c.a.toNat 8192 false true = .ok dst →
      (s1.goodRow dst = false → exec (.rzero d a b e f) s = .next (c.trap s1 0x09 c.a)) ∧
      (s1.goodRow dst = true → exec (.rzero d a b e f) s = .next (c.done (c.put ((({ p with nextId := p.nextId + 1, rowOps := p.rowOps ++
        [{ id := p.nextId, uid := c.uid, tid := c.t.tid, tenant := c.t.tenant, src := none, dst := dst, data := none }] } : State).claimRow dst).postNow
          (.rowOperationWrite p.nextId)) 0))))) ∧
  (∀ (s : State) (pa j : Nat), pa % 8 = 0 → (s.claimRow pa).mem = s.mem ∧ (s.claimRow pa).threads = s.threads ∧
    (j < 1024 → s.poisoned (pa + 8 * j) = false → ((s.claimRow pa).tag (pa + 8 * j)).p = false) ∧
    (s.poisoned (pa + 8 * j) = true → (s.claimRow pa).tag (pa + 8 * j) = s.tag (pa + 8 * j))) ∧
  (∀ (s : State) (id : Nat) (r : RowOp), s.rowOps.find? (fun r => r.id == id) = some r →
    (s.rowMayWrite r = false → exec (.rowOperationWrite id) s = .next s) ∧
    (s.rowMayWrite r = true →
      (∀ a, r.src = some a → r.data = none →
        let v := ((List.range 1024).foldl (fun (s : State) i => s.checkEcc (a + 8 * i)) s).activate a
        exec (.rowOperationWrite id) s = .next { v with rowOps := v.rowOps.map fun x => if x.id = r.id then { r with
          data := some ((List.range 1024).map fun i => if v.poisoned (a + 8 * i) then none else some (v.word (a + 8 * i))) } else x }) ∧
      (r.src = none ∨ r.data.isSome = true →
        let u : State := { s with rowOps := s.rowOps.filter fun x => x.id != id }
        exec (.rowOperationWrite id) s = .next ((u.writeRow r (r.data.getD (List.replicate 1024 (some 0)))).activate r.dst)))) ∧
  (∀ (s : State) (n : Nat),
    let b := s.bank n
    (∀ row, b.openRow = some row → b.period ≠ 0xFFF → b.last + 4 * b.period.toNat ≤ s.now → s.rowQueued n row = false →
      ∃ u, exec (.bankIdlePrecharge n) s = .next u ∧ (u.bank n).openRow = none ∧ u.mem = s.mem ∧ u.tags = s.tags ∧ u.threads = s.threads) ∧
    (b.openRow = none ∨ b.period = 0xFFF ∨ s.now < b.last + 4 * b.period.toNat ∨ (∃ row, b.openRow = some row ∧ s.rowQueued n row = true) →
      exec (.bankIdlePrecharge n) s = .next s) ∧
    ∃ u, exec (.bankRefresh n) s = .next u ∧ (u.bank n).openRow = none ∧ u.mem = s.mem ∧ u.tags = s.tags ∧ u.threads = s.threads) ∧
  (∀ (d a b : BitVec 6) (e f : BitVec 1) (s : State) (t : Thread) (dst src : Nat), s.drained t.uid = true →
    let g : Form := fmtR d a b e f
    let h : Form := fmtR1 d a b e f
    let posts (c : Ctx) (src : Option Nat) (v : Word) : State :=
      let p := c.popped.dropReadAhead t.uid
      c.done (c.put ((({ p with nextId := p.nextId + 1, rowOps := p.rowOps ++
        [{ id := p.nextId, uid := t.uid, tid := t.tid, tenant := t.tenant, src := src, dst := dst, data := none }] } : State).claimRow dst).postNow
          (.rowOperationWrite p.nextId)) v)
    (Ready s t g → (s.val t g.a).toNat % 8192 = 0 → (s.val t g.b).toNat % 8192 = 0 → s.reach t (s.val t g.a).toNat 8192 false true = .ok dst →
      s.reach t (s.val t g.b).toNat 8192 true false = .ok src → s.goodRow dst = true → s.goodRow src = true →
      (s.cellOf dst).stack = (s.cellOf src).stack → ∃ c v, Issued s t g c ∧ exec (.rcopy d a b e f) s = .next (posts c (some src) v) ∧
        (v = 0 ∨ v = 1)) ∧
    (Ready s t h → (s.val t h.a).toNat % 8192 = 0 → s.reach t (s.val t h.a).toNat 8192 false true = .ok dst → s.goodRow dst = true →
      ∃ c, Issued s t h c ∧ exec (.rzero d a b e f) s = .next (posts c none 0)))

/-- MXCFG keeps a good descriptor, a bad one traps row descriptor mismatch with its word. MXGO records the arrival of its core and parks;
the 16th starts the operation on a ready folio, when all checks pass, else a failed check is taken. MXHND sets the handler and the
reservation, or waits. MXSTAT reads the state. ACLR sends its access, which writes zeros to one row a step, in increasing order. FEEDER_TAKE
takes the words of a slot that are present, with P = 0 after; ACCUMULATOR_UPDATE applies a segment, and adds the exact sum of products
modulo 2^32 in an integer format; DRAIN_DISPATCH starts a handler for the oldest queued row; the end sends a message to each member. (R203,
R206, R208, R218, R222, R223, R224, R225, R334, R335, R420, R421) -/
def Obligations.MatrixRows : Prop :=
  (∀ (d a b : BitVec 6) (e f : BitVec 1) (s : State) (c : Ctx) (s1 : State) (pa : Nat) (ws : List Word) (q p : State),
    Runs s (.mxcfg d a b e f) (fun t _ => arrayForm t { Form.plain with a := opA .src a e, rsvd := nz d || nz b || nz f }) c s1 →
    c.Drained s1 → c.Reaches s1 c.a 64 true false false pa → c.Finds s1 c.a pa 8 ws q p →
    (RowDesc.badWord ws = none → exec (.mxcfg d a b e f) s =
      .next (c.done (p.modCore c.t.core fun k => { k with rowDesc := some (RowDesc.defined ws, c.t.tenant) }))) ∧
    (∀ w, RowDesc.badWord ws = some w → exec (.mxcfg d a b e f) s = .next (c.trap q 0x1D (w64 w)))) ∧
  (∀ r : RowDesc, r.badWord = none ↔ r.ring % 64 = 0 ∧ 1 ≤ r.ringLen ∧ r.ringLen ≤ 16384 ∧ 1 ≤ r.m ∧ r.m ≤ 1024 ∧ 1 ≤ r.kSegs ∧
    r.accBase + r.m ≤ 1024 ∧ r.drain < 2) ∧
  (∀ (d a b : BitVec 6) (e f : BitVec 1) (s : State) (c : Ctx) (s1 : State),
    Runs s (.mxgo d a b e f) (fun t _ => arrayForm t { Form.plain with a := opA .src a e, rsvd := nz d || nz b || nz f }) c s1 →
    c.Drained s1 →
    let w := rowOf c.t.core
    let p := c.popped.dropReadAhead c.uid
    let x : Arrival :=
      { id := p.nextId, core := c.t.core, uid := c.uid, tid := c.t.tid, tenant := c.t.tenant, tag := c.a.toNat % 2 ^ 16, desc := (s1.core c.t.core).rowDesc,
        since := p.now, word := c.raw, shown := c.shown }
    let q : State := ({ p with nextId := p.nextId + 1 } : State).modThread c.uid fun t =>
      { t.setStat .parkedMemory with await := .nothing, latch := none, replay := false, parked := c.raw, parkedShown := c.shown, parkedRsvd := c.rsvd }
    let arrived := q.setRow w { q.row w with arrivals := insertBy (·.core) x (q.row w).arrivals }
    let u := if c.t.waitlim = 0 then arrived else arrived.postLimit (arrived.now + c.t.waitlim.toNat) x.id
    ((∃ y ∈ (s1.row w).arrivals, y.core = c.t.core) → exec (.mxgo d a b e f) s = .next (c.trap s1 0x1C (w64 w))) ∧
    ((∀ y ∈ (s1.row w).arrivals, y.core ≠ c.t.core) →
      ((u.row w).arrivals.length ≠ 16 → exec (.mxgo d a b e f) s = .next u) ∧
      ((u.row w).arrivals.length = 16 →
        (∀ i g, u.checkBarrier w = .start i g → g.state ≠ .stale → exec (.mxgo d a b e f) s = .next (u.startRow w i)) ∧
        (∀ i g v, u.checkBarrier w = .start i g → g.state = .stale → u.refreshFolio (u.walkPager c.t.viewer) i g = .ok v →
          exec (.mxgo d a b e f) s = .next (v.startRow w i)) ∧
        (∀ i g cause v, u.checkBarrier w = .start i g → g.state = .stale → u.refreshFolio (u.walkPager c.t.viewer) i g = .error (.bad cause v) →
          exec (.mxgo d a b e f) s = .next (if replayable cause = true then u.holdBarrier w cause (w64 v) else u.failBarrier w cause (w64 v))) ∧
        (∀ cause v, u.checkBarrier w = .fail cause v false → exec (.mxgo d a b e f) s = .next (u.failBarrier w cause v)) ∧
        (∀ cause v, u.checkBarrier w = .fail cause v true → exec (.mxgo d a b e f) s = .next (u.holdBarrier w cause v))))) ∧
  (∀ (s : State) (w i : Nat) (g : Folio), s.checkBarrier w = .start i g →
    let as := (s.row w).arrivals
    (s.row w).run = none ∧ mismatch as = none ∧ s.folio? i = some g ∧ (g.state = .ready ∨ g.state = .loading ∨ g.state = .stale ∧ FolioDesc.auto g.desc = true) ∧
    w ∈ FolioDesc.rows g.desc) ∧
  (∀ (d a b : BitVec 6) (e f : BitVec 1) (s : State) (c : Ctx) (s1 : State),
    Runs s (.mxhnd d a b e f) (fun t _ => arrayForm t { Form.plain with a := opA .src a e, b := opB .src b f, rsvd := nz d }) c s1 →
    let k := c.t.core
    let n := Nat.min c.b.toNat 64
    let own := (s1.core k).reserve.map (·.tenant) = some c.t.tenant
    (c.a.toNat % 4 ≠ 0 → exec (.mxhnd d a b e f) s = .next (c.trap s1 0x0A c.a)) ∧
    (c.a.toNat % 4 = 0 → s1.rowBusy k ≠ none → exec (.mxhnd d a b e f) s = .next (c.trap s1 0x1C (w64 (rowOf k)))) ∧
    (∀ had, c.a.toNat % 4 = 0 → s1.rowBusy k = none → (own → had = ((s1.core k).reserve.map (·.slots)).getD []) → (¬ own → had = []) →
      let p := c.popped.dropReserve k c.t.tenant
      (n - had.length ≤ (p.freePool k).length → exec (.mxhnd d a b e f) s = .next (c.done ((p.modCore k fun x =>
        { x with reserve := some { pc := c.a, count := n, tenant := c.t.tenant, slots := (had ++ p.freePool k).take n } }).fillPool k))) ∧
      ((p.freePool k).length < n - had.length → exec (.mxhnd d a b e f) s = .next (c.block
        (if (s1.core k).revoking.isSome then s1 else s1.revokeN k (n - had.length - (p.freePool k).length) c.uid) (.poolContexts (n - had.length)))))) ∧
  (∀ (s : State) (core tenant : Nat),
    ((s.core core).reserve.map (·.tenant) = some tenant → s.dropReserve core tenant = s) ∧
    ((s.core core).reserve.map (·.tenant) ≠ some tenant → s.dropReserve core tenant = s.modCore core fun x => { x with reserve := none })) ∧
  (∀ (d a b : BitVec 6) (e f : BitVec 1), Completes (.mxstat d a b e f)
    (fun t _ => arrayForm t { Form.plain with d := opD .dst d, rsvd := nz a || nz b || nz e || nz f }) (fun _ _ => True)
    fun c s1 => c.finishLater c.popped (s1.rowStatus c.t.core)) ∧
  (∀ (s : State) (core : Nat),
    ((s.row (rowOf core)).run = none → s.rowStatus core = w64 (bitNat (!(s.row (rowOf core)).arrivals.isEmpty) * 2 ^ 28)) ∧
    (∀ r m, (s.row (rowOf core)).run = some r → r.members.find? (fun m => m.core == core) = some m → s.rowStatus core =
      w64 (r.k + r.m * 2 ^ 16 + (if r.members.all fun m => r.applied m then 3 else 2) * 2 ^ 28 + (m.queued.length + m.drained.length) * 2 ^ 32))) ∧
  (∀ (d a b : BitVec 6) (e f : BitVec 1) (s : State) (c : Ctx) (s1 : State),
    Runs s (.aclr d a b e f) (fun t _ => arrayForm t { Form.plain with a := opA .src a e, b := opB .src b f, rsvd := nz d }) c s1 →
    c.Drained s1 →
    let p := c.popped.dropReadAhead c.uid
    let n := c.b.toNat
    let busy := ∃ x m, (s1.row (rowOf c.t.core)).run = some x ∧ x.member? c.t.core = some m ∧ c.a.toNat < RowDesc.accBase m.desc + RowDesc.m m.desc ∧ RowDesc.accBase m.desc < c.a.toNat + n
    (n = 0 → exec (.aclr d a b e f) s = .next (c.done p)) ∧
    (n ≠ 0 → 1024 < c.a.toNat + n → exec (.aclr d a b e f) s = .next (c.trap s1 0x09 c.a)) ∧
    (n ≠ 0 → c.a.toNat + n ≤ 1024 → busy → exec (.aclr d a b e f) s = .next (c.trap s1 0x1C (w64 (rowOf c.t.core)))) ∧
    (n ≠ 0 → c.a.toNat + n ≤ 1024 → ¬ busy → exec (.aclr d a b e f) s =
      .next (c.send p { Access.blank .clear c.a (accPa c.t.core (256 * c.a.toNat)) with val := c.b }))) ∧
  (∀ (s : State) (core r n j : Nat), (s.clearAcc core r n).byte j =
      (if accPa core (256 * r) ≤ j ∧ j < accPa core (256 * (r + n)) then 0 else s.byte j) ∧
    { s.clearAcc core r n with mem := s.mem } = s) ∧
  (∀ (s : State) (a : Access) (core off : Nat), a.kind = .clear → regionOf a.pa = .acc core off →
    let u := s.clearAcc core (off / 256) 1
    (1 < a.val.toNat → s.arrive a = (u.setAccess { a with pa := a.pa + 256, val := a.val - 1 }).postNow (.accessPerformed a.id)) ∧
    (a.val.toNat ≤ 1 → a.va < 1024 → (s.core core).Unwatched → s.arrive a = u.performedWith a [])) ∧
  (∀ (s : State) (w : Nat),
    (s.mayFeed w = false → exec (.feederTake w) s = .next s) ∧
    (s.mayFeed w = true → ∀ r d fd, (s.row w).run = some r → s.rowParts r = some (d, fd) →
      let ws := (s.feederWords w r).1
      let u := ws.foldl (fun s a => s.checkEcc a) s
      let v := ws.foldl (fun s a => if s.poisoned a then s else (s.setP a false).written a (.unit r.tenant)) u
      let next := r.taken d fd.fmt.slots ((ws.take 8).map u.word) (match ws[8]? with | some a => u.word a | none => 0) (ws.any fun a => u.poisoned a)
      let x := if next.half.isNone then v.count (rowCore w 0) 0x0B none else v
      exec (.feederTake w) s = .next ((x.setRow w { x.row w with run := some next }).serve ws) ∧
        (r.half = none → ∀ a ∈ ws, (s.tag a).p = true ∨ s.poisoned a = true))) ∧
  (∀ (s : State) (w j : Nat),
    (s.nextSegment w j = none → exec (.accumulatorUpdate w j) s = .next s) ∧
    (∀ r m f g, s.nextSegment w j = some (r, m, f, g) →
      s.mayUpdate w j = true ∧ (s.row w).run = some r ∧ r.member? (rowCore w j) = some m ∧ s.folio? r.folio = some f ∧ m.todo.head? = some g ∧
      (let v := s.checkFolio r.folio m.core (f.wordUsed g (f.firstColumn w m.core))
       (v.nextSegment w j = none → exec (.accumulatorUpdate w j) s = .next v) ∧
       (∀ r m f g u fl, v.nextSegment w j = some (r, m, f, g) → v.applySegment f w m g = (u, fl) →
         let next : RowRun := { r with members := r.members.map fun x => if x.core = m.core then m.after g fl else x }
         exec (.accumulatorUpdate w j) s = .next (u.setRow w { u.row w with run := some next }))))) ∧
  (∀ (s : State) (n core : Nat) (used : Nat → Bool) (f : Folio), s.folio? n = some f → (∀ x ∈ f.ecc, used x.1 = false) →
    s.checkFolio n core used = s.setFolio n f) ∧
  (∀ (f : Folio) (g : Segment) (n c : Nat) (fresh : Bool), FolioDesc.code f.desc = 12 ∨ FolioDesc.code f.desc = 13 → g.poisoned = false →
    let val (x : Nat) : Int := if FolioDesc.code f.desc = 12 then (BitVec.ofNat 8 x).toInt else x
    ((f.update g n c fresh).1 : Int) = ((List.range 64).foldl (fun (acc : Int) i =>
      acc + val (g.element 8 i) * val (f.element (g.k * 64 + i) n).1) 0 + (if fresh then 0 else (c : Int))) % 2 ^ 32) ∧
  (∀ (s : State) (core : Nat),
    (s.mayDrain core = false → exec (.drainDispatch core) s = .next s) ∧
    (∀ r m q rest slot x, s.mayDrain core = true → (s.row (rowOf core)).run = some r → r.member? core = some m → m.queued = q :: rest →
      s.freeReserved core = some (slot, x) →
      let row := RowDesc.accBase m.desc + q
      let held : RowMember := { m with queued := rest, drained := m.drained ++ [q] }
      let next : RowRun := { r with members := r.members.map fun y => if y.core = core then held else y }
      exec (.drainDispatch core) s = .next ((s.setRow (rowOf core) { s.row (rowOf core) with run := some next }).placeThread core slot
        r.tenant .user .noon x.pc [w64 q, w64 (256 * row), w64 m.tag, 0] fun t => { t with drain := some { m := q, accRow := row } }))) ∧
  (∀ (s : State) (w : Nat),
    (s.mayComplete w = false → exec (.rowOperationComplete w) s = .next s) ∧
    (∀ r, s.mayComplete w = true → (s.row w).run = some r →
      let message (m : RowMember) : Msg :=
        { id := 0, slot := m.tid % 512, bound := some m.uid, kind := 4, status := if r.status ≠ 0 then r.status else bitNat r.poisoned,
          sender := m.tid, w0 := w64 (m.tag + bitNat m.nv * 2 ^ 16 + bitNat m.ovf * 2 ^ 17),
          w1 := w64 m.wrote, popped := false, device := true }
      exec (.rowOperationComplete w) s = .next (r.members.foldl (fun s m => s.enterMessage m.core (message m)) ((s.setRow w { s.row w with run := none, halted := false }).releaseFolio r.folio)))) ∧
  (∀ (d a b : BitVec 6) (e f : BitVec 1) (s : State) (t : Thread),
    let k := t.core
    let one : Form := arrayForm t { Form.plain with a := opA .src a e, rsvd := nz d || nz b || nz f }
    let two : Form := arrayForm t { Form.plain with a := opA .src a e, b := opB .src b f, rsvd := nz d }
    let get : Form := arrayForm t { Form.plain with d := opD .dst d, rsvd := nz a || nz b || nz e || nz f }
    let n := (s.val t two.b).toNat
    (∀ pa ws, Ready s t one → s.Settled t → s.Descriptor t (s.val t one.a) 8 false pa ws → RowDesc.badWord ws = none →
      ∃ s', exec (.mxcfg d a b e f) s = .next s' ∧
        Makes s s' t t.past fun s => s.modCore k fun x => { x with rowDesc := some (RowDesc.defined ws, t.tenant) }) ∧
    (Ready s t one → s.drained t.uid = true → (∀ y ∈ (s.row (rowOf k)).arrivals, y.core ≠ k) → (s.row (rowOf k)).arrivals.length ≠ 15 →
      ∃ s' t' y, exec (.mxgo d a b e f) s = .next s' ∧ y ∈ (s'.row (rowOf k)).arrivals ∧ y.core = k ∧ y.uid = t.uid ∧ y.tenant = t.tenant ∧
        y.tag = (s.val t one.a).toNat % 2 ^ 16 ∧ y.desc = (s.core k).rowDesc ∧ s'.thread? t.uid = some t' ∧ t'.status = .parkedMemory ∧
        t'.regs = t.regs ∧ t'.pc = t.pc ∧ s'.mem = s.mem ∧ s'.tags = s.tags) ∧
    (Ready s t two → (s.val t two.a).toNat % 4 = 0 → s.rowBusy k = none → (s.core k).reserve = none → Nat.min n 64 ≤ (s.freePool k).length →
      ∃ c, Issued s t two c ∧ exec (.mxhnd d a b e f) s = .next (c.done (((c.popped.dropReserve k t.tenant).modCore k fun x =>
        { x with reserve := some { pc := s.val t two.a, count := Nat.min n 64, tenant := t.tenant, slots := (s.freePool k).take (Nat.min n 64) } }).fillPool k))) ∧
    (Ready s t get → ∃ c, Issued s t get c ∧ exec (.mxstat d a b e f) s = .next (c.finishLater c.popped (s.rowStatus k))) ∧
    (Ready s t two → s.Settled t → n ≠ 0 → (s.val t two.a).toNat + n ≤ 1024 → (s.row (rowOf k)).run = none →
      ∃ c, Issued s t two c ∧ exec (.aclr d a b e f) s = .next (c.send (c.popped.dropReadAhead t.uid)
        { Access.blank .clear c.a (accPa k (256 * c.a.toNat)) with val := c.b })))

/-- A descriptor is bad just when a field breaks a rule. FPIN of a good one whose cores are its tenant's, with source, pages, index and
watch entries at hand, gives the new shelfmark and starts the load; each failed check traps with its value. FUNP, FREF and FREV act on a
live shelfmark, one that is not live traps bad shelfmark; FQRY gives its state word, 4 when it is not live. A load that ends takes the
source bytes as they stand: the folio is ready, or stale when its source changed, or loads again for AUTO; poison makes it absent. A store
error reloads a ready folio and makes a stale one absent. (R211, R212, R214, R215, R217, R220, R378, R379, R380, R381, R384) -/
def Obligations.FoliosAndShelfmarks : Prop :=
  (∀ d : FolioDesc, d.bad = false ↔ d.code ∈ [2, 3, 4, 5, 6, 7, 8, 12, 13] ∧ d.src % 64 = 0 ∧ d.k ≠ 0 ∧ d.k % d.fmt.depth = 0 ∧ d.n ≠ 0 ∧
    d.n % 64 = 0 ∧ d.rows ≠ [] ∧
    (if d.replicate then d.n ≤ 1024 else 1024 * (d.rows.length - 1) < d.n ∧ d.n ≤ 1024 * d.rows.length)) ∧
  (∀ (d a b : BitVec 6) (e f : BitVec 1) (s : State) (c : Ctx) (s1 : State) (pa : Nat) (ws : List Word) (s2 p : State),
    Runs s (.fpin d a b e f) (fun t _ => arrayForm t { Form.plain with a := opA .src a e, d := opD .dst d, rsvd := nz b || nz f }) c s1 →
    c.Drained s1 → c.Reaches s1 c.a 64 true false false pa → c.Finds s1 c.a pa 8 ws s2 p →
    let desc : FolioDesc := ws
    let own := ∀ w ∈ desc.rows, ∀ j < 16, (p.tenant c.t.tenant).hasCore (rowCore w j) = true
    (desc.bad = true → exec (.fpin d a b e f) s = .next (c.trap s2 0x18 c.a)) ∧
    (desc.bad = false → ¬ own → exec (.fpin d a b e f) s = .next (c.trap s2 0x09 c.a)) ∧
    (desc.bad = false → own →
      (∀ cause v, sourceRuns (s2.pager c.t) desc = .error (.bad cause v) → exec (.fpin d a b e f) s = .next (c.raise s2 cause (w64 v))) ∧
      (∀ v n, sourceRuns (s2.pager c.t) desc = .error (.miss v n) → exec (.fpin d a b e f) s = .next (c.miss s2 (w64 v) (needCode true false n))) ∧
      (∀ runs, sourceRuns (s2.pager c.t) desc = .ok runs →
        (∀ v, p.acquirePages c.t.tenant 4096 desc = .error (.bad 0x1B v) → exec (.fpin d a b e f) s = .next (c.trap s2 0x1B (w64 v))) ∧
        (∀ q, p.acquirePages c.t.tenant 4096 desc = .ok q →
          (p.freeFolio = none → exec (.fpin d a b e f) s = .next (c.trap s2 0x1B (w64 (2 ^ 63)))) ∧
          (∀ i, p.freeFolio = some i →
            (p.tablesHold (p.entriesFor runs) = false → exec (.fpin d a b e f) s = .next (c.trap s2 0x1B (w64 (2 ^ 63 + 1)))) ∧
            (p.tablesHold (p.entriesFor runs) = true →
              let check := lookupD p.folioChecks i 0 + 1
              let g : Folio :=
                { check := check, tenant := c.t.tenant, desc := desc.defined, state := .loading, pinned := true, chg := false, reason := 0, held := [],
                  runs := runs, data := [], ecc := [], defer := .nothing, used := 0 }
              let u := (({ q with folioChecks := insert q.folioChecks i check } : State).setFolio i g).watchSource i c.t.tenant runs
              exec (.fpin d a b e f) s = .next (c.finishLater (u.startLoad i) (w64 (i * 2 ^ 20 + check.toNat * 2 ^ 8))))))))) ∧
  (∀ (s : State) (tenant : Nat) (d : FolioDesc), (tenant = 0 ∨ s.folioUsed tenant + d.pages * d.cores.length ≤ (s.tenant tenant).folioQuota) →
    (∀ k ∈ d.cores, d.pages ≤ s.folioFree k) → s.acquirePages tenant 4096 d = .ok s) ∧
  (∀ (s : State) (i : Nat) (g : Folio), s.folio? i = some g → 
    let held := (FolioDesc.cores g.desc).map fun k => (k, FolioDesc.pages g.desc)
    (s.startLoad i).folio? i =
      some { g with state := .loading, chg := false, pinned := true, reason := 0, defer := .nothing, used := s.nextId, held := held }) ∧
  (∀ (s : State) (tenant i : Nat) (v : Word) (g : Folio), s.liveFolio? tenant v = some (i, g) ↔
    s.folio? i = some g ∧ i < 4096 ∧ v = w64 (i * 2 ^ 20 + g.check.toNat * 2 ^ 8) ∧ g.tenant = tenant ∧ g.state ≠ .revoked) ∧
  (∀ (d a b : BitVec 6) (e f : BitVec 1) (i : Instr), i = .funp d a b e f ∨ i = .fref d a b e f ∨ i = .frev d a b e f →
    ∀ (s : State) (c : Ctx) (s1 : State), Runs s i (fun t _ => arrayForm t { Form.plain with a := opA .src a e, rsvd := nz d || nz b || nz f }) c s1 →
    c.Drained s1 →
    let p := c.popped.dropReadAhead c.uid
    (s1.liveFolio? c.t.tenant c.a = none → exec i s = .next (c.trap s1 0x18 c.a)) ∧
    (∀ n g, s1.liveFolio? c.t.tenant c.a = some (n, g) →
      (i = .funp d a b e f → exec i s = .next (c.done (p.setFolio n { g with pinned := false }))) ∧
      (i = .frev d a b e f → exec i s = .next (c.done (p.revokeFolio n))) ∧
      (i = .fref d a b e f → (∀ q, p.refreshFolio (s1.pager c.t) n g = .ok q → exec i s = .next (c.done q)) ∧
        (∀ cause v, p.refreshFolio (s1.pager c.t) n g = .error (.bad cause v) → exec i s = .next (c.raise s1 cause (w64 v)))))) ∧
  (∀ (s : State) (v : Pager) (n : Nat) (g : Folio) (runs : List (Nat × Nat × Nat)), s.folio? n = some g → sourceRuns v g.desc = .ok runs →
    (g.held ≠ [] → s.moveWatch n g runs = none → s.refreshFolio v n g = .error (.bad 0x1B (2 ^ 63 + 1))) ∧
    (∀ q, g.state = .loading → g.held ≠ [] → s.moveWatch n g runs = some q →
      s.refreshFolio v n g = .ok (q.modFolio n fun f => { f with pinned := true })) ∧ (runs = g.runs → s.moveWatch n g runs = some s) ∧
    (runs ≠ g.runs → let q := s.dropFolioWatch n
      s.moveWatch n g runs = if q.tablesHold (q.entriesFor runs) then
        some ((q.modFolio n fun f => { f with runs := runs }).watchSource n g.tenant runs) else none) ∧
    (g.state ≠ .loading → g.held ≠ [] → runs = g.runs → s.contentsInUse n = false → s.refreshFolio v n g = .ok (s.startLoad n)) ∧
    (g.state ≠ .loading → g.held ≠ [] → runs = g.runs → s.contentsInUse n = true →
      s.refreshFolio v n g = .ok (s.setFolio n { g with defer := .reload }))) ∧
  (∀ (s : State) (n : Nat), s.folioInUse n = false → (s.revokeFolio n).folio? n = none ∧ ∀ e ∈ (s.revokeFolio n).watch, e.installer ≠ .folio n) ∧
  (∀ (d a b : BitVec 6) (e f : BitVec 1), Completes (.fqry d a b e f)
    (fun t _ => arrayForm t { Form.plain with a := opA .src a e, d := opD .dst d, rsvd := nz b || nz f }) (fun _ _ => True)
    fun c s1 => c.finishLater c.popped (s1.queryFolio c.t.tenant c.a)) ∧
  (∀ (s : State) (tenant : Nat) (v : Word),
    (s.liveFolio? tenant v = none → s.queryFolio tenant v = 4) ∧
    (∀ i g, s.liveFolio? tenant v = some (i, g) →
      let q := s.queryFolio tenant v
      fieldOf q 0 3 = (match g.state with | .loading => 0 | .ready => 1 | .stale => 2 | .absent => 3 | .revoked => 4) ∧
      q.toNat.testBit 3 = g.pinned ∧ q.toNat.testBit 4 = FolioDesc.auto g.desc ∧ q.toNat.testBit 5 = g.chg ∧ fieldOf q 6 2 = g.reason % 4 ∧
      q.toNat.testBit 8 = decide (g.defer ≠ .nothing) ∧ fieldOf q 16 16 = g.pageCount % 65536 ∧ fieldOf q 9 7 = 0 ∧ fieldOf q 32 32 = 0)) ∧
  (∀ (s : State) (n : Nat) (g : Folio), s.folio? n = some g →
    (g.state ≠ .loading → exec (.folioLoadEnd n) s = .next s) ∧
    (g.state = .loading →
      let u := s.readSource g
      (u.poisonedSource g = true →
        exec (.folioLoadEnd n) s = .next (((u.modFolio n fun f => f.drop 1).loaded n .absent).releaseFolio n)) ∧
      (u.poisonedSource g = false → g.chg = true → FolioDesc.auto g.desc = true →
        exec (.folioLoadEnd n) s = .next ((u.modFolio n fun f => { f with chg := false }).postNow (.folioLoadEnd n))) ∧
      (u.poisonedSource g = false → (g.chg = true ∧ FolioDesc.auto g.desc = false ∨ g.chg = false) →
        let st : FolioState := if g.chg then .stale else .ready
        exec (.folioLoadEnd n) s = .next (((u.modFolio n fun f => { f with state := st, data := u.sourceBytes f, ecc := [] }).loaded n st).releaseFolio n)))) ∧
  (∀ (s : State) (g : Folio) (pa n i : Nat), g.runs = [(0, pa, n)] → i < n → Memory.read (s.sourceBytes g) i = s.byte (pa + i)) ∧
  (∀ (s : State) (n : Nat) (g : Folio), s.folio? n = some g →
    let u := s.modFront fun x => { x with folioErrors := x.folioErrors + 1 }
    (g.state = .ready →
      let v := (u.modFolio n fun f => { f with state := .loading, chg := false, ecc := [] }).modUsers n fun w _ => { w with halted := true }
      exec (.folioStoreError n) s = .next (if v.posted (.folioLoadEnd n) then v else v.postNow (.folioLoadEnd n))) ∧
    (g.state = .stale → exec (.folioStoreError n) s = .next (((u.modFolio n fun f => f.drop 2).loaded n .absent).releaseFolio n)) ∧
    (g.state ≠ .ready → g.state ≠ .stale → exec (.folioStoreError n) s = .next u)) ∧
  (∀ (d a b : BitVec 6) (e f : BitVec 1) (s : State) (t : Thread),
    let pin : Form := arrayForm t { Form.plain with a := opA .src a e, d := opD .dst d, rsvd := nz b || nz f }
    let one : Form := arrayForm t { Form.plain with a := opA .src a e, rsvd := nz d || nz b || nz f }
    (∀ pa ws runs q i, Ready s t pin → s.drained t.uid = true → s.Descriptor t (s.val t pin.a) 8 false pa ws → FolioDesc.bad ws = false →
      (∀ w ∈ FolioDesc.rows ws, ∀ j < 16, (s.tenant t.tenant).hasCore (rowCore w j) = true) → sourceRuns (s.pager t) ws = .ok runs →
      s.acquirePages t.tenant 4096 ws = .ok q → s.freeFolio = some i → s.tablesHold (s.entriesFor runs) = true →
      ∃ s' g, exec (.fpin d a b e f) s = .next s' ∧ s'.folio? i = some g ∧ g.tenant = t.tenant ∧ g.state = .loading ∧ g.pinned = true ∧
        g.runs = runs) ∧
    (∀ n g, Ready s t one → s.drained t.uid = true → s.liveFolio? t.tenant (s.val t one.a) = some (n, g) →
      (∃ c, Issued s t one c ∧ exec (.funp d a b e f) s = .next (c.done ((c.popped.dropReadAhead t.uid).setFolio n { g with pinned := false }))) ∧
      (∃ c, Issued s t one c ∧ exec (.frev d a b e f) s = .next (c.done ((c.popped.dropReadAhead t.uid).revokeFolio n))) ∧
      (∀ runs, sourceRuns (s.pager t) g.desc = .ok runs →
        (g.state = .loading → g.held ≠ [] → runs = g.runs → ∃ c, Issued s t one c ∧
          exec (.fref d a b e f) s = .next (c.done ((c.popped.dropReadAhead t.uid).setFolio n { g with pinned := true }))) ∧
        (g.state ≠ .loading → g.held ≠ [] → runs = g.runs → s.contentsInUse n = false → ∃ c, Issued s t one c ∧
          exec (.fref d a b e f) s = .next (c.done ((c.popped.dropReadAhead t.uid).startLoad n))) ∧
        (g.state ≠ .loading → g.held ≠ [] → runs = g.runs → s.contentsInUse n = true → ∃ c, Issued s t one c ∧
          exec (.fref d a b e f) s = .next (c.done ((c.popped.dropReadAhead t.uid).setFolio n { g with defer := .reload }))))) ∧
    (Ready s t pin → ∃ c, Issued s t pin c ∧ exec (.fqry d a b e f) s = .next (c.finishLater c.popped (s.queryFolio t.tenant (s.val t pin.a)))))

/-- RPART queries or switches the partition of its core and gives the status (gd codes 48 to 57 pass its range check: log entry 84). XLINV
drops the cached translations of its tenant in the range, and waits for the accesses made through them. LEND waits for a revocation, then
lends a legal range, else traps protection fault. RECALL chooses dusk contexts, with 0 all and every range lent, and waits for the
REVOCATION, which moves them to the bank and returns the ranges; a returned range reads zero with P = 1. RESTORE_CONTEXT begins to bring the
oldest revoked context back, and then returns it to the state it left. SLOT_REASSIGN shares the slots by weight, as in the example of R136.
CLASS_WRITE changes the class within the limits. (R61, R62, R63, R136, R138, R141, R142, R143, R145, R146, R412, R470) -/
def Obligations.PartitionsAndHarvest : Prop :=
  (∀ (d a b : BitVec 6) (e f : BitVec 1) (s : State) (c : Ctx) (s1 : State),
    Runs s (.rpart d a b e f) (fun _ _ => { fmtR1 d a b e f with level := .curator }) c s1 →
    let k := c.t.core
    let deep := (s1.core k).deep
    let want := decide (c.a = 1)
    let late := c.a = 0 ∧ deep = true ∧ 24 ≤ c.dcode ∧ c.dcode < 48
    let answer (p : State) (outcome : Nat) (m : Bool) : State := c.finishLater p (w64 (bitNat m + outcome * 2))
    (2 < c.a.toNat → exec (.rpart d a b e f) s = .next (answer c.popped 2 deep)) ∧
    (c.a = 2 → exec (.rpart d a b e f) s = .next (answer c.popped 0 deep)) ∧
    (late → exec (.rpart d a b e f) s = .next (c.trap s1 0x04 (w64 c.dcode))) ∧
    (c.a.toNat < 2 → ¬ late → s1.coreDue k = true → exec (.rpart d a b e f) s = .next (c.block s1 .coreResults)) ∧
    (c.a.toNat < 2 → ¬ late → s1.coreDue k = false → deep = want → exec (.rpart d a b e f) s = .next (answer c.popped 0 deep)) ∧
    (c.a.toNat < 2 → ¬ late → s1.coreDue k = false → deep ≠ want → s1.quiescent k = false →
      exec (.rpart d a b e f) s = .next (answer c.popped 1 deep)) ∧
    (c.a.toNat < 2 → ¬ late → s1.coreDue k = false → deep ≠ want → s1.quiescent k = true →
      exec (.rpart d a b e f) s = .next (answer (c.popped.switchPartition k want) 0 want))) ∧
  (∀ (s : State) (k : Nat) (deep : Bool), ((s.switchPartition k deep).core k).deep = deep ∧ (s.switchPartition k deep).mem = s.mem ∧
    (∀ j, j ≠ k → (s.switchPartition k deep).core j = s.core j) ∧
    (∀ t ∈ s.threads, t.core ≠ k → t ∈ (s.switchPartition k deep).threads) ∧
    ∀ t ∈ s.threads, t.core = k → (s.core k).slots ≤ t.tid % 512 + 4 → ∃ u ∈ (s.switchPartition k deep).threads, u.uid = t.uid ∧
      u.tid + (s.core k).slots = t.tid + (if deep = true then 256 else 512)) ∧
  (∀ (d a b : BitVec 6) (e f : BitVec 1) (s : State) (c : Ctx) (s1 : State),
    Runs s (.xlinv d a b e f) (fun _ _ => { Form.plain with a := opA .src a e, b := opB .src b f, rsvd := nz d, level := .runtime }) c s1 →
    c.Drained s1 →
    let p := c.popped.dropReadAhead c.uid
    let of := if c.t.level = .curator then c.t.tscr0.toNat % 256 else c.t.tenant
    let lo := if c.b = 0 then 0 else c.a.toNat
    let hi := if c.b = 0 then 2 ^ 52 else Nat.min (c.a.toNat + c.b.toNat) (2 ^ 52)
    let odd := c.b ≠ 0 ∧ (c.a.toNat % 65536 ≠ 0 ∨ c.b.toNat % 65536 ≠ 0)
    (c.t.phase = 0 → odd → exec (.xlinv d a b e f) s = .next (c.trap s1 0x0A c.a)) ∧
    (c.t.phase = 0 → ¬ odd → s1.usersOf of lo hi = [] → exec (.xlinv d a b e f) s = .next (c.done (p.invalidate of lo hi))) ∧
    (c.t.phase = 0 → ¬ odd → s1.usersOf of lo hi ≠ [] → exec (.xlinv d a b e f) s =
      .next (c.block ((s1.invalidate of lo hi).modThread c.uid fun t => { t with phase := 1, waits := s1.usersOf of lo hi }) .invalidated)) ∧
    (c.t.phase ≠ 0 → (∀ n ∈ c.t.waits, p.unperformed n = false) →
      exec (.xlinv d a b e f) s = .next (c.done (p.modThread c.uid fun t => { t with waits := [] })))) ∧
  (∀ (s : State) (tenant lo hi k : Nat) (x : TlbEntry), x ∈ ((s.invalidate tenant lo hi).core k).tlb ↔
    x ∈ (s.core k).tlb ∧ ¬ (x.tenant = tenant ∧ x.va * 2 ^ x.size < hi ∧ lo < (x.va + 1) * 2 ^ x.size)) ∧
  (∀ (d a b : BitVec 6) (e f : BitVec 1) (s : State) (c : Ctx) (s1 : State),
    Runs s (.lend d a b e f) (fun _ _ => { Form.plain with a := opA .src a e, b := opB .src b f, rsvd := nz d, level := .runtime }) c s1 →
    c.Drained s1 →
    let p := c.popped.dropReadAhead c.uid
    let x := c.a.toNat
    let n := c.b.toNat
    let mine := (s1.core c.t.core).lent.filter fun l => l.tenant == c.t.tenant
    let legal := x % 4096 = 0 ∧ n % 4096 = 0 ∧ s1.allots c.t.tenant c.t.core x n = true ∧ mine.length < 8 ∧
      ∀ l ∈ mine, x + n ≤ l.off ∨ l.off + l.len ≤ x
    (c.b = 0 → exec (.lend d a b e f) s = .next (c.done p)) ∧
    (c.b ≠ 0 → (s1.core c.t.core).revoking = none → ¬ legal → exec (.lend d a b e f) s = .next (c.trap s1 0x09 c.a)) ∧
    (c.b ≠ 0 → legal → (s1.core c.t.core).revoking = none → exec (.lend d a b e f) s = .next (c.done (p.modCore c.t.core fun k =>
      { k with lent := k.lent ++ [{ tenant := c.t.tenant, off := x, len := n }] }))) ∧
    (c.b ≠ 0 → (s1.core c.t.core).revoking ≠ none → exec (.lend d a b e f) s = .next (c.block s1 .revocation))) ∧
  (∀ (d a b : BitVec 6) (e f : BitVec 1) (s : State) (c : Ctx) (s1 : State),
    Runs s (.recall d a b e f) (fun _ _ => { Form.plain with a := opA .src a e, rsvd := nz d || nz b || nz f, level := .runtime }) c s1 →
    let p := c.popped
    let all := c.a = 0 ∨ 128 < c.a.toNat
    let who := p.choosable c.t.core c.uid
    let mine := (p.core c.t.core).lent.filter fun l => l.tenant == c.t.tenant
    let ended (q : State) : State := if (q.core c.t.core).revoking = none then c.done q else c.await q .recall
    (all → exec (.recall d a b e f) s = .next (ended (p.revoke c.t.core who mine))) ∧
    (¬ all → exec (.recall d a b e f) s = .next (ended (p.revoke c.t.core (who.take c.a.toNat) [])))) ∧
  (∀ (s : State) (k : Nat), (s.revoke k [] []) = s ∧ ∀ us ls, us ≠ [] ∨ ls ≠ [] → ((s.revoke k us ls).core k).revoking ≠ none ∧
    ∀ t ∈ s.threads, (∃ u ∈ us, u.uid = t.uid) → ∃ v ∈ (s.revoke k us ls).threads, v.uid = t.uid ∧
      v.status = (if t.status = .restoring then .revoked else .saving)) ∧
  (∀ (s : State) (k : Nat), (s.core k).revoking = none → exec (.revocation k) s = .next s) ∧
  (∀ (s : State) (k : Nat) (r : Revoking), (s.core k).revoking = some r →
    let leave (s : State) (uid : Nat) : State := match s.thread? uid with
      | some t => if t.status = .saving then ({ ((s.setThread (t.toBank s.now s.nextId)).dropReadAhead uid) with nextId := s.nextId + 1 } : State).count k 4 (some t) else s
      | none => s
    let u := r.ranges.foldl (fun s l => s.returnRange k l) (r.chosen.foldl leave s)
    let v := u.modCore k fun x => { x with revoking := none }
    exec (.revocation k) s = .next ((((v.threads.filter fun t => t.core == k && t.await == Await.recall).map (·.uid)).foldl
      (fun s n => s.completeWait n) v).fillPool k)) ∧
  (∀ (t : Thread) (now n : Nat), (t.toBank now n).status = .revoked ∧ (t.toBank now n).banked = true ∧ (t.toBank now n).regs = t.regs ∧
    (t.toBank now n).latch = t.latch ∧ (t.toBank now n).pc = t.pc ∧ (t.toBank now n).rep = t.rep ∧ (t.toBank now n).tid = t.tid) ∧
  (∀ (s : State) (k : Nat) (l : Lease) (j : Nat), (∀ a ∈ s.accesses, a.order? = none) → l.off % 8 = 0 → l.len % 8 = 0 →
    let u := s.returnRange k l
    (spadPa k l.off ≤ j ∧ j < spadPa k (l.off + l.len) → u.byte j = 0 ∧ (u.tag j).p = true ∧ (u.tag j).w = false) ∧
    (j < spadPa k l.off ∨ spadPa k (l.off + l.len) ≤ j → u.byte j = s.byte j ∧ u.tag j = s.tag j) ∧
    l ∉ (u.core k).lent) ∧
  (∀ (s : State) (k : Nat),
    (∀ t, s.restoring? k = some t → exec (.restoreContext k) s = .next (s.endRestore t)) ∧
    (s.restoring? k = none → s.mayRestore k = false → exec (.restoreContext k) s = .next s) ∧
    (∀ t, s.restoring? k = none → s.mayRestore k = true → s.restorable k = some t → exec (.restoreContext k) s =
      .next (s.setThread { t with status := .restoring, banked := false }))) ∧
  (∀ (s : State) (t : Thread), (t.ecc = .ok → s.endRestore t = s.returnThread t) ∧
    (t.ecc = .single → s.endRestore t = (s.countCorrected t.core).returnThread { t with ecc := .ok }) ∧
    (t.ecc = .double → s.endRestore t = s.loseThread t)) ∧
  (∀ (s : State) (t : Thread), t.latch = none → t.await = .nothing → t.stopPending = false →
    s.returnThread t = s.setThread { t with status := t.recorded, blockedAt := t.blockedAt.map fun n => s.now - n, sendRecord := false }) ∧
  (∀ (s : State) (k : Nat), exec (.slotReassign k) s = .next (s.reassign k) ∧
    (s.dayTenants k = [] → ((s.reassign k).core k).owner = List.replicate 64 none) ∧
    (s.dayTenants k = [3, 7] → (s.tenant 3).weight = 3 → (s.tenant 7).weight = 1 → lookupD (s.core k).deficit 3 0 = 0 →
      lookupD (s.core k).deficit 7 0 = 0 →
      ((s.reassign k).core k).owner = (List.replicate 16 [some 3, some 7]).flatten ++ List.replicate 32 (some 3))) ∧
  (∀ (s : State) (k : Nat), exec (.zeroOnTouchScrub k) s = .next (s.modCore k fun x => { x with zot := [] })) ∧
  (∀ (s : State) (uid : Nat) (v : Word) (t : Thread) (k : Cls), s.thread? uid = some t → t.await = .sysWrite →
    k = (if s.isStandby t = true ∨ v.toNat % 4 = 3 ∨ v.toNat % 4 = t.cls.num then t.cls
      else if v.toNat % 4 = 0 then (if s.noonCount t.core t.tenant < (s.tenant t.tenant).noonLimit then .noon else t.cls)
      else if v.toNat % 4 = 1 then .day else if s.duskRoom t.core = true then .dusk else t.cls) →
    exec (.classWrite uid v) s = .next ((s.modThread uid fun x => { x with cls := k }).completeWait uid)) ∧
  (∀ (d a b : BitVec 6) (e f : BitVec 1) (s : State) (t : Thread),
    let k := t.core
    let part : Form := { fmtR1 d a b e f with level := .curator }
    let two : Form := { Form.plain with a := opA .src a e, b := opB .src b f, rsvd := nz d, level := .runtime }
    let one : Form := { Form.plain with a := opA .src a e, rsvd := nz d || nz b || nz f, level := .runtime }
    let x := (s.val t two.a).toNat
    let n := (s.val t two.b).toNat
    let of := if t.level = .curator then t.tscr0.toNat % 256 else t.tenant
    let lo := if n = 0 then 0 else x
    let hi := if n = 0 then 2 ^ 52 else Nat.min (x + n) (2 ^ 52)
    (Ready s t part → (s.val t part.a).toNat = 2 ∨ 2 < (s.val t part.a).toNat → ∃ c, Issued s t part c ∧ exec (.rpart d a b e f) s =
      .next (c.finishLater c.popped (w64 (bitNat (s.core k).deep + (if (s.val t part.a).toNat = 2 then 0 else 2) * 2)))) ∧
    (∀ want : Bool, Ready s t part → s.val t part.a = (if want then 1 else 0) → (s.core k).deep ≠ want → (want = true ∨ part.d.num t.stagger < 24 ∨ 48 ≤ part.d.num t.stagger) →
      s.coreDue k = false → s.quiescent k = true → ∃ c, Issued s t part c ∧ exec (.rpart d a b e f) s =
        .next (c.finishLater (c.popped.switchPartition k want) (w64 (bitNat want)))) ∧
    (Ready s t two → s.Settled t → t.phase = 0 → (n = 0 ∨ x % 65536 = 0 ∧ n % 65536 = 0) → s.usersOf of lo hi = [] →
      ∃ s', exec (.xlinv d a b e f) s = .next s' ∧ Makes s s' t t.past fun s => s.invalidate of lo hi) ∧
    (Ready s t two → s.Settled t → n ≠ 0 → x % 4096 = 0 → n % 4096 = 0 → s.allots t.tenant k x n = true →
      ((s.core k).lent.filter fun l => l.tenant == t.tenant).length < 8 →
      (∀ l ∈ (s.core k).lent, l.tenant = t.tenant → x + n ≤ l.off ∨ l.off + l.len ≤ x) → (s.core k).revoking = none →
      ∃ s', exec (.lend d a b e f) s = .next s' ∧
        Makes s s' t t.past fun s => s.modCore k fun y => { y with lent := y.lent ++ [{ tenant := t.tenant, off := x, len := n }] }) ∧
    (Ready s t one → s.choosable k t.uid = [] → (s.core k).revoking = none → (∀ l ∈ (s.core k).lent, l.tenant ≠ t.tenant) →
      ∃ s', exec (.recall d a b e f) s = .next s' ∧ Only s s' t t.past) ∧
    (Ready s t one → s.choosable k t.uid ≠ [] → ∃ c who mine, Issued s t one c ∧ who ≠ [] ∧ (∀ u ∈ who, u ∈ c.popped.choosable k t.uid) ∧
      exec (.recall d a b e f) s = .next (c.await (c.popped.revoke k who mine) .recall)))

/-- A number is assigned, and may be read and written, at the levels of the map; the form asks for that level, FLTVAL is the number, another
number is illegal, or needs curator level from 0x100 to 0x1FF. MFSR gives the value of the register, and of one that a write from another
core is spreading the old or the new value. MTSR writes a thread register, so that it reads as the value in its unreserved bits, and
completes; for a register of another unit it waits, the unit makes the write, with the fields that the rules give and what the cycle of the
MTSR adds, and the MTSR completes. A thread whose wait has ended is ready at its successor. (R31, R64, R248, R249, R292, R313, R317, R319,
R329, R330, R331, R332) -/
def Obligations.SystemRegisters : Prop :=
  (∀ (k : Bool) (n : Nat), ((sysLevels k n).isSome = true ↔ n < 4 ∨ 8 ≤ n ∧ n ≤ 0x0A ∨ n = 0x10 ∨ 0x14 ≤ n ∧ n ≤ 0x25 ∨ n = 0x30 ∨
      0x40 ≤ n ∧ n ≤ 0x4F ∨ n = 0x60 ∨ 0x70 ≤ n ∧ n ≤ 0x87 ∨ 0x90 ≤ n ∧ n ≤ 0xAB ∨ n = 0x100 ∨ 0x111 ≤ n ∧ n ≤ 0x115 ∨ n = 0x110 ∧ k = true) ∧
    ∀ r w, sysLevels k n = some (r, w) →
      r = (if 0x100 ≤ n then 2 else if n = 0x16 ∨ n = 0x17 ∨ 0x90 ≤ n ∧ n ≤ 0xA7 then 1 else 0) ∧
      w = (if 0x100 ≤ n ∨ n = 3 then 2 else if n < 2 ∨ 0x70 ≤ n ∧ n ≤ 0x87 ∨ 0xA8 ≤ n then 3
        else if n = 2 ∨ n = 0x16 ∨ n = 0x17 ∨ n = 0x1C ∨ 0x40 ≤ n ∧ n ≤ 0x4F ∨ n = 0x60 ∨ 0x90 ≤ n ∧ n ≤ 0xA7 then 1 else 0)) ∧
  (∀ (f : Form) (n : Nat) (write k : Bool) (t : Thread) (c : Core), f.illegal = false →
    let g := sysForm f n write k t c
    (sysLevels k n = none → 0x100 ≤ n ∧ n < 0x200 ∧ t.level ≠ .curator → g.level = .curator ∧ g.privVal = w64 n) ∧
    (sysLevels k n = none → ¬ (0x100 ≤ n ∧ n < 0x200 ∧ t.level ≠ .curator) → g.illegal = true) ∧
    (∀ r w, sysLevels k n = some (r, w) → g.illegal = false ∧ g.privVal = w64 n ∧ g.level.num = Nat.min (if write then w else r) 2 ∧
      ((if write then w else r) = 3 → g.denied = true))) ∧
  (∀ (d a : BitVec 6) (e : BitVec 1) (n : BitVec 13) (s : State) (c : Ctx) (s1 : State), Runs s (.mfsr d a e n) (fun t k =>
      sysForm { Form.plain with d := opD .dst d, rsvd := nz a || nz e } n.toNat false (s.curatorCore t.core) t k) c s1 →
    (c.popped.spreading c.t n.toNat = none → exec (.mfsr d a e n) s = .next (c.finish (c.popped.sysRead c.t n.toNat))) ∧
    (∀ v k q, c.popped.spreading c.t n.toNat = some v → c.popped.pick 2 = (k, q) →
      exec (.mfsr d a e n) s = .next (c.done (c.put q (if k = 1 then v else q.sysRead c.t n.toNat))))) ∧
  (∀ (s : State) (t : Thread),
    let c := s.core t.core
    let ten := s.tenant (if t.level = .curator then 0 else t.tenant)
    let read := s.sysRead t
    read 0 = w64 t.tid ∧ read 1 = s.time t.core ∧ read 2 = w64 (t.cls.num + (if s.isStandby t then 4 else 0) + t.tenant * 256) ∧
    read 3 = (if c.prove then 1 else 0) ∧ read 0x01F = w64 (t.level.num + t.plvl.num * 4 + (if t.inh then 16 else 0) +
      (if t.trep.toNat.testBit 0 then t.trep.toNat * 32 else 0)) ∧
    read 0x018 = t.fltcause ∧ read 0x019 = t.fltval ∧ read 0x01A = t.fltpc ∧ read 0x01B = t.fltinst ∧ read 0x01C = ten.trapvec ∧
    read 0x060 = ten.heapdesc ∧ read 0x100 = c.ctrapvec ∧ read 0x112 = s.front.pwrlim ∧ read 0x113 = c.trcbase ∧ read 0x114 = c.trcctl ∧
    read 0x071 = 2 ∧ read 0x072 = 2 ∧ read 0x073 = 2 ∧
    (∀ i < 8, ∀ x, c.pmc[i]? = some x →
      (let n := x.count.toNat + (if c.counts i 1 none 0 then 1 else 0)
       read (0x40 + i) = w64 (n % 2 ^ 48 + (if x.ovf = true ∨ 2 ^ 48 ≤ n then 2 ^ 63 else 0))) ∧
      some (read (0x48 + i)) = c.pmsel[i]? ∧ some (read (0x90 + i)) = c.dbgc[i]? ∧ some (read (0x98 + i)) = c.dbga[i]? ∧
      some (read (0xA0 + i)) = c.dbgb[i]?)) ∧
  (∀ (d a : BitVec 6) (e : BitVec 1) (n : BitVec 13) (s : State) (c : Ctx) (s1 : State), Runs s (.mtsr d a e n) (fun t k =>
      sysForm { Form.plain with d := opD .src d, rsvd := nz a || nz e } n.toNat true (s.curatorCore t.core) t k) c s1 →
    (sysEvent c.uid n.toNat c.d = none → exec (.mtsr d a e n) s = .next (c.done (c.popped.sysPut c.t n.toNat c.d))) ∧
    (∀ ev, sysEvent c.uid n.toNat c.d = some ev → ∃ at_, exec (.mtsr d a e n) s = .next ((c.await c.popped .sysWrite).post at_ ev))) ∧
  (∀ (s : State) (t : Thread) (v : Word) (n : Nat) (mask : Word), s.thread? t.uid = some t →
    (n, mask) ∈ [(0x009, 0x1F), (0x00A, BitVec.allOnes 64), (0x010, BitVec.allOnes 64), (0x014, BitVec.allOnes 64), (0x015, BitVec.allOnes 64), (0x016, BitVec.allOnes 64), (0x017, BitVec.allOnes 64), (0x018, 0x1FF),
      (0x019, BitVec.allOnes 64), (0x01A, BitVec.allOnes 64), (0x01B, 0xFFFFFFFF), (0x01E, BitVec.allOnes 64), (0x020, 0xFFFFFFFFFFFFF), (0x021, 0xFFFFFFFFFFFFF), (0x022, 0xFFFFFFFF),
      (0x023, BitVec.allOnes 64), (0x024, 0xFFFFFFFF), (0x025, 0xFFFF0003), (0x030, 0xFFFFFFFF0000FF07), (0x100, BitVec.allOnes 64), (0x111, BitVec.allOnes 64), (0x113, BitVec.allOnes 64)] →
    ∃ t', (s.sysPut t n v).thread? t.uid = some t' ∧ (s.sysPut t n v).sysRead t' n = v &&& mask) ∧
  (∀ (s : State) (t : Thread) (v : Word), s.thread? t.uid = some t → ∃ t', (s.sysPut t 0x008 v).thread? t.uid = some t' ∧
    t'.fprm = if v.toNat % 8 ≤ 4 then v &&& 7 else 0) ∧
  (∀ (s : State) (uid n : Nat) (v : Word) (t : Thread), s.thread? uid = some t → t.await = .sysWrite →
    let k := t.core
    let ten := if t.level = .curator then 0 else t.tenant
    let ends (u : State) : Host.Outcome State Fault Refusal := .next (u.completeWait uid)
    let heap := v &&& 0x000FFFFFC0000FFF
    exec (.modeWrite uid v) s = ends (s.modCore k fun c => { c with prove := v.toNat.testBit 0 }) ∧
    exec (.trapvecWrite uid v) s = ends (s.modTenant ten fun x => { x with trapvec := v }) ∧
    exec (.heapdescWrite uid v) s = ends (s.modTenant ten fun x =>
      if x.heapdesc = heap then x else { x with heapdesc := heap, live := [], oldLive := x.oldLive ++ x.live, headHit := false }) ∧
    exec (.tstatWrite uid v) s = ends (s.modThread uid fun x =>
      let p := Level.ofNum (Nat.min (fieldOf v 2 2) x.level.num)
      let r : BitVec 40 := if v.toNat.testBit 5 then BitVec.ofNat 40 (v.toNat / 32) else 0
      { x with plvl := p, inh := v.toNat.testBit 4, trep := r }) ∧
    (n < 8 → exec (.pmcWrite uid n v) s = ends (s.modCore k fun c =>
      let wrapped := (c.pmc[n]?).bind (·.wrappedAt)
      let ovf := v.toNat.testBit 63 || wrapped.map (· + 1) == some s.now
      { c with pmc := c.pmc.setIfInBounds n { count := v.setWidth 48, ovf := ovf, wrappedAt := wrapped } })) ∧
    (n < 8 → exec (.pmselWrite uid n v) s = ends (s.modCore k fun c =>
      let w := if t.level = .curator then v &&& 0x0107FFFF else setField (v &&& 0x0107FFFF) 8 8 t.tenant
      { c with pmsel := c.pmsel.setIfInBounds n w })) ∧
    (n < 8 → exec (.dbgcWrite uid n v) s = ends (s.modCore k fun c =>
      let hit := ((c.dbgc[n]?).getD 0).toNat.testBit 16 && (v.toNat.testBit 16 || (lookup? c.hitAt n).map (· + 1) == some s.now)
      let owner := if t.level = .runtime then t.tenant else fieldOf v 8 8
      { c with dbgc := c.dbgc.setIfInBounds n (w64 (v.toNat % 256 + owner * 2 ^ 8 + (if hit then 2 ^ 16 else 0))) })) ∧
    (n < 8 → t.level = .curator → exec (.dbgcWrite uid (8 + n) v) s = ends (s.modCore k fun c => { c with dbga := c.dbga.setIfInBounds n v }) ∧
      exec (.dbgcWrite uid (16 + n) v) s = ends (s.modCore k fun c => { c with dbgb := c.dbgb.setIfInBounds n v })) ∧
    exec (.trcctlWrite uid v) s = ends ((({ s with pending := s.pending.filter fun p => !(p.ev == Instr.traceSample k) } : State).modCore k
      fun c => { c with trcctl := v &&& 0x1FFF1F, trcCount := 0 }).postSample k (s.now + 1)) ∧
    exec (.fwctlWrite uid v) s = ends (s.modCore k fun c => { c with
      fwEnable := v.toNat.testBit 0, fwDrops := BitVec.ofNat 48 (fieldOf v 16 48 + if c.fwDropped.1 + 1 = s.now then c.fwDropped.2 else 0) }) ∧
    exec (.pwrlimWrite uid v) s = ends (s.modFront fun x => { x with pwrlim := v })) ∧
  (∀ (s : State) (uid : Nat) (t : Thread), s.thread? uid = some t → t.stopPending = false → t.stepping = false →
    ∃ t', (s.completeWait uid).thread? uid = some t' ∧ t'.stat = .ready ∧ t'.await = .nothing ∧ t'.pc = t.successor.1 ∧ t'.regs = t.regs) ∧
  (∀ (d a : BitVec 6) (e : BitVec 1) (n : BitVec 13) (s : State) (t : Thread),
    let get : Form := sysForm { Form.plain with d := opD .dst d, rsvd := nz a || nz e } n.toNat false (s.curatorCore t.core) t (s.core t.core)
    let put : Form := sysForm { Form.plain with d := opD .src d, rsvd := nz a || nz e } n.toNat true (s.curatorCore t.core) t (s.core t.core)
    (Ready s t get → s.spreading t n.toNat = none → ∃ s', exec (.mfsr d a e n) s = .next s' ∧
      Only s s' t (t.give get.d (s.sysRead t n.toNat)).past) ∧
    (Ready s t put → sysEvent t.uid n.toNat (s.val t put.d) = none → ∃ c, Issued s t put c ∧
      exec (.mtsr d a e n) s = .next (c.done (c.popped.sysPut t n.toNat (s.val t put.d)))) ∧
    (∀ ev, Ready s t put → sysEvent t.uid n.toNat (s.val t put.d) = some ev → ∃ c at_, Issued s t put c ∧
      exec (.mtsr d a e n) s = .next ((c.await c.popped .sysWrite).post at_ ev)))

/-- A stop of a thread below curator level records its state and makes it trapped-stopped, or is pending while it is away; resume and step
return it to that state; other commands and states change nothing; BRKSTOP arms a tenant on a core. Only a ready thread of a core is chosen
for issue. A word of a context record reads as the thread holds it, else 0, and a write changes it (of word 0, not the state, valid and
thread ID), while the thread is stopped. A sample is made when the timestamp is a multiple of the period; a record is written into the ring,
or dropped and counted. A fault record whose slot is free goes to the ring of its tenant, else to the curator's with the number it has in
its own ring (the model's choice, log entry 69); words 1 to 3 plainly, then word 0 with P = 1; without a free slot it waits. (R48, R50, R66,
R257, R258, R269, R291, R311, R312, R317, R318) -/
def Obligations.DebugTraceAndFaultRecords : Prop :=
  (∀ (s : State) (tid : Nat), (s.holder? tid = none → exec (.debugStop tid) s = .next s) ∧
    (∀ t, s.thread? t.uid = some t → s.holder? tid = some t →
      (t.level = .curator ∨ t.status = .free ∨ t.status = .trappedStopped → exec (.debugStop tid) s = .next s) ∧
      (t.level ≠ .curator → t.status ∈ [Status.revoked, .saving, .restoring] →
        exec (.debugStop tid) s = .next (s.setThread { t with stopPending := true })) ∧
      (t.level ≠ .curator → t.status ∈ [Status.ready, .blockedRegister, .parkedMemory, .parkedMessage, .heldFault] →
        exec (.debugStop tid) s = .next ((s.setThread { t with status := .trappedStopped, recorded := t.status, stopPending := false, stepping := false, yield := none }).trace
          t.core 3 (some t) t.pc (w64 t.status.num))))) ∧
  (∀ (s : State) (tid : Nat), (s.occupant? tid = none → exec (.debugResume tid) s = .next s ∧ exec (.debugStep tid) s = .next s) ∧
    (∀ t, s.thread? t.uid = some t → s.occupant? tid = some t →
      (t.status ≠ .trappedStopped → exec (.debugResume tid) s = .next s ∧ exec (.debugStep tid) s = .next s) ∧
      (t.status = .trappedStopped → exec (.debugResume tid) s = .next (s.setThread { t with status := t.recorded, stepping := false, stepIssued := false }) ∧
        exec (.debugStep tid) s = .next (s.setThread { t with status := t.recorded, stepping := true, stepIssued := false })))) ∧
  (∀ (s : State) (k tenant : Nat), exec (.brkstop k tenant) s = .next (s.modCore k fun x => { x with brkTenant := tenant })) ∧
  (∀ (s : State) (t : Thread) (v : Word),
    let p := s.modCore t.core fun x => { x with dbgNamed := ((s.holder? (v.toNat % 2 ^ 20)).map (·.uid)).getD 0 }
    let q := match fieldOf v 20 4 with
      | 1 => exec (.debugStop (v.toNat % 2 ^ 20)) p
      | 2 => exec (.debugResume (v.toNat % 2 ^ 20)) p
      | 3 => exec (.debugStep (v.toNat % 2 ^ 20)) p
      | _ => .next p
    ∀ u, q = .next u → s.sysPut t 0x115 v = if v.toNat.testBit 24 then u.modCore t.core fun x => { x with brkTenant := fieldOf v 25 8 } else u) ∧
  (∀ (s : State) (k : Nat) (t : Thread) (o : Bool), s.choose k = some (t, o) → t.status = .ready ∧ t.core = k ∧ (∀ n, t.lastIssue = some n → n + 8 ≤ s.now) ∧
    (∀ n, lookup? (s.core k).slotIssue t.slot = some n → n + 8 ≤ s.now) ∧ s.frozen t = false ∧ s.barred t = false) ∧
  (∀ (s : State) (tid i : Nat) (v : Word) (t : Thread), tid < 655360 → i < 256 → s.occupant? tid = some t →
    (t.status ≠ .trappedStopped → exec (.contextRecordAccess true tid i v) s = .next s ∧
      exec (.contextRecordAccess false tid i v) s = .next (s.modFront fun x => { x with readData := some 0 })) ∧
    (t.status = .trappedStopped →
      (∀ w, w = (if i = 1 then t.pc else if 4 ≤ i ∧ i < 52 then (if i - 4 < (s.core t.core).regCount then (t.reg (i - 4)).val else 0)
          else if i = 52 then t.tstat else if i = 55 then t.fltpc else t.recordWord (s.core t.core).regCount .trappedStopped [] i) →
        exec (.contextRecordAccess false tid i v) s = .next (s.modFront fun x => { x with readData := some w })) ∧
      exec (.contextRecordAccess true tid i v) s = .next (if i = 0 then s.setThread { t with
          cls := (Cls.ofNum (fieldOf v 24 2)).getD t.cls, tenant := fieldOf v 26 8, level := Level.ofNum (fieldOf v 34 2),
          future := if v.toNat.testBit 36 then some (t.future.getD 0) else none }
        else if i = 1 then s.setThread { t with pc := v &&& ~~~3, dueTrap := none }
        else if 4 ≤ i ∧ i < 52 then s.setThread (t.setReg (i - 4) { t.reg (i - 4) with val := v, ecc := .ok })
        else s.setThread (t.setRecordWord i v)))) ∧
  (∀ (s : State) (k : Nat), let p := fieldOf (s.core k).trcctl 16 5
    (p < 8 ∨ 24 < p → exec (.traceSample k) s = .next s) ∧
    (8 ≤ p → p ≤ 24 → (s.time k).toNat % 2 ^ p ≠ 0 → exec (.traceSample k) s = .next s) ∧
    (8 ≤ p → p ≤ 24 → (s.time k).toNat % 2 ^ p = 0 →
      (∀ x, (s.core k).issued = some x → exec (.traceSample k) s = .next ((s.traceRaw k 0 x.head x.pc (w64 x.word.toNat)).postSample k (s.now + 1))) ∧
      ((s.core k).issued = none → exec (.traceSample k) s = .next ((s.traceRaw k 0 (w64 (2 ^ 35)) 0 0).postSample k (s.now + 1))))) ∧
  (∀ (s : State) (k kind : Nat) (head pc w : Word), s.traceRaw k kind head pc w = if (s.core k).traces kind then
    { s with traced := s.traced ++ [{ core := k, head := head, stamp := s.time k, pc := pc, val := w }] } else s) ∧
  (∀ (s : State) (r : TraceRec) (len : Nat),
    let a := (s.core r.core).trcbase.toNat + 32 * ((s.core r.core).trcCount % len)
    (s.core r.core).ringLength = some len → (s.core r.core).trcbase.toNat % 65536 = 0 → (s.core r.core).trcbase.toNat + 32 * len ≤ 0x00C000000000 →
    (s.mayWrite [a, a + 8, a + 16, a + 24] = false → s.writeTrace r = s.modCore r.core fun x => { x with trcDropped := x.trcDropped + 1 }) ∧
    (s.mayWrite [a, a + 8, a + 16, a + 24] = true → (s.core r.core).trcDropped = 0 → s.MemOk → s.accesses = [] →
      (∀ i < 4, s.poisoned (a + 8 * i) = false ∧ (s.tag (a + 8 * i)).w = false ∧ s.eccOf (a + 8 * i) = .ok) →
      let u := s.writeTrace r
      u.word a = r.head ∧ u.word (a + 8) = r.stamp ∧ u.word (a + 16) = r.pc ∧ u.word (a + 24) = r.val ∧
        (u.core r.core).trcCount = (s.core r.core).trcCount + 1 ∧ (∀ j, j < a ∨ a + 32 ≤ j → u.byte j = s.byte j) ∧ u.threads = s.threads)) ∧
  (∀ (s : State) (id : Nat) (r : FaultRec), s.records.find? (fun r => r.id == id) = some r →
    (s.recordFits r = false → exec (.faultRecordSend id) s = .next s) ∧
    (s.recordFits r = true →
      let p : State := { s with records := s.records.filter fun x => !(x.id == id) }
      let q : State := p.modTenant r.tenant fun t => { t with nextRecord := t.nextRecord + 1 }
      let curators (u : State) (seq : Nat) : State :=
        ((({ u with curatorRecords := s.curatorRecords + 1 } : State).writeRecordAt (0x01F000600000 + 32 * (s.curatorRecords % 4096)) 0 r
          seq).modFront fun x => { x with curatorIrqs := x.curatorIrqs + 1 }).markSent r |>.endByRecord r
      (r.tenant = 0 ∨ s.tenant? r.tenant = none → exec (.faultRecordSend id) s = .next (curators p s.curatorRecords)) ∧
      (r.tenant ≠ 0 → s.tenant? r.tenant ≠ none → s.faultSlot r.tenant = none →
        exec (.faultRecordSend id) s = .next (curators q (s.tenant r.tenant).nextRecord)) ∧
      (∀ pa, r.tenant ≠ 0 → s.tenant? r.tenant ≠ none → s.faultSlot r.tenant = some pa → exec (.faultRecordSend id) s =
        .next (((q.writeRecordAt pa r.tenant r (s.tenant r.tenant).nextRecord).interrupt r.tenant (s.tenant r.tenant).faultVector).markSent r
          |>.endByRecord r)))) ∧
  (∀ (s : State) (tenant vector : Nat), ((s.interrupt tenant vector).front.irqs = (tenant, vector) :: s.front.irqs ∧
    (s.interrupt tenant vector).mem = s.mem ∧ (s.interrupt tenant vector).threads = s.threads) ∧
    (s.front.masked (8 * tenant + vector) = true → 8 * tenant + vector ∈ (s.interrupt tenant vector).front.msixPending)) ∧
  (∀ (s : State) (r : FaultRec), s.recordFits r = true → (s.tag (s.recordSlot r).1).p = false ∧
    s.quietWords ((List.range 4).map fun i => (s.recordSlot r).1 + 8 * i) = true) ∧
  (∀ (s : State) (pa tenant seq : Nat) (r : FaultRec), s.MemOk → regionOf pa = .dram → pa % 32 = 0 → s.accesses = [] →
    (∀ i < 4, s.poisoned (pa + 8 * i) = false ∧ (s.tag (pa + 8 * i)).w = false ∧ s.eccOf (pa + 8 * i) = .ok) →
    let u := s.writeRecordAt pa tenant r seq
    u.word pa = w64 (r.tid + r.cause.toNat * 2 ^ 20 + r.kind * 2 ^ 28 + seq % 65536 * 2 ^ 48) ∧ u.word (pa + 8) = r.val ∧
      u.word (pa + 16) = r.pc ∧ u.word (pa + 24) = w64 (r.word.toNat + r.detail * 2 ^ 32) ∧ (u.tag pa).p = true ∧
      (∀ j, j < pa ∨ pa + 32 ≤ j → u.byte j = s.byte j) ∧ u.threads = s.threads)

/-- SWAT of a good descriptor clears P of the status word and arms a curfew on its cores, widened to whole rows; an empty bitmap writes
status 0 at once; a curator core and an odd OUT or IN trap. CURFEW_STOP does nothing before T, then stops the partition, and with OUT = 0
discards what is on it. No stopped thread is chosen for issue. CURFEW_SAVE writes the area when the partition is quiet and the area has
room, and empties it; a bad area ends the threads. SWITCH_IN reads the image of the same cores from the area's bytes, restores it, and when
its accesses are placed lets its contexts return; its status is 1 for another image and 2 for an area that is bad. A core with nothing
switched in stays switched out. The area has its header at its base, and a context record that nothing has changed restores the thread.
(R226, R262, R263, R264, R265, R267, R268, R269, R270, R448, R485) -/
def Obligations.CurfewSwitches : Prop :=
  (∀ (bm : List Word) (c : Nat), c ∈ partitionOf bm ↔ c < 1280 ∧ ((bm.getD (c / 64) 0).toNat.testBit (c % 64) = true ∨
    isArray c = true ∧ ∃ j < 16, (bm.getD (rowCore (rowOf c) j / 64) 0).toNat.testBit (rowCore (rowOf c) j % 64) = true)) ∧
  (∀ (d a b : BitVec 6) (e f : BitVec 1) (s : State) (c : Ctx) (s1 : State) (pa : Nat) (ws : List Word) (q p : State),
    Runs s (.swat d a b e f) (fun _ _ => { Form.plain with a := opA .src a e, b := opB .src b f, rsvd := nz d, level := .curator }) c s1 →
    c.Drained s1 → c.Reaches s1 c.b 256 true true false pa → c.Finds s1 c.b pa 32 ws q p →
    let cores := partitionOf (ws.take 20)
    let out := ws.getD 20 0
    let inn := ws.getD 21 0
    let columns := ∃ k ∈ cores, q.curatorCore k = true
    (columns → exec (.swat d a b e f) s = .next (c.trap q 0x09 c.b)) ∧
    (¬ columns → out.toNat % 65536 ≠ 0 → exec (.swat d a b e f) s = .next (c.trap q 0x0A out)) ∧
    (¬ columns → out.toNat % 65536 = 0 → inn.toNat % 65536 ≠ 0 → exec (.swat d a b e f) s = .next (c.trap q 0x0A inn)) ∧
    (out.toNat % 65536 = 0 → inn.toNat % 65536 = 0 → cores = [] →
      (q.mayWrite [pa + 184] = true → exec (.swat d a b e f) s = .next (c.done (p.engineWrite (pa + 184) 0 (.unit 0) true (none, none)))) ∧
      (q.mayWrite [pa + 184] = false → exec (.swat d a b e f) s = .next (c.block q (.room [pa + 184])))) ∧
    (¬ columns → out.toNat % 65536 = 0 → inn.toNat % 65536 = 0 → cores ≠ [] →
      let x : Curfew :=
        { id := 0, t := c.a.toNat, cores := cores, out := out.toNat, inn := inn.toNat, policy := (ws.getD 22 0).toNat % 4,
          stby := (ws.getD 22 0).toNat.testBit 2, statusPa := some (pa + 184), phase := .armed, withdrawn := [], bad := false }
      exec (.swat d a b e f) s = .next (c.done ((p.claim (pa + 184)).armCurfew x)))) ∧
  (∀ (s : State) (x : Curfew), x.phase = .armed → ∃ y, (s.armCurfew x).curfews = s.curfews ++ [y] ∧ y.t = x.t ∧ y.cores = x.cores ∧
    y.phase = .armed ∧ (s.armCurfew x).threads = s.threads ∧ (s.armCurfew x).mem = s.mem) ∧
  (∀ (s : State) (id : Nat) (x : Curfew), s.curfews.find? (fun x => x.id == id) = some x →
    let first := ∀ y ∈ s.curfews, x.id ≤ y.id ∨ ∀ k ∈ y.cores, k ∉ x.cores
    let u := (s.setCurfew { x with phase := .stopped, withdrawn := s.withdrawnBy x }).stopPartition x
    (x.phase ≠ .armed ∨ ¬ first ∨ s.now < x.t → exec (.curfewStop id) s = .next s) ∧
    (x.phase = .armed → first → x.t ≤ s.now →
      (x.out = 0 →
        let us := (u.caught x).map (·.uid)
        exec (.curfewStop id) s = .next (((({ u with records := u.records.filter fun r => !us.contains r.uid } : State).emptyPartition x.cores us).setCurfew
          { x with phase := .saved }).postNow (.switchIn id))) ∧
      (x.out ≠ 0 → exec (.curfewStop id) s = .next (u.postNow (.curfewSave id))))) ∧
  (∀ (s : State) (k : Nat), ((s.stopCore k).core k).stopped = true) ∧
  (∀ (s : State) (us : List Nat), (∀ t ∈ (s.withdraw us).threads, t.uid ∈ us → t.status = .saving ∧ t.yield = none) ∧
    (s.withdraw us).mem = s.mem) ∧
  (∀ (s : State) (k : Nat) (t : Thread) (o : Bool), s.choose k = some (t, o) → (s.core t.core).stopped = true →
    s.isStandby t = true ∧ (t.level = .curator ∨ ∀ x, s.curfewOf t.core = some x → x.stby = false)) ∧
  (∀ (s : State) (id : Nat) (x : Curfew), s.curfews.find? (fun x => x.id == id) = some x →
    let i := s.imageOf x
    (x.phase ≠ .stopped ∨ s.mayOut x = false → exec (.curfewSave id) s = .next s) ∧
    (x.phase = .stopped → s.mayOut x = true → ∀ ok, ok = areaOk x.out (areaBytes x.cores.length + 8 * i.fallOut.length) →
      let written : State := { s.writeArea i with images := i :: s.images.filter fun j => !(j.base == i.base) }
      let saved : State := if ok then written else i.threads.foldl (fun s t => s.loseThread t) s
      exec (.curfewSave id) s = .next (((saved.emptyPartition x.cores (i.threads.map (·.uid))).setCurfew
        { x with phase := .saved, bad := !ok }).postNow (.switchIn id)))) ∧
  (∀ (s : State) (x : Curfew), (s.imageOf x).threads.map (·.uid) = (s.caught x).map (·.uid) ∧
    ∀ t ∈ s.threads, t.core ∈ x.cores → s.isStandby t = false → t.uid ∈ (s.imageOf x).threads.map (·.uid)) ∧
  (∀ (s : State) (i : SaveImage), s.MemOk → i.cores = [] → i.accesses = [] → i.sends = [] → i.gathers = [] → s.accesses = [] →
    areaOk i.base 0x10000 = true → i.base % 65536 = 0 →
    let u := s.writeArea i
    u.word i.base = 1 ∧ u.word (i.base + 8) = w64 i.t ∧ u.word (i.base + 224) = 0x10000 ∧ u.word (i.base + 232) = 0 ∧
      ∀ j, j < i.base ∨ i.base + 0x10000 ≤ j → u.byte j = s.byte j) ∧
  (∀ (t : Thread) (ws : List Word), t.reread ws ws = t) ∧
  (∀ (s : State) (id : Nat) (x : Curfew), s.curfews.find? (fun x => x.id == id) = some x →
    (x.phase ≠ .saved → x.phase ≠ .restoring → exec (.switchIn id) s = .next s) ∧
    (s.mayIn x = false → exec (.switchIn id) s = .next s) ∧
    (x.phase = .restoring → (s.mayIn x = true → s.allPlaced x = true ∧
      exec (.switchIn id) s = .next ((s.resumePartition x).endSwitch x (if x.bad then 2 else 0)))) ∧
    (x.phase = .saved → s.mayIn x = true →
      (x.inn = 0 → exec (.switchIn id) s = .next (s.endSwitch x (if x.bad then 2 else 0))) ∧
      (x.inn ≠ 0 →
        let v := s.checkRange x.inn (areaBytes x.cores.length + (s.areaWord (x.inn + 232)).toNat)
        let readable := areaOk x.inn (areaBytes x.cores.length) = true ∧ v.areaPoisoned x.inn 30 = false
        let ours := v.areaWord x.inn = 1 ∧ v.areaWords (x.inn + 64) 20 = coreBitmap x.cores
        (¬ readable → exec (.switchIn id) s = .next ((v.loseArea x.inn x.cores).endSwitch x 2)) ∧
        let whole := areaOk x.inn ((v.areaWord (x.inn + 224)).toNat + (v.areaWord (x.inn + 232)).toNat) = true
        (readable → ¬ ours → exec (.switchIn id) s = .next (v.endSwitch x 1)) ∧
        (readable → ours → ¬ whole → exec (.switchIn id) s = .next ((v.loseArea x.inn x.cores).endSwitch x 2)) ∧
        (∀ i lost, readable → ours → whole → v.areaImage x.inn x.cores = (i, lost) →
          let used (j : SaveImage) : SaveImage := if j.t = i.t ∧ j.cores = i.cores then { j with live := false } else j
          exec (.switchIn id) s = .next (((({ v with images := v.images.map used } : State).restoreImage i lost).setCurfew
            { x with phase := .restoring, bad := x.bad || v.badArea x }).postNow (.switchIn id)))))) ∧
  (∀ (s : State) (x : Curfew) (k : Nat),
    ((s.core k).switched = none → x.inn = 0 → x.out ≠ 0 → s.staysOut x k = some x.out) ∧
    ((s.core k).switched = none → x.inn ≠ 0 ∨ x.out = 0 → s.staysOut x k = none) ∧
    (∀ base, (s.core k).switched = some base → (x.inn = 0 → s.staysOut x k = some base) ∧ (x.inn ≠ 0 → x.inn = base → s.staysOut x k = none))) ∧
  (∀ (d a b : BitVec 6) (e f : BitVec 1) (s : State) (t : Thread) (pa : Nat) (ws : List Word),
    let g : Form := { Form.plain with a := opA .src a e, b := opB .src b f, rsvd := nz d, level := .curator }
    let cores := partitionOf (ws.take 20)
    Ready s t g → s.drained t.uid = true → s.Descriptor t (s.val t g.b) 32 true pa ws → (∀ k ∈ cores, s.curatorCore k = false) →
    (ws.getD 20 0).toNat % 65536 = 0 → (ws.getD 21 0).toNat % 65536 = 0 → cores ≠ [] →
    ∃ s' x, exec (.swat d a b e f) s = .next s' ∧ s'.curfews = s.curfews ++ [x] ∧ x.t = (s.val t g.a).toNat ∧ x.cores = cores ∧
      x.out = (ws.getD 20 0).toNat ∧ x.inn = (ws.getD 21 0).toNat ∧ x.policy = (ws.getD 22 0).toNat % 4 ∧
      x.stby = (ws.getD 22 0).toNat.testBit 2 ∧ x.statusPa = some (pa + 184) ∧ x.phase = .armed)

/-- The header decides in the order of R281 and R285: sequence, mask, kind, version, body. A commit moves the cursor and PROG on; a failure
stops the consumer with error, cause and SEQ and sends IVEC. NOP commits; LAUNCH pushes its records in turn over its cores; WAIT commits
when its word has the value, or polls, or parks; SIGNAL stores, waits for that, interrupts; COPY launches its transfer; FOLIO does its folio
instruction and then stores the result; a bad field fails with 3, a fault with 4. A skipped record commits; a mismatch waits 65536 cycles. A
due handler is placed in its free standby context with its four values; one that has waited is dropped when PROG has reached WAKE. (R280,
R281, R282, R283, R284, R285, R286, R289, R483, R484) -/
def Obligations.QueueRecordsAndHandlers : Prop :=
  (∀ (s : State) (x : Queue) (i pa : Nat), i ≤ x.last → (x.hnd = true → i ≠ x.last) → (x.consumer i).wait = .running →
    (x.consumer i).accepted = [] → (x.consumer i).cur < (s.wakeValue x).toNat → s.slotPa x (x.consumer i).cur = .ok pa → regionOf pa = .dram →
    let h := s.word pa
    let mask := h.toNat % 16 % 2 ^ (x.last + 1)
    let kind := fieldOf h 40 8
    (s.unreadable pa = true → s.look x i = .bad 5 0x0E) ∧
    (s.unreadable pa = false →
      (fieldOf h 48 16 ≠ (x.consumer i).cur % 65536 → s.look x i = .mismatch) ∧
      (fieldOf h 48 16 = (x.consumer i).cur % 65536 →
        (mask ≠ 0 → mask.testBit i = false → s.look x i = .skip) ∧
        (mask = 0 ∨ mask.testBit i = true →
          (kind = 0 ∨ 6 < kind → s.look x i = .bad 1 0) ∧
          (1 ≤ kind → kind ≤ 6 →
            (fieldOf h 32 8 ≠ x.version → s.look x i = .bad 2 0) ∧
            (fieldOf h 32 8 = x.version →
              ((∃ j < 8, s.unreadable (pa + 8 * j) = true) → s.look x i = .bad 5 0x0E) ∧
              ((∀ j < 8, s.unreadable (pa + 8 * j) = false ∧ regionOf (pa + 8 * j) = .dram) →
                s.look x i = .record kind ((List.range 8).map fun j => s.word (pa + 8 * j))))))))) ∧
  (∀ (s : State) (q i : Nat) (x : Queue), s.queue? q = some x → i < 4 →
    (∃ y, (s.commit q i).queue? q = some y ∧ (y.consumer i).cur = (x.consumer i).cur + 1 ∧ (y.consumer i).wait = .running ∧
      (y.consumer i).accepted = (x.consumer i).accepted.tail ∧ y.progress i = w64 ((x.consumer i).cur + 1)) ∧
    ∀ err cause, ∃ y, (s.failRecord q i err cause).queue? q = some y ∧ (y.consumer i).wait = .stopped ∧ (y.consumer i).err = err ∧
      (y.consumer i).cause = cause.toNat ∧ (y.consumer i).seq = (x.consumer i).cur ∧ (y.consumer i).cur = (x.consumer i).cur ∧
      y.progress i = x.progress i ∧ (s.failRecord q i err cause).front.irqs = (x.tenant, x.vector) :: s.front.irqs) ∧
  (∀ (s : State) (q i : Nat) (x : Queue), s.queue? q = some x →
    let u := s.checkSlot x i 8
    (s.look x i = .none → exec (.nop q i) s = .next s) ∧
    (∀ err cause, s.look x i ≠ .none → u.look x i = .bad err cause → exec (.nop q i) s = .next (u.failRecord q i err cause)) ∧
    (s.look x i = .skip → exec (.recordSkip q i) s = .next ((s.checkSlot x i 1).commit q i)) ∧
    ((x.consumer i).wait = .seq → exec (.seqWaitTimeout q i) s = .next (s.modConsumer q i fun c => { c with wait := .running })) ∧
    ((x.consumer i).wait ≠ .seq → s.look x i = .mismatch → exec (.seqWaitTimeout q i) s =
      .next (((s.checkSlot x i 1).modConsumer q i fun c => { c with wait := .seq }).post (s.now + 65536) (.seqWaitTimeout q i)))) ∧
  (∀ (s : State) (q i kind : Nat) (x : Queue) (ws : List Word) (p : State), s.queue? q = some x → s.look x i ≠ .none →
    (s.checkSlot x i 8).look x i = .record kind ws →
    p = (s.checkSlot x i 8).modConsumer q i (fun c => { c with accepted :=
      { kind := kind, words := (List.range 8).map fun j => (j, ws.getD j 0) } :: c.accepted.tail }) →
    let w (n : Nat) : Word := ws.getD n 0
    let c := x.consumer i
    let fails (err : Nat) (cause : BitVec 8) : Host.Outcome State Fault Refusal := .next (p.failRecord q i err cause)
    (kind = 6 → exec (.nop q i) s = .next (p.commit q i)) ∧
    (kind = 1 →
      let cores := p.launchCores x.tenant (w 6)
      let count := (w 7).toNat % 2 ^ 32
      let bad := (w 1).toNat % 4 ≠ 0 ∨ fieldOf (w 6) 28 2 = 3 ∨ count = 0 ∨ (fieldOf (w 6) 28 2 = 0 ∧ (p.tenant x.tenant).noonLimit = 0) ∨ cores = []
      (bad → exec (.launch q i) s = fails 3 0) ∧
      (¬ bad → ∀ u n, (if c.step = 0 then p.modConsumer q i fun c => { c with tasks := c.tasks ++ [(c.cur % 65536, count)] } else p).launchFrom
          q i x.tenant c.cur cores ws (count - c.step) c.step = (u, n) →
        exec (.launch q i) s = .next (if n = count then u.commit q i else u.modConsumer q i fun c => { c with step := n }))) ∧
    (kind = 2 →
      ((w 1).toNat % 8 ≠ 0 → exec (.wait q i) s = fails 3 0) ∧
      (∀ cause, (w 1).toNat % 8 = 0 → p.recordPa x (w 1) .read = .error cause → exec (.wait q i) s = .next (p.failAccess q i x (w 1) .read cause)) ∧
      (∀ pa, (w 1).toNat % 8 = 0 → p.recordPa x (w 1) .read = .ok pa →
        ((w 3).toNat % 2 = 1 → regionOf pa = .dram → (p.checkEcc pa).poisoned pa = false →
          let u := p.checkEcc pa
          exec (.wait q i) s = .next (if (w 2).toNat ≤ (u.word pa).toNat then u.commit q i
            else (u.modConsumer q i fun c => { c with wait := .poll }).post (u.now + 4096) (.waitPoll q i))) ∧
        ((w 3).toNat % 2 = 0 → tagged pa = false → exec (.wait q i) s = fails 4 0x09) ∧
        ((w 3).toNat % 2 = 0 → tagged pa = true → exec (.wait q i) s = .next (p.parkWait q i pa (w 1))))) ∧
    (kind = 3 →
      let bad := (w 1).toNat % 8 ≠ 0 ∨ (p.tenant x.tenant).vectors ≤ fieldOf (w 3) 8 3
      (bad → exec (.signal q i) s = fails 3 0) ∧
      (¬ bad → c.quiet = false → exec (.signal q i) s = .next p) ∧
      (∀ pa, ¬ bad → c.quiet = true → c.step = 0 → w 1 ≠ 0 → p.recordPa x (w 1) .write = .ok pa → tagged pa = true → p.mayWrite [pa] = true →
        exec (.signal q i) s = .next (((p.recallFor pa x.tenant false).engineWrite pa (w 2) (.unit x.tenant) true (none, some (q, i))).modConsumer
          q i fun c => { c with step := 1 })) ∧
      (¬ bad → c.quiet = true → c.step ≠ 0 ∨ w 1 = 0 → p.unsettled q i = false → exec (.signal q i) s =
        .next ((if (w 3).toNat % 2 = 1 then p.interrupt x.tenant (fieldOf (w 3) 8 3) else p).commit q i))) ∧
    (kind = 4 →
      let r := recordCopy ws
      (r.misaligned ≠ none → exec (.copy q i) s = fails 4 0x0A) ∧
      (r.misaligned = none → r.meetsWindow = true → exec (.copy q i) s = fails 3 0) ∧
      (∀ e, r.misaligned = none → r.meetsWindow = false → copyRange (p.walkPager x.viewer) r = .error e → exec (.copy q i) s = fails 4 e.cause) ∧
      (∀ ps, r.misaligned = none → r.meetsWindow = false → copyRange (p.walkPager x.viewer) r = .ok ps → p.launchRoom (p.executor q) = true →
        let u := (p.launchCopy (p.executor q) r ps 0 ((w 7).toNat.testBit 0) none x.tenant (some (q, i))).2
        exec (.copy q i) s = .next ((u.modConsumer q i fun c => { c with copies := c.copies ++ [p.nextId] }).commit q i))) ∧
    (kind = 5 →
      let z := if (w 1).toNat % 4 = 0 then p.checkWords x.viewer (w 2).toNat 8 else p
      (∀ cause, c.step = 0 → z.recordFolio x ((w 1).toNat % 4) (w 2) = .error cause → exec (.folio q i) s = .next (z.failRecord q i 4 cause)) ∧
      (∀ v u, c.step = 0 → z.recordFolio x ((w 1).toNat % 4) (w 2) = .ok (v, u) → exec (.folio q i) s = .next (if w 3 = 0 then u.commit q i
        else u.modConsumer q i fun c => { c with step := 1, result := v })) ∧
      (c.step ≠ 0 → (w 3).toNat % 8 ≠ 0 → exec (.folio q i) s = fails 4 0x0A) ∧
      (∀ cause, c.step ≠ 0 → (w 3).toNat % 8 = 0 → p.recordPa x (w 3) .write = .error cause →
        exec (.folio q i) s = .next (p.failAccess q i x (w 3) .write cause)) ∧
      (∀ pa, c.step ≠ 0 → (w 3).toNat % 8 = 0 → p.recordPa x (w 3) .write = .ok pa → tagged pa = true → p.mayWrite [pa] = true →
        exec (.folio q i) s = .next (((p.recallFor pa x.tenant false).engineWrite pa c.result (.unit x.tenant) true (none, some (q, i))).commit
          q i)))) ∧
  (∀ (s : State) (x : Queue) (i : Nat), ∀ o ∈ s.aheadOf x i, o.2.cur = (x.consumer i).cur ∧ o.2.wait = (x.consumer i).wait ∧
    (x.consumer i).accepted.length ≤ o.2.accepted.length ∧ x.executes i = true) ∧
  (∀ (s : State) (q i : Nat) (x : Queue) (cause : BitVec 8) (va : Word) (need : Need), s.queue? q = some x → i < 4 →
    ∃ y, (s.failAccess q i x va need cause).queue? q = some y ∧ (y.consumer i).wait = .stopped ∧ (y.consumer i).err = 4 ∧
      (y.consumer i).cause = cause.toNat) ∧
  (∀ (s : State) (q i : Nat) (x : Queue), s.queue? q = some x →
    ((x.consumer i).wait ≠ .poll → exec (.waitPoll q i) s = .next s) ∧
    ((x.consumer i).wait = .poll → exec (.waitPoll q i) s = exec (.wait q i) (s.modConsumer q i fun c => { c with wait := .running }))) ∧
  (∀ (q k tenant cur i : Nat) (stamp : Word) (ws : List Word), let r := launchRecord q k tenant cur i stamp ws
    r.pc = ws.getD 1 0 ∧ r.g0 = ws.getD 2 0 ∧ r.g1 = ws.getD 3 0 ∧ r.g2 = ws.getD 4 0 ∧ r.g3 = ws.getD 5 0 + w64 i ∧
      r.id = w64 (2 ^ 63 + q * 2 ^ 48 + cur % 65536 * 2 ^ 32 + i) ∧ r.tenant = tenant ∧ r.future = false ∧ r.seeder = k) ∧
  (∀ (s : State) (q k tenant cur n i : Nat) (cores : List Nat) (ws : List Word), s.launchFrom q k tenant cur cores ws 0 i = (s, i) ∧
    (∀ u, s.spawnTo (cores.getD (i % cores.length) 0) false (launchRecord q k tenant cur i (s.time (s.executor q)) ws) 0 = some u →
      s.launchFrom q k tenant cur cores ws (n + 1) i = u.launchFrom q k tenant cur cores ws n (i + 1)) ∧
    (s.spawnTo (cores.getD (i % cores.length) 0) false (launchRecord q k tenant cur i (s.time (s.executor q)) ws) 0 = none →
      s.launchFrom q k tenant cur cores ws (n + 1) i = (s, i))) ∧
  (∀ (s : State) (q : Nat) (x : Queue), s.queue? q = some x →
    (x.due = false ∨ x.hnd = false → exec (.queueHandlerDispatch q) s = .next s) ∧
    (x.due = true → x.hnd = true → x.late = true → x.wake.toNat ≤ (x.progress x.last).toNat →
      exec (.queueHandlerDispatch q) s = .next (s.setQueue q { x with due := false, late := false })) ∧
    (x.due = true → x.hnd = true → x.late = false ∨ (x.progress x.last).toNat < x.wake.toNat →
      (s.handlerRoom x = false → exec (.queueHandlerDispatch q) s = .next (s.setQueue q { x with late := true })) ∧
      (s.handlerRoom x = true →
        let u := (s.setQueue q { x with due := false, late := false }).bindHandler q x
        let v := u.placeThread x.hcore ((u.core x.hcore).standbySlot x.hstby) x.tenant (if (x.words.getD 10 0).toNat.testBit 13 then .runtime else .user)
          .noon (w64 (fieldOf (x.words.getD 8 0) 0 52)) [w64 q, x.wake, x.progress x.last, x.words.getD 9 0] fun t => { t with
            handler := some q, task := w64 (2 ^ 63 + 2 ^ 62 + q * 2 ^ 48 + x.wake.toNat % 2 ^ 48) }
        ∀ t, v.thread? u.nextUid = some t → exec (.queueHandlerDispatch q) s = .next (v.trace x.hcore 4 (some t) t.pc t.task))))

/-- A request of another protocol version gets code 5. GET_FEATURES gives the words; an image or table is taken while a check has failed and
it is good; CREATE_TENANT takes a good descriptor under the lowest free ID, and enters service if the boot has not; DESTROY_TENANT stops its
cores and drops it; CREATE_QUEUE and DESTROY_QUEUE make and remove a queue; SET_OWNER moves pages, with H of their leaves, once these may be
written. A wake store keeps the larger value, PROG only for a handler; a STATUS store restarts consumers. The host reads and writes its own
pages, else it reads poison and its write is dropped; a peer goes through the ingress map; a store that has reached its coherence point is
no longer waited for. (R96, R114, R272, R274, R275, R276, R279, R286, R287, R295, R296, R297) -/
def Obligations.HostRequestsAndAccesses : Prop :=
  (∀ (s : State) (ver : Nat) (im : List Byte) (desc : List Word) (v w x y : Word), ver ≠ 1 →
    exec (.getFeatures ver) s = .next (s.reply 0xC000 5 []) ∧ exec (.loadFirmware ver im) s = .next (s.reply 0xC001 5 []) ∧
    exec (.loadConfig ver im) s = .next (s.reply 0xC002 5 []) ∧ exec (.createTenant ver desc) s = .next (s.reply 0xC003 5 []) ∧
    exec (.destroyTenant ver v) s = .next (s.reply 0xC004 5 []) ∧ exec (.createQueue ver v w) s = .next (s.reply 0xC005 5 []) ∧
    exec (.destroyQueue ver v) s = .next (s.reply 0xC006 5 []) ∧ exec (.setOwner ver v w x y) s = .next (s.reply 0xC007 5 [])) ∧
  (∀ (s : State), exec (.getFeatures 1) s = .next (s.reply 0xC000 0 ((List.range 24).map s.feature))) ∧
  (∀ (s : State) (c : Nat), c < 1280 → (s.feature (4 + c / 64)).toNat.testBit (c % 64) = s.present c) ∧
  (∀ (s : State) (im : List Byte),
    let both := s.front.imageGood = true ∧ s.front.tableGood = true
    (both → exec (.loadFirmware 1 im) s = .next (s.reply 0xC001 3 []) ∧ exec (.loadConfig 1 im) s = .next (s.reply 0xC002 3 [])) ∧
    (¬ both → Config.signatureValid im = false → exec (.loadFirmware 1 im) s = .next (s.reply 0xC001 1 [0])) ∧
    (¬ both → Config.signatureValid im = true →
      let g : Front := { s.front with imageGood := true, flashImage := some im, minor := Config.imageMinor im }
      exec (.loadFirmware 1 im) s = .next ((s.modFront fun _ => if s.front.tableGood then
        { g with tableGood := decide (g.minorMin ≤ (Config.imageMinor im).toNat) } else g.verifyTable).reply 0xC001 0 [])) ∧
    (¬ both →
      (∀ off, tableBad im s.front.minor.toNat = some off → exec (.loadConfig 1 im) s = .next (s.reply 0xC002 1 [w64 off])) ∧
      (tableBad im s.front.minor.toNat = none → ∃ u, exec (.loadConfig 1 im) s = .next ((s.modFront fun _ => u).reply 0xC002 0 []) ∧
        u.tableGood = true ∧ u.columns = tableColumns im ∧ u.roles = (im.drop 0x018).take 64 ∧ u.matrices = (List.range 4).map (tableMatrix im) ∧
        u.flashTable = some im ∧ u.imageGood = s.front.imageGood))) ∧
  (∀ (f : Front) (t : List Byte), f.flashTable = some t → (tableBad t f.minor.toNat ≠ none → f.verifyTable.tableGood = false) ∧
    (f.imageGood = false → f.verifyTable.tableGood = false) ∧
    (f.imageGood = true → tableBad t f.minor.toNat = none → f.verifyTable.tableGood = true ∧ f.verifyTable.columns = tableColumns t)) ∧
  (∀ (im : List Byte) (minor : Nat), tableBad im minor = none → imageField im 0 4 = 0x57435446 ∧ imageField im 4 4 = 1 ∧
    imageField im 8 4 % 8 = 0 ∧ imageField im 8 4 ≤ 65536 ∧ imageField im 12 4 ≤ minor ∧ tableColumns im ≠ [] ∧
    (∀ c < 4, bijective (tableMatrix im c) c = true) ∧ Config.signatureValid im = true) ∧
  (∀ (s : State) (desc : List Word), desc.length = 32 → s.front.imageGood = true → s.front.tableGood = true →
    let t := Tenant.ofDesc desc
    (∀ off, s.tenantBad t = some off → exec (.createTenant 1 desc) s = .next (s.reply 0xC003 1 [w64 off])) ∧
    (∀ n, s.tenantBad t = none → 1 ≤ n → n ≤ 255 → s.tenant? n = none → (∀ m, 1 ≤ m → m < n → s.tenant? m ≠ none) →
      exec (.createTenant 1 desc) s = .next (((if s.front.booted = false then s.enterService else s).setTenant n t).reply 0xC003 0 [w64 n])) ∧
    (s.tenantBad t = none → (∀ n, 1 ≤ n → n ≤ 255 → s.tenant? n ≠ none) → exec (.createTenant 1 desc) s = .next (s.reply 0xC003 2 []))) ∧
  (∀ (s : State) (desc : List Word), s.front.imageGood = false ∨ s.front.tableGood = false →
    exec (.createTenant 1 desc) s = .next (s.reply 0xC003 3 [])) ∧
  (∀ (s : State) (t : Tenant), (∀ e ∈ s.tenants, e.1 = 0) → (s.tenantBad t = none ↔ t.root < 0x00C000000000 ∧ t.weight ≠ 0 ∧ t.noonLimit ≤ 252 ∧
    t.waitQuota ≤ 4096 ∧ t.folioQuota ≤ 98304 ∧ t.gangQuota ≤ 4096 ∧ t.spadHi ≤ 0x100000 ∧ t.streamBase + t.streamCount ≤ 64 ∧
    t.overflowBase % 65536 = 0 ∧ t.faultBase % 32 = 0 ∧ 4 ≤ t.faultLog ∧ t.faultLog ≤ 16 ∧ t.faultVector < t.vectors ∧ t.vectors ≤ 8 ∧
    (∀ c < 1280, t.hasCore c = true → s.curatorCore c = false) ∧ (t.keyCount ≠ 0 → t.keyBase ≠ 0 ∧ t.keyBase + t.keyCount ≤ 4096))) ∧
  (∀ (s : State) (v : Word), let n := v.toNat
    (n = 0 ∨ s.tenant? n = none → exec (.destroyTenant 1 v) s = .next (s.reply 0xC004 1 [0])) ∧
    (n ≠ 0 → s.tenant? n ≠ none →
      let cores := partitionOf (((s.tenant n).desc.drop 8).take 20)
      let x : Curfew :=
        { id := s.nextId, t := s.now, cores := cores, out := 0, inn := 0, policy := 2, stby := false, statusPa := none, phase := .armed,
          withdrawn := [], bad := false }
      ((∃ y ∈ s.curfews, ∃ k ∈ y.cores, k ∈ cores) → exec (.destroyTenant 1 v) s = .next (s.reply 0xC004 4 [])) ∧
      ((∀ y ∈ s.curfews, ∀ k ∈ y.cores, k ∉ cores) → ∀ u : State, u = ({ s with nextId := s.nextId + 1, curfews := s.curfews ++ [x] } : State).stopPartition x →
        exec (.destroyTenant 1 v) s = .next ((((u.emptyPartition cores ((u.caught x).map (·.uid))).dropTenant n).endSwitch x 0).reply 0xC004 0 [])))) ∧
  (∀ (s : State) (n : Nat), (s.dropTenant n).tenant? n = none ∧ (∀ e ∈ (s.dropTenant n).queues, e.2.tenant ≠ n) ∧
    ∀ t ∈ (s.dropTenant n).threads, t.tenant ≠ n) ∧
  (∀ (s : State) (v w : Word), let n := v.toNat
    (n = 0 ∨ s.tenant? n = none → exec (.createQueue 1 v w) s = .next (s.reply 0xC005 1 [0])) ∧
    (n ≠ 0 → s.tenant? n ≠ none →
      let z := s.checkWords (requestViewer n) w.toNat 16
      (z.queueWords n w.toNat = none → exec (.createQueue 1 v w) s = .next (z.reply 0xC005 1 [8])) ∧
      (∀ ws, z.queueWords n w.toNat = some ws →
        (∀ off, queueBad (z.tenant n) (ws.map (·.2)) = some off → exec (.createQueue 1 v w) s = .next (z.reply 0xC005 1 [w64 off])) ∧
        (∀ q, queueBad (z.tenant n) (ws.map (·.2)) = none → q < 4096 → z.queue? q = none → (∀ m < q, z.queue? m ≠ none) →
          let x : Queue :=
            { tenant := n, descVa := w.toNat, words := ws.map (·.2), wake := 0, prog := Vector.replicate 4 0, cons := Vector.replicate 4 Consumer.start,
              out := false, due := false, late := false }
          exec (.createQueue 1 v w) s = .next ((((((ws.drop 2).take 5).map (·.1)).foldl (fun s pa => s.storePlain n pa 0) z).setQueue q x).switchQueues.reply
            0xC005 0 [w64 q]))))) ∧
  (∀ (s : State) (v : Word), (s.queue? v.toNat = none → exec (.destroyQueue 1 v) s = .next (s.reply 0xC006 1 [0])) ∧
    (s.queue? v.toNat ≠ none → ∃ u : State, exec (.destroyQueue 1 v) s = .next (u.reply 0xC006 0 []) ∧ u.queue? v.toNat = none ∧
      (∀ m, m ≠ v.toNat → u.queue? m = s.queue? m) ∧ u.mem = s.mem ∧ u.threads = s.threads)) ∧
  (∀ (s : State) (v va count owner : Word), let n := v.toNat
    (n = 0 ∨ s.tenant? n = none → exec (.setOwner 1 v va count owner) s = .next (s.reply 0xC007 1 [0])) ∧
    (n ≠ 0 → s.tenant? n ≠ none → 1 < owner.toNat → exec (.setOwner 1 v va count owner) s = .next (s.reply 0xC007 1 [24])) ∧
    (n ≠ 0 → s.tenant? n ≠ none → owner.toNat ≤ 1 →
      (s.namedPages n count.toNat va.toNat = none → exec (.setOwner 1 v va count owner) s = .next (s.reply 0xC007 1 [8])) ∧
      (∀ rs, s.namedPages n count.toNat va.toNat = some rs →
        let all := closePages s.allLeaves (s.allLeaves.length + 1) rs.eraseDups
        (s.pagesBusy all = true → exec (.setOwner 1 v va count owner) s = .next (s.reply 0xC007 4 [])) ∧
        (s.pagesBusy all = false → s.mayMigrate s.allLeaves all = false → exec (.setOwner 1 v va count owner) s = .next s) ∧
        (s.pagesBusy all = false → s.mayMigrate s.allLeaves all = true → exec (.setOwner 1 v va count owner) s =
          .next ((s.migrate s.allLeaves all (owner == 1)).reply 0xC007 0 []))))) ∧
  (∀ (s : State) (q i : Nat) (v : Word),
    (s.queue? q = none → exec (.wakeWrite q v) s = .next s ∧ exec (.progWrite q i v) s = .next s ∧ exec (.statusWrite q v) s = .next s) ∧
    (∀ x, s.queue? q = some x →
      (x.out = false → ∃ (u : State) (y : Queue), exec (.wakeWrite q v) s = .next u ∧ u.queue? q = some y ∧ y.wake.toNat = Nat.max x.wake.toNat v.toNat ∧
        y.prog = x.prog ∧ u.mem = s.mem ∧ u.threads = s.threads) ∧
      (x.hnd = true → i = x.last → ∃ (u : State) (y : Queue), exec (.progWrite q i v) s = .next u ∧ u.queue? q = some y ∧
        (y.progress i).toNat = Nat.max (x.progress i).toNat v.toNat ∧ y.wake = x.wake) ∧
      (x.hnd = false ∨ i ≠ x.last → exec (.progWrite q i v) s = .next s) ∧
      (∃ (u : State) (y : Queue), exec (.statusWrite q v) s = .next u ∧ u.queue? q = some y ∧ y.wake = x.wake ∧ ∀ j < 4,
        ((x.consumer j).wait = .stopped ∧ v.toNat.testBit j = true →
          (y.consumer j).wait = .running ∧ (y.consumer j).cur = (x.consumer j).cur + (if v.toNat.testBit 8 then 1 else 0)) ∧
        (¬ ((x.consumer j).wait = .stopped ∧ v.toNat.testBit j = true) → y.consumer j = x.consumer j)))) ∧
  (∀ (s : State) (pa : Nat) (v : Word), pa % 8 = 0 → pa < 0x00C000000000 →
    (s.hostOwned pa = false →
      exec (.hostMemRead pa) s = .next (s.modFront fun f => { f with readData := none, poisonReads := f.poisonReads + 1 }) ∧
      exec (.hostMemWrite pa v) s = .next (s.modFront fun f => { f with droppedWrites := f.droppedWrites + 1 })) ∧
    (s.hostOwned pa = true → s.outerMayGo pa false = true → s.eccOf pa = .ok → exec (.hostMemRead pa) s =
      .next ((s.activate pa).modFront fun f => { f with readData := if s.poisoned pa then none else some (s.word pa) })) ∧
    (s.hostOwned pa = true → s.mayWrite [pa] = true → exec (.hostMemWrite pa v) s = .next (s.engineWrite pa v (.unit 0) false (none, none))) ∧
    (s.hostOwned pa = true → s.mayWrite [pa] = false → exec (.hostMemWrite pa v) s = .next (s.waitOutside (.hostWrite pa v))) ∧
    (s.hostOwned pa = true → s.outerMayGo pa false = false → exec (.hostMemRead pa) s = .next (s.waitOutside (.hostRead pa)))) ∧
  (∀ (s : State) (pa : Nat), exec (.hostSnoop pa) s = .next (s.modFront fun f => { f with snoops := f.snoops + 1 })) ∧
  (∀ (s : State) (port off : Nat) (w : Bool) (v : Word),
    (off % 8 ≠ 0 ∨ (∀ e ∈ s.front.ingress, e.port = port → off < e.off ∨ e.off + e.len < off + 8) →
      exec (.peerRequest port off w v) s = .next (s.modFront fun f => { f with peerData := none, peerDrops := f.peerDrops + 1 })) ∧
    (∀ e, off % 8 = 0 → s.front.ingressOf port off 8 = some e →
      let pa := e.base + (off - e.off)
      (s.firewalled pa e.tenant ≠ none → ∃ u : State, exec (.peerRequest port off w v) s = .next u ∧ u.mem = s.mem ∧ u.front.peerData = none ∧
        u.front.peerDrops = s.front.peerDrops + 1) ∧
      (s.peerBarred pa e.tenant = false → pa % 8 = 0 →
        (s.outerMayGo pa w = false → exec (.peerRequest port off w v) s = .next (s.waitOutside (.peer port off 3 w v))) ∧
        (s.outerMayGo pa w = true →
          let u := (s.checkEcc pa).activate pa
          (w = true → exec (.peerRequest port off w v) s = .next (u.peerWrite pa 8 e.tenant v)) ∧
          (w = false → u.poisoned pa = false → exec (.peerRequest port off w v) s =
            .next (u.modFront fun f => { f with peerData := u.engineRead pa })) ∧
          (w = false → u.poisoned pa = true → exec (.peerRequest port off w v) s = .next (u.refusePeer none)))))) ∧
  (∀ (s : State) (n : Nat),
    (∀ o, s.outward.find? (fun o => o.id == n) = some o → s.outwardMayGo o = false → exec (.coherencePointReached n) s = .next s) ∧
    (∀ o, s.outward.find? (fun o => o.id == n) = some o → s.outwardMayGo o = true →
      exec (.coherencePointReached n) s = .next { s with outward := s.outward.filter fun o => !(o.id == n) })) ∧
  (∀ (s : State) (n off : Nat) (v : Word), (n < 24 → (s.readBar0 (0x180000 + 8 * n) 8).front.hostData = some (s.feature n) ∧
      s.writeBar0 (0x180000 + 8 * n) 8 v = s) ∧
    (off % 8 ≠ 0 → (s.readBar0 off 8).front.hostData = none ∧ s.writeBar0 off 8 v = s) ∧
    (off % 8 = 0 → off < 0x40000 → (s.readBar2 off).front.hostData = some (s.wakeRead (off / 64) (off % 64))) ∧
    (n < 2048 → s.front.masked n = true → v.toNat.testBit 0 = false →
      (s.writeBar0 (0x1C0000 + 16 * n + 12) 4 v).front.masked n = false ∧ n ∉ (s.writeBar0 (0x1C0000 + 16 * n + 12) 4 v).front.msixPending) ∧
    (fieldOf (s.front.payloadWord 0) 0 16 = 0xC000 → s.serveMailbox = exec (.getFeatures (fieldOf (s.front.payloadWord 0) 16 16)) s))

/-- A margin below its threshold sets BELOW, starts a retraining and tells the curator; its end maps a spare lane, or halves the link. The
writes of repair entries, margin registers and PGIDLE keep the fields that are not reserved. A scrub corrects and poisons what it finds,
else changes nothing. The power-fail warning arms curfews over every tenant core, the checkpoint then goes to the host, and its restoring
switches the areas in. A march test whose wait ends, or that finds more rows than entries, fails or retires its core; a spare takes the
number over, else the core is absent. After a thermal trip nothing is chosen for issue; suppression takes dusk first and never noon. A
power-good reset leaves every byte of device memory zero, present and unwatched, no thread, no tenant, and every core in proving and full
mode with its repair table. (R298, R302, R303, R304, R305, R306, R307, R308, R309, R475, R476) -/
def Obligations.LinksScrubbingPowerAndReset : Prop :=
  (∀ (s : State) (link lane h v : Nat), link < 256 → lane < 512 → h < 256 → v < 256 →
    let l := s.lane link lane
    let m : Lane := { l with reg := BitVec.ofNat 33 (h + v * 2 ^ 8 + l.reg.toNat / 2 ^ 16 * 2 ^ 16) }
    let below := h < bits l.reg.toNat 16 8 ∨ v < bits l.reg.toNat 24 8
    (¬ below ∨ l.reg.toNat.testBit 32 = true → exec (.laneMarginBelow link lane h v) s = .next (s.setLane link lane m)) ∧
    (below → l.reg.toNat.testBit 32 = false → exec (.laneMarginBelow link lane h v) s =
      .next ((s.setLane link lane { m with reg := m.reg ||| 0x100000000, retraining := true }).modFront fun f => { f with curatorIrqs := f.curatorIrqs + 1 }))) ∧
  (∀ (s : State) (link lane : Nat), let l := s.lane link lane
    (l.retraining = false → exec (.laneRetrainingEnd link lane) s = .next s) ∧
    (l.retraining = true → l.weak = false → exec (.laneRetrainingEnd link lane) s = .next (s.setLane link lane { l with retraining := false })) ∧
    (l.retraining = true → l.weak = true → s.sparesUsed link lane < 4 →
      exec (.laneRetrainingEnd link lane) s = .next (s.setLane link lane { l with retraining := false, spare := true })) ∧
    (l.retraining = true → l.weak = true → 4 ≤ s.sparesUsed link lane → ∃ u, exec (.laneRetrainingEnd link lane) s = .next u ∧
      link ∈ u.front.halfWidth ∧ u.front.linkEvents = s.front.linkEvents + 1 ∧ (u.lane link lane).retraining = false)) ∧
  (∀ (s : State) (k entry : Nat) (v : Word), k < 1280 → ∃ u, exec (.repairTableWrite k entry v) s = .next u ∧
    (∀ n < 16, ((u.core k).repair[n]?).getD 0 = if n = entry then v &&& 0x9F00FFFF else ((s.core k).repair[n]?).getD 0) ∧
    ∀ j, j ≠ k → u.core j = s.core j) ∧
  (∀ (s : State) (link lane : Nat) (v : Word), link < 256 → lane < 512 → ∃ u, exec (.eyeMarginWrite link lane v) s = .next u ∧
    (u.lane link lane).reg.toNat % 2 ^ 32 = v.toNat % 2 ^ 32 ∧
    (u.lane link lane).reg.toNat.testBit 32 = ((s.lane link lane).reg.toNat.testBit 32 && !v.toNat.testBit 32)) ∧
  (∀ (s : State) (bank : Nat) (v : Word), bank < 16384 → ∃ u, exec (.pgidleWrite bank v) s = .next u ∧ (u.pgidle bank).toNat = v.toNat % 4096 ∧
    ∀ n, n ≠ bank → u.pgidle n = s.pgidle n) ∧
  (∀ (s : State) (pa : Nat), (s.eccOf (wordAddr pa) = .ok ∨ s.rowRunning pa = true → exec (.backgroundScrub pa) s = .next s) ∧
    (s.rowRunning pa = false → (regionOf pa = .dram ∨ ∃ k off, regionOf pa = .spad k off) →
      exec (.backgroundScrub pa) s = .next (s.checkEcc (wordAddr pa)))) ∧
  (∀ (s : State) (pa : Nat), (s.checkEcc pa).mem = s.mem ∨ s.eccOf pa = .double ∨ ∃ k, ¬ (s.core k).Unwatched) ∧
  (∀ (s : State), (s.front.drain ≠ 0 → exec .powerFailWarning s = .next s) ∧
    (s.front.drain = 0 → ∃ u xs, exec .powerFailWarning s = .next u ∧ u.curfews = s.curfews ++ xs ∧
      xs.map (fun x => (x.out, x.cores)) = u.front.areas ∧ u.front.areas.map (·.2) = s.tenantParts ∧
      (∀ x ∈ xs, x.t = s.now ∧ x.policy = 0 ∧ x.stby = true ∧ x.inn = 0 ∧ x.phase = .armed) ∧ u.front.drain = 1 ∧ u.mem = s.mem ∧
      u.threads = s.threads) ∧
    (∀ e ∈ s.tenants, e.1 ≠ 0 → ∀ c < 1280, e.2.hasCore c = true → ∃ g ∈ s.tenantParts, c ∈ g)) ∧
  (∀ (s : State), (s.mayCheckpoint = false → s.checkpoint = s) ∧
    (s.mayCheckpoint = true →
      let v := s.checkRange 0 0x00C000000000
      ∃ x, s.checkpoint.front.checkpoint = some x ∧ (∀ e, e ∈ x.data ↔ e ∈ v.mem ∧ e.1 < 0x00C000000000) ∧
      (∀ e, e ∈ x.tags ↔ ∃ y ∈ v.tags, y.1 < 0x00C000000000 ∧ e = (y.1, { y.2 with ecc := .ok })) ∧ x.areas = s.front.areas ∧
      s.checkpoint.front.drain = 4 ∧ s.checkpoint.mem = v.mem) ∧
    (∀ x, s.front.checkpoint = some x → s.restoreCheckpoint.front.drain = 0 ∧ ∃ xs, s.restoreCheckpoint.curfews = s.curfews ++ xs ∧ xs.map (fun y => (y.inn, y.cores)) = x.areas ∧
      ∀ y ∈ xs, y.out = 0 ∧ y.phase = .armed)) ∧
  (∀ (f : Front) (c : Nat), let g := f.retire c
    f.physicalOf c ∈ g.retired ∧ ((g.physicalOf c ∈ sparesOf c ∧ g.absent = f.absent) ∨ g.absent = c :: f.absent)) ∧
  (∀ (s : State) (c : Nat) (m : March), s.front.marches.find? (fun m => m.core == c) = some m → s.eccOf m.pa = .ok →
    let q := s.modFront fun f => { f with marches := f.marches.filter fun x => !(x.core == c) }
    (s.marchOver m = false → s.endMarch c = s) ∧
    (s.marchOver m = true → (s.tag m.pa).p = false → c ∈ (s.endMarch c).front.failed) ∧
    (s.marchOver m = true → (s.tag m.pa).p = true → s.poisoned m.pa = false →
      s.endMarch c = if fieldOf (s.word m.pa) 16 5 - m.entries < fieldOf (s.word m.pa) 0 16 then q.beginRetire c else q)) ∧
  (∀ (s : State) (die : Nat), die < 12 → ∃ u, exec (.thermalTrip die) s = .next u ∧ u = s.modFront (fun f => { f with tripped := true }) ∧
    ∀ k, u.choose k = none) ∧
  (∀ (s : State), exec (.pwrlimIssueSuppression false true) s = .next s ∧ ∀ dusk day, (day = true → dusk = true) →
    exec (.pwrlimIssueSuppression dusk day) s = .next (s.modFront fun f => { f with suppressDusk := dusk, suppressDay := day })) ∧
  (∀ (s : State) (t : Thread), s.eligible t = true →
    (s.classOf t = .dusk → s.front.suppressDusk = false) ∧ (s.classOf t = .day → s.front.suppressDay = false) ∧ s.front.tripped = false) ∧
  (∀ (s : State), ∃ u, exec .powerGoodReset s = .next u ∧ (∀ a, a < 0x014000000000 ∨ 0x018000000000 ≤ a → u.byte a = 0) ∧
    (∀ a, (u.tag a).p = true ∧ (u.tag a).w = false ∧ (u.tag a).poison = false) ∧ u.threads = [] ∧ u.accesses = [] ∧ u.queues = [] ∧ u.curfews = [] ∧
    (∀ im, s.front.flashImage = some im → u.front.imageGood = Config.signatureValid im) ∧ ((∀ e ∈ s.cores, repairsIgnored e.2.repair.toList = 0) → u.front.absent = s.front.absent) ∧
    u.folios = [] ∧ u.now = 0 ∧ u.front.pwrlim = 3600 ∧ u.front.tripped = false ∧
    (∀ k, (u.core k).prove = true ∧ (u.core k).deep = false ∧ (u.core k).deque = [] ∧ (u.core k).fwEnable = false) ∧
    ∀ n, 1 ≤ n → u.tenant? n = none)
end

