-- ==== Sys2Proof/Laws/State.lean ====
section
/-! SUPPORT. The small lemmas of the named updates of the state: what each leaves as it was, and what reading back gives. -/

namespace Sys2Proof.Machine

/-! ### Fields that an update leaves alone -/

section
variable (s : State) (t : Thread)

@[simp] theorem State.setThread_now : (s.setThread t).now = s.now := rfl
@[simp] theorem State.setThread_mem : (s.setThread t).mem = s.mem := rfl
@[simp] theorem State.setThread_tags : (s.setThread t).tags = s.tags := rfl
@[simp] theorem State.setThread_cores : (s.setThread t).cores = s.cores := rfl
@[simp] theorem State.setThread_rows : (s.setThread t).rows = s.rows := rfl
@[simp] theorem State.setThread_tenants : (s.setThread t).tenants = s.tenants := rfl
@[simp] theorem State.setThread_queues : (s.setThread t).queues = s.queues := rfl
@[simp] theorem State.setThread_folios : (s.setThread t).folios = s.folios := rfl
@[simp] theorem State.setThread_folioChecks : (s.setThread t).folioChecks = s.folioChecks := rfl
@[simp] theorem State.setThread_watch : (s.setThread t).watch = s.watch := rfl
@[simp] theorem State.setThread_accesses : (s.setThread t).accesses = s.accesses := rfl
@[simp] theorem State.setThread_results : (s.setThread t).results = s.results := rfl
@[simp] theorem State.setThread_records : (s.setThread t).records = s.records := rfl
@[simp] theorem State.setThread_curatorRecords : (s.setThread t).curatorRecords = s.curatorRecords := rfl
@[simp] theorem State.setThread_devMsgs : (s.setThread t).devMsgs = s.devMsgs := rfl
@[simp] theorem State.setThread_channels : (s.setThread t).channels = s.channels := rfl
@[simp] theorem State.setThread_gathers : (s.setThread t).gathers = s.gathers := rfl
@[simp] theorem State.setThread_hotRows : (s.setThread t).hotRows = s.hotRows := rfl
@[simp] theorem State.setThread_sends : (s.setThread t).sends = s.sends := rfl
@[simp] theorem State.setThread_roundOuts : (s.setThread t).roundOuts = s.roundOuts := rfl
@[simp] theorem State.setThread_rowOps : (s.setThread t).rowOps = s.rowOps := rfl
@[simp] theorem State.setThread_outward : (s.setThread t).outward = s.outward := rfl
@[simp] theorem State.setThread_peerStores : (s.setThread t).peerStores = s.peerStores := rfl
@[simp] theorem State.setThread_curfews : (s.setThread t).curfews = s.curfews := rfl
@[simp] theorem State.setThread_images : (s.setThread t).images = s.images := rfl
@[simp] theorem State.setThread_front : (s.setThread t).front = s.front := rfl
@[simp] theorem State.setThread_cur : (s.setThread t).cur = s.cur := rfl
@[simp] theorem State.setThread_nextUid : (s.setThread t).nextUid = s.nextUid := rfl
@[simp] theorem State.setThread_nextId : (s.setThread t).nextId = s.nextId := rfl
@[simp] theorem State.setThread_inputs : (s.setThread t).inputs = s.inputs := rfl
@[simp] theorem State.setThread_raised : (s.setThread t).raised = s.raised := rfl
@[simp] theorem State.setThread_unitStores : (s.setThread t).unitStores = s.unitStores := rfl
@[simp] theorem State.setThread_traced : (s.setThread t).traced = s.traced := rfl
@[simp] theorem State.setThread_gangNews : (s.setThread t).gangNews = s.gangNews := rfl
@[simp] theorem State.setThread_pending : (s.setThread t).pending = s.pending := rfl
@[simp] theorem State.setThread_sched : (s.setThread t).sched = s.sched := rfl
@[simp] theorem State.setThread_picks : (s.setThread t).picks = s.picks := rfl
@[simp] theorem State.setThread_freeCtr : (s.setThread t).freeCtr = s.freeCtr := rfl
@[simp] theorem State.setThread_core (n : Nat) : (s.setThread t).core n = s.core n := rfl
@[simp] theorem State.setThread_row (n : Nat) : (s.setThread t).row n = s.row n := rfl
@[simp] theorem State.setThread_tenantQ (n : Nat) : (s.setThread t).tenant? n = s.tenant? n := rfl
@[simp] theorem State.setThread_tenant (n : Nat) : (s.setThread t).tenant n = s.tenant n := rfl
@[simp] theorem State.setThread_queueQ (n : Nat) : (s.setThread t).queue? n = s.queue? n := rfl
@[simp] theorem State.setThread_folioQ (n : Nat) : (s.setThread t).folio? n = s.folio? n := rfl
@[simp] theorem State.setThread_tag (n : Nat) : (s.setThread t).tag n = s.tag n := rfl
@[simp] theorem State.setThread_byte (n : Nat) : (s.setThread t).byte n = s.byte n := rfl
@[simp] theorem State.setThread_word (n : Nat) : (s.setThread t).word n = s.word n := rfl

end

section
variable (s : State) (u : Nat) (f : Thread → Thread)

@[simp] theorem State.modThread_now : (s.modThread u f).now = s.now := rfl
@[simp] theorem State.modThread_mem : (s.modThread u f).mem = s.mem := rfl
@[simp] theorem State.modThread_tags : (s.modThread u f).tags = s.tags := rfl
@[simp] theorem State.modThread_cores : (s.modThread u f).cores = s.cores := rfl
@[simp] theorem State.modThread_rows : (s.modThread u f).rows = s.rows := rfl
@[simp] theorem State.modThread_tenants : (s.modThread u f).tenants = s.tenants := rfl
@[simp] theorem State.modThread_queues : (s.modThread u f).queues = s.queues := rfl
@[simp] theorem State.modThread_folios : (s.modThread u f).folios = s.folios := rfl
@[simp] theorem State.modThread_folioChecks : (s.modThread u f).folioChecks = s.folioChecks := rfl
@[simp] theorem State.modThread_watch : (s.modThread u f).watch = s.watch := rfl
@[simp] theorem State.modThread_accesses : (s.modThread u f).accesses = s.accesses := rfl
@[simp] theorem State.modThread_results : (s.modThread u f).results = s.results := rfl
@[simp] theorem State.modThread_records : (s.modThread u f).records = s.records := rfl
@[simp] theorem State.modThread_curatorRecords : (s.modThread u f).curatorRecords = s.curatorRecords := rfl
@[simp] theorem State.modThread_devMsgs : (s.modThread u f).devMsgs = s.devMsgs := rfl
@[simp] theorem State.modThread_channels : (s.modThread u f).channels = s.channels := rfl
@[simp] theorem State.modThread_gathers : (s.modThread u f).gathers = s.gathers := rfl
@[simp] theorem State.modThread_hotRows : (s.modThread u f).hotRows = s.hotRows := rfl
@[simp] theorem State.modThread_sends : (s.modThread u f).sends = s.sends := rfl
@[simp] theorem State.modThread_roundOuts : (s.modThread u f).roundOuts = s.roundOuts := rfl
@[simp] theorem State.modThread_rowOps : (s.modThread u f).rowOps = s.rowOps := rfl
@[simp] theorem State.modThread_outward : (s.modThread u f).outward = s.outward := rfl
@[simp] theorem State.modThread_peerStores : (s.modThread u f).peerStores = s.peerStores := rfl
@[simp] theorem State.modThread_curfews : (s.modThread u f).curfews = s.curfews := rfl
@[simp] theorem State.modThread_images : (s.modThread u f).images = s.images := rfl
@[simp] theorem State.modThread_front : (s.modThread u f).front = s.front := rfl
@[simp] theorem State.modThread_cur : (s.modThread u f).cur = s.cur := rfl
@[simp] theorem State.modThread_nextUid : (s.modThread u f).nextUid = s.nextUid := rfl
@[simp] theorem State.modThread_nextId : (s.modThread u f).nextId = s.nextId := rfl
@[simp] theorem State.modThread_inputs : (s.modThread u f).inputs = s.inputs := rfl
@[simp] theorem State.modThread_raised : (s.modThread u f).raised = s.raised := rfl
@[simp] theorem State.modThread_unitStores : (s.modThread u f).unitStores = s.unitStores := rfl
@[simp] theorem State.modThread_traced : (s.modThread u f).traced = s.traced := rfl
@[simp] theorem State.modThread_gangNews : (s.modThread u f).gangNews = s.gangNews := rfl
@[simp] theorem State.modThread_pending : (s.modThread u f).pending = s.pending := rfl
@[simp] theorem State.modThread_sched : (s.modThread u f).sched = s.sched := rfl
@[simp] theorem State.modThread_picks : (s.modThread u f).picks = s.picks := rfl
@[simp] theorem State.modThread_freeCtr : (s.modThread u f).freeCtr = s.freeCtr := rfl
@[simp] theorem State.modThread_core (n : Nat) : (s.modThread u f).core n = s.core n := rfl
@[simp] theorem State.modThread_row (n : Nat) : (s.modThread u f).row n = s.row n := rfl
@[simp] theorem State.modThread_tenantQ (n : Nat) : (s.modThread u f).tenant? n = s.tenant? n := rfl
@[simp] theorem State.modThread_tenant (n : Nat) : (s.modThread u f).tenant n = s.tenant n := rfl
@[simp] theorem State.modThread_queueQ (n : Nat) : (s.modThread u f).queue? n = s.queue? n := rfl
@[simp] theorem State.modThread_folioQ (n : Nat) : (s.modThread u f).folio? n = s.folio? n := rfl
@[simp] theorem State.modThread_tag (n : Nat) : (s.modThread u f).tag n = s.tag n := rfl
@[simp] theorem State.modThread_byte (n : Nat) : (s.modThread u f).byte n = s.byte n := rfl
@[simp] theorem State.modThread_word (n : Nat) : (s.modThread u f).word n = s.word n := rfl

end

section
variable (s : State) (u : Nat)

@[simp] theorem State.dropThread_now : (s.dropThread u).now = s.now := rfl
@[simp] theorem State.dropThread_mem : (s.dropThread u).mem = s.mem := rfl
@[simp] theorem State.dropThread_tags : (s.dropThread u).tags = s.tags := rfl
@[simp] theorem State.dropThread_cores : (s.dropThread u).cores = s.cores := rfl
@[simp] theorem State.dropThread_rows : (s.dropThread u).rows = s.rows := rfl
@[simp] theorem State.dropThread_tenants : (s.dropThread u).tenants = s.tenants := rfl
@[simp] theorem State.dropThread_queues : (s.dropThread u).queues = s.queues := rfl
@[simp] theorem State.dropThread_folios : (s.dropThread u).folios = s.folios := rfl
@[simp] theorem State.dropThread_folioChecks : (s.dropThread u).folioChecks = s.folioChecks := rfl
@[simp] theorem State.dropThread_watch : (s.dropThread u).watch = s.watch := rfl
@[simp] theorem State.dropThread_accesses : (s.dropThread u).accesses = s.accesses := rfl
@[simp] theorem State.dropThread_results : (s.dropThread u).results = s.results := rfl
@[simp] theorem State.dropThread_records : (s.dropThread u).records = s.records := rfl
@[simp] theorem State.dropThread_curatorRecords : (s.dropThread u).curatorRecords = s.curatorRecords := rfl
@[simp] theorem State.dropThread_devMsgs : (s.dropThread u).devMsgs = s.devMsgs := rfl
@[simp] theorem State.dropThread_channels : (s.dropThread u).channels = s.channels := rfl
@[simp] theorem State.dropThread_gathers : (s.dropThread u).gathers = s.gathers := rfl
@[simp] theorem State.dropThread_hotRows : (s.dropThread u).hotRows = s.hotRows := rfl
@[simp] theorem State.dropThread_sends : (s.dropThread u).sends = s.sends := rfl
@[simp] theorem State.dropThread_roundOuts : (s.dropThread u).roundOuts = s.roundOuts := rfl
@[simp] theorem State.dropThread_rowOps : (s.dropThread u).rowOps = s.rowOps := rfl
@[simp] theorem State.dropThread_outward : (s.dropThread u).outward = s.outward := rfl
@[simp] theorem State.dropThread_peerStores : (s.dropThread u).peerStores = s.peerStores := rfl
@[simp] theorem State.dropThread_curfews : (s.dropThread u).curfews = s.curfews := rfl
@[simp] theorem State.dropThread_images : (s.dropThread u).images = s.images := rfl
@[simp] theorem State.dropThread_front : (s.dropThread u).front = s.front := rfl
@[simp] theorem State.dropThread_cur : (s.dropThread u).cur = s.cur := rfl
@[simp] theorem State.dropThread_nextUid : (s.dropThread u).nextUid = s.nextUid := rfl
@[simp] theorem State.dropThread_nextId : (s.dropThread u).nextId = s.nextId := rfl
@[simp] theorem State.dropThread_inputs : (s.dropThread u).inputs = s.inputs := rfl
@[simp] theorem State.dropThread_raised : (s.dropThread u).raised = s.raised := rfl
@[simp] theorem State.dropThread_unitStores : (s.dropThread u).unitStores = s.unitStores := rfl
@[simp] theorem State.dropThread_traced : (s.dropThread u).traced = s.traced := rfl
@[simp] theorem State.dropThread_gangNews : (s.dropThread u).gangNews = s.gangNews := rfl
@[simp] theorem State.dropThread_pending : (s.dropThread u).pending = s.pending := rfl
@[simp] theorem State.dropThread_sched : (s.dropThread u).sched = s.sched := rfl
@[simp] theorem State.dropThread_picks : (s.dropThread u).picks = s.picks := rfl
@[simp] theorem State.dropThread_freeCtr : (s.dropThread u).freeCtr = s.freeCtr := rfl
@[simp] theorem State.dropThread_core (n : Nat) : (s.dropThread u).core n = s.core n := rfl
@[simp] theorem State.dropThread_row (n : Nat) : (s.dropThread u).row n = s.row n := rfl
@[simp] theorem State.dropThread_tenantQ (n : Nat) : (s.dropThread u).tenant? n = s.tenant? n := rfl
@[simp] theorem State.dropThread_tenant (n : Nat) : (s.dropThread u).tenant n = s.tenant n := rfl
@[simp] theorem State.dropThread_queueQ (n : Nat) : (s.dropThread u).queue? n = s.queue? n := rfl
@[simp] theorem State.dropThread_folioQ (n : Nat) : (s.dropThread u).folio? n = s.folio? n := rfl
@[simp] theorem State.dropThread_tag (n : Nat) : (s.dropThread u).tag n = s.tag n := rfl
@[simp] theorem State.dropThread_byte (n : Nat) : (s.dropThread u).byte n = s.byte n := rfl
@[simp] theorem State.dropThread_word (n : Nat) : (s.dropThread u).word n = s.word n := rfl

end

section
variable (s : State) (c : Nat) (v : Core)

@[simp] theorem State.setCore_now : (s.setCore c v).now = s.now := rfl
@[simp] theorem State.setCore_mem : (s.setCore c v).mem = s.mem := rfl
@[simp] theorem State.setCore_tags : (s.setCore c v).tags = s.tags := rfl
@[simp] theorem State.setCore_threads : (s.setCore c v).threads = s.threads := rfl
@[simp] theorem State.setCore_rows : (s.setCore c v).rows = s.rows := rfl
@[simp] theorem State.setCore_tenants : (s.setCore c v).tenants = s.tenants := rfl
@[simp] theorem State.setCore_queues : (s.setCore c v).queues = s.queues := rfl
@[simp] theorem State.setCore_folios : (s.setCore c v).folios = s.folios := rfl
@[simp] theorem State.setCore_folioChecks : (s.setCore c v).folioChecks = s.folioChecks := rfl
@[simp] theorem State.setCore_watch : (s.setCore c v).watch = s.watch := rfl
@[simp] theorem State.setCore_accesses : (s.setCore c v).accesses = s.accesses := rfl
@[simp] theorem State.setCore_results : (s.setCore c v).results = s.results := rfl
@[simp] theorem State.setCore_records : (s.setCore c v).records = s.records := rfl
@[simp] theorem State.setCore_curatorRecords : (s.setCore c v).curatorRecords = s.curatorRecords := rfl
@[simp] theorem State.setCore_devMsgs : (s.setCore c v).devMsgs = s.devMsgs := rfl
@[simp] theorem State.setCore_channels : (s.setCore c v).channels = s.channels := rfl
@[simp] theorem State.setCore_gathers : (s.setCore c v).gathers = s.gathers := rfl
@[simp] theorem State.setCore_hotRows : (s.setCore c v).hotRows = s.hotRows := rfl
@[simp] theorem State.setCore_sends : (s.setCore c v).sends = s.sends := rfl
@[simp] theorem State.setCore_roundOuts : (s.setCore c v).roundOuts = s.roundOuts := rfl
@[simp] theorem State.setCore_rowOps : (s.setCore c v).rowOps = s.rowOps := rfl
@[simp] theorem State.setCore_outward : (s.setCore c v).outward = s.outward := rfl
@[simp] theorem State.setCore_peerStores : (s.setCore c v).peerStores = s.peerStores := rfl
@[simp] theorem State.setCore_curfews : (s.setCore c v).curfews = s.curfews := rfl
@[simp] theorem State.setCore_images : (s.setCore c v).images = s.images := rfl
@[simp] theorem State.setCore_front : (s.setCore c v).front = s.front := rfl
@[simp] theorem State.setCore_cur : (s.setCore c v).cur = s.cur := rfl
@[simp] theorem State.setCore_nextUid : (s.setCore c v).nextUid = s.nextUid := rfl
@[simp] theorem State.setCore_nextId : (s.setCore c v).nextId = s.nextId := rfl
@[simp] theorem State.setCore_inputs : (s.setCore c v).inputs = s.inputs := rfl
@[simp] theorem State.setCore_raised : (s.setCore c v).raised = s.raised := rfl
@[simp] theorem State.setCore_unitStores : (s.setCore c v).unitStores = s.unitStores := rfl
@[simp] theorem State.setCore_traced : (s.setCore c v).traced = s.traced := rfl
@[simp] theorem State.setCore_gangNews : (s.setCore c v).gangNews = s.gangNews := rfl
@[simp] theorem State.setCore_pending : (s.setCore c v).pending = s.pending := rfl
@[simp] theorem State.setCore_sched : (s.setCore c v).sched = s.sched := rfl
@[simp] theorem State.setCore_picks : (s.setCore c v).picks = s.picks := rfl
@[simp] theorem State.setCore_freeCtr : (s.setCore c v).freeCtr = s.freeCtr := rfl
@[simp] theorem State.setCore_threadQ (n : Nat) : (s.setCore c v).thread? n = s.thread? n := rfl
@[simp] theorem State.setCore_row (n : Nat) : (s.setCore c v).row n = s.row n := rfl
@[simp] theorem State.setCore_tenantQ (n : Nat) : (s.setCore c v).tenant? n = s.tenant? n := rfl
@[simp] theorem State.setCore_tenant (n : Nat) : (s.setCore c v).tenant n = s.tenant n := rfl
@[simp] theorem State.setCore_queueQ (n : Nat) : (s.setCore c v).queue? n = s.queue? n := rfl
@[simp] theorem State.setCore_folioQ (n : Nat) : (s.setCore c v).folio? n = s.folio? n := rfl
@[simp] theorem State.setCore_tag (n : Nat) : (s.setCore c v).tag n = s.tag n := rfl
@[simp] theorem State.setCore_byte (n : Nat) : (s.setCore c v).byte n = s.byte n := rfl
@[simp] theorem State.setCore_word (n : Nat) : (s.setCore c v).word n = s.word n := rfl

end

section
variable (s : State) (c : Nat) (f : Core → Core)

@[simp] theorem State.modCore_now : (s.modCore c f).now = s.now := rfl
@[simp] theorem State.modCore_mem : (s.modCore c f).mem = s.mem := rfl
@[simp] theorem State.modCore_tags : (s.modCore c f).tags = s.tags := rfl
@[simp] theorem State.modCore_threads : (s.modCore c f).threads = s.threads := rfl
@[simp] theorem State.modCore_rows : (s.modCore c f).rows = s.rows := rfl
@[simp] theorem State.modCore_tenants : (s.modCore c f).tenants = s.tenants := rfl
@[simp] theorem State.modCore_queues : (s.modCore c f).queues = s.queues := rfl
@[simp] theorem State.modCore_folios : (s.modCore c f).folios = s.folios := rfl
@[simp] theorem State.modCore_folioChecks : (s.modCore c f).folioChecks = s.folioChecks := rfl
@[simp] theorem State.modCore_watch : (s.modCore c f).watch = s.watch := rfl
@[simp] theorem State.modCore_accesses : (s.modCore c f).accesses = s.accesses := rfl
@[simp] theorem State.modCore_results : (s.modCore c f).results = s.results := rfl
@[simp] theorem State.modCore_records : (s.modCore c f).records = s.records := rfl
@[simp] theorem State.modCore_curatorRecords : (s.modCore c f).curatorRecords = s.curatorRecords := rfl
@[simp] theorem State.modCore_devMsgs : (s.modCore c f).devMsgs = s.devMsgs := rfl
@[simp] theorem State.modCore_channels : (s.modCore c f).channels = s.channels := rfl
@[simp] theorem State.modCore_gathers : (s.modCore c f).gathers = s.gathers := rfl
@[simp] theorem State.modCore_hotRows : (s.modCore c f).hotRows = s.hotRows := rfl
@[simp] theorem State.modCore_sends : (s.modCore c f).sends = s.sends := rfl
@[simp] theorem State.modCore_roundOuts : (s.modCore c f).roundOuts = s.roundOuts := rfl
@[simp] theorem State.modCore_rowOps : (s.modCore c f).rowOps = s.rowOps := rfl
@[simp] theorem State.modCore_outward : (s.modCore c f).outward = s.outward := rfl
@[simp] theorem State.modCore_peerStores : (s.modCore c f).peerStores = s.peerStores := rfl
@[simp] theorem State.modCore_curfews : (s.modCore c f).curfews = s.curfews := rfl
@[simp] theorem State.modCore_images : (s.modCore c f).images = s.images := rfl
@[simp] theorem State.modCore_front : (s.modCore c f).front = s.front := rfl
@[simp] theorem State.modCore_cur : (s.modCore c f).cur = s.cur := rfl
@[simp] theorem State.modCore_nextUid : (s.modCore c f).nextUid = s.nextUid := rfl
@[simp] theorem State.modCore_nextId : (s.modCore c f).nextId = s.nextId := rfl
@[simp] theorem State.modCore_inputs : (s.modCore c f).inputs = s.inputs := rfl
@[simp] theorem State.modCore_raised : (s.modCore c f).raised = s.raised := rfl
@[simp] theorem State.modCore_unitStores : (s.modCore c f).unitStores = s.unitStores := rfl
@[simp] theorem State.modCore_traced : (s.modCore c f).traced = s.traced := rfl
@[simp] theorem State.modCore_gangNews : (s.modCore c f).gangNews = s.gangNews := rfl
@[simp] theorem State.modCore_pending : (s.modCore c f).pending = s.pending := rfl
@[simp] theorem State.modCore_sched : (s.modCore c f).sched = s.sched := rfl
@[simp] theorem State.modCore_picks : (s.modCore c f).picks = s.picks := rfl
@[simp] theorem State.modCore_freeCtr : (s.modCore c f).freeCtr = s.freeCtr := rfl
@[simp] theorem State.modCore_threadQ (n : Nat) : (s.modCore c f).thread? n = s.thread? n := rfl
@[simp] theorem State.modCore_row (n : Nat) : (s.modCore c f).row n = s.row n := rfl
@[simp] theorem State.modCore_tenantQ (n : Nat) : (s.modCore c f).tenant? n = s.tenant? n := rfl
@[simp] theorem State.modCore_tenant (n : Nat) : (s.modCore c f).tenant n = s.tenant n := rfl
@[simp] theorem State.modCore_queueQ (n : Nat) : (s.modCore c f).queue? n = s.queue? n := rfl
@[simp] theorem State.modCore_folioQ (n : Nat) : (s.modCore c f).folio? n = s.folio? n := rfl
@[simp] theorem State.modCore_tag (n : Nat) : (s.modCore c f).tag n = s.tag n := rfl
@[simp] theorem State.modCore_byte (n : Nat) : (s.modCore c f).byte n = s.byte n := rfl
@[simp] theorem State.modCore_word (n : Nat) : (s.modCore c f).word n = s.word n := rfl

end

section
variable (s : State) (w : Nat) (v : Row)

@[simp] theorem State.setRow_now : (s.setRow w v).now = s.now := rfl
@[simp] theorem State.setRow_mem : (s.setRow w v).mem = s.mem := rfl
@[simp] theorem State.setRow_tags : (s.setRow w v).tags = s.tags := rfl
@[simp] theorem State.setRow_threads : (s.setRow w v).threads = s.threads := rfl
@[simp] theorem State.setRow_cores : (s.setRow w v).cores = s.cores := rfl
@[simp] theorem State.setRow_tenants : (s.setRow w v).tenants = s.tenants := rfl
@[simp] theorem State.setRow_queues : (s.setRow w v).queues = s.queues := rfl
@[simp] theorem State.setRow_folios : (s.setRow w v).folios = s.folios := rfl
@[simp] theorem State.setRow_folioChecks : (s.setRow w v).folioChecks = s.folioChecks := rfl
@[simp] theorem State.setRow_watch : (s.setRow w v).watch = s.watch := rfl
@[simp] theorem State.setRow_accesses : (s.setRow w v).accesses = s.accesses := rfl
@[simp] theorem State.setRow_results : (s.setRow w v).results = s.results := rfl
@[simp] theorem State.setRow_records : (s.setRow w v).records = s.records := rfl
@[simp] theorem State.setRow_curatorRecords : (s.setRow w v).curatorRecords = s.curatorRecords := rfl
@[simp] theorem State.setRow_devMsgs : (s.setRow w v).devMsgs = s.devMsgs := rfl
@[simp] theorem State.setRow_channels : (s.setRow w v).channels = s.channels := rfl
@[simp] theorem State.setRow_gathers : (s.setRow w v).gathers = s.gathers := rfl
@[simp] theorem State.setRow_hotRows : (s.setRow w v).hotRows = s.hotRows := rfl
@[simp] theorem State.setRow_sends : (s.setRow w v).sends = s.sends := rfl
@[simp] theorem State.setRow_roundOuts : (s.setRow w v).roundOuts = s.roundOuts := rfl
@[simp] theorem State.setRow_rowOps : (s.setRow w v).rowOps = s.rowOps := rfl
@[simp] theorem State.setRow_outward : (s.setRow w v).outward = s.outward := rfl
@[simp] theorem State.setRow_peerStores : (s.setRow w v).peerStores = s.peerStores := rfl
@[simp] theorem State.setRow_curfews : (s.setRow w v).curfews = s.curfews := rfl
@[simp] theorem State.setRow_images : (s.setRow w v).images = s.images := rfl
@[simp] theorem State.setRow_front : (s.setRow w v).front = s.front := rfl
@[simp] theorem State.setRow_cur : (s.setRow w v).cur = s.cur := rfl
@[simp] theorem State.setRow_nextUid : (s.setRow w v).nextUid = s.nextUid := rfl
@[simp] theorem State.setRow_nextId : (s.setRow w v).nextId = s.nextId := rfl
@[simp] theorem State.setRow_inputs : (s.setRow w v).inputs = s.inputs := rfl
@[simp] theorem State.setRow_raised : (s.setRow w v).raised = s.raised := rfl
@[simp] theorem State.setRow_unitStores : (s.setRow w v).unitStores = s.unitStores := rfl
@[simp] theorem State.setRow_traced : (s.setRow w v).traced = s.traced := rfl
@[simp] theorem State.setRow_gangNews : (s.setRow w v).gangNews = s.gangNews := rfl
@[simp] theorem State.setRow_pending : (s.setRow w v).pending = s.pending := rfl
@[simp] theorem State.setRow_sched : (s.setRow w v).sched = s.sched := rfl
@[simp] theorem State.setRow_picks : (s.setRow w v).picks = s.picks := rfl
@[simp] theorem State.setRow_freeCtr : (s.setRow w v).freeCtr = s.freeCtr := rfl
@[simp] theorem State.setRow_threadQ (n : Nat) : (s.setRow w v).thread? n = s.thread? n := rfl
@[simp] theorem State.setRow_core (n : Nat) : (s.setRow w v).core n = s.core n := rfl
@[simp] theorem State.setRow_tenantQ (n : Nat) : (s.setRow w v).tenant? n = s.tenant? n := rfl
@[simp] theorem State.setRow_tenant (n : Nat) : (s.setRow w v).tenant n = s.tenant n := rfl
@[simp] theorem State.setRow_queueQ (n : Nat) : (s.setRow w v).queue? n = s.queue? n := rfl
@[simp] theorem State.setRow_folioQ (n : Nat) : (s.setRow w v).folio? n = s.folio? n := rfl
@[simp] theorem State.setRow_tag (n : Nat) : (s.setRow w v).tag n = s.tag n := rfl
@[simp] theorem State.setRow_byte (n : Nat) : (s.setRow w v).byte n = s.byte n := rfl
@[simp] theorem State.setRow_word (n : Nat) : (s.setRow w v).word n = s.word n := rfl

end

section
variable (s : State) (f : Front → Front)

@[simp] theorem State.modFront_now : (s.modFront f).now = s.now := rfl
@[simp] theorem State.modFront_mem : (s.modFront f).mem = s.mem := rfl
@[simp] theorem State.modFront_tags : (s.modFront f).tags = s.tags := rfl
@[simp] theorem State.modFront_threads : (s.modFront f).threads = s.threads := rfl
@[simp] theorem State.modFront_cores : (s.modFront f).cores = s.cores := rfl
@[simp] theorem State.modFront_rows : (s.modFront f).rows = s.rows := rfl
@[simp] theorem State.modFront_tenants : (s.modFront f).tenants = s.tenants := rfl
@[simp] theorem State.modFront_queues : (s.modFront f).queues = s.queues := rfl
@[simp] theorem State.modFront_folios : (s.modFront f).folios = s.folios := rfl
@[simp] theorem State.modFront_folioChecks : (s.modFront f).folioChecks = s.folioChecks := rfl
@[simp] theorem State.modFront_watch : (s.modFront f).watch = s.watch := rfl
@[simp] theorem State.modFront_accesses : (s.modFront f).accesses = s.accesses := rfl
@[simp] theorem State.modFront_results : (s.modFront f).results = s.results := rfl
@[simp] theorem State.modFront_records : (s.modFront f).records = s.records := rfl
@[simp] theorem State.modFront_curatorRecords : (s.modFront f).curatorRecords = s.curatorRecords := rfl
@[simp] theorem State.modFront_devMsgs : (s.modFront f).devMsgs = s.devMsgs := rfl
@[simp] theorem State.modFront_channels : (s.modFront f).channels = s.channels := rfl
@[simp] theorem State.modFront_gathers : (s.modFront f).gathers = s.gathers := rfl
@[simp] theorem State.modFront_hotRows : (s.modFront f).hotRows = s.hotRows := rfl
@[simp] theorem State.modFront_sends : (s.modFront f).sends = s.sends := rfl
@[simp] theorem State.modFront_roundOuts : (s.modFront f).roundOuts = s.roundOuts := rfl
@[simp] theorem State.modFront_rowOps : (s.modFront f).rowOps = s.rowOps := rfl
@[simp] theorem State.modFront_outward : (s.modFront f).outward = s.outward := rfl
@[simp] theorem State.modFront_peerStores : (s.modFront f).peerStores = s.peerStores := rfl
@[simp] theorem State.modFront_curfews : (s.modFront f).curfews = s.curfews := rfl
@[simp] theorem State.modFront_images : (s.modFront f).images = s.images := rfl
@[simp] theorem State.modFront_cur : (s.modFront f).cur = s.cur := rfl
@[simp] theorem State.modFront_nextUid : (s.modFront f).nextUid = s.nextUid := rfl
@[simp] theorem State.modFront_nextId : (s.modFront f).nextId = s.nextId := rfl
@[simp] theorem State.modFront_inputs : (s.modFront f).inputs = s.inputs := rfl
@[simp] theorem State.modFront_raised : (s.modFront f).raised = s.raised := rfl
@[simp] theorem State.modFront_unitStores : (s.modFront f).unitStores = s.unitStores := rfl
@[simp] theorem State.modFront_traced : (s.modFront f).traced = s.traced := rfl
@[simp] theorem State.modFront_gangNews : (s.modFront f).gangNews = s.gangNews := rfl
@[simp] theorem State.modFront_pending : (s.modFront f).pending = s.pending := rfl
@[simp] theorem State.modFront_sched : (s.modFront f).sched = s.sched := rfl
@[simp] theorem State.modFront_picks : (s.modFront f).picks = s.picks := rfl
@[simp] theorem State.modFront_freeCtr : (s.modFront f).freeCtr = s.freeCtr := rfl
@[simp] theorem State.modFront_threadQ (n : Nat) : (s.modFront f).thread? n = s.thread? n := rfl
@[simp] theorem State.modFront_core (n : Nat) : (s.modFront f).core n = s.core n := rfl
@[simp] theorem State.modFront_row (n : Nat) : (s.modFront f).row n = s.row n := rfl
@[simp] theorem State.modFront_tenantQ (n : Nat) : (s.modFront f).tenant? n = s.tenant? n := rfl
@[simp] theorem State.modFront_tenant (n : Nat) : (s.modFront f).tenant n = s.tenant n := rfl
@[simp] theorem State.modFront_queueQ (n : Nat) : (s.modFront f).queue? n = s.queue? n := rfl
@[simp] theorem State.modFront_folioQ (n : Nat) : (s.modFront f).folio? n = s.folio? n := rfl
@[simp] theorem State.modFront_tag (n : Nat) : (s.modFront f).tag n = s.tag n := rfl
@[simp] theorem State.modFront_byte (n : Nat) : (s.modFront f).byte n = s.byte n := rfl
@[simp] theorem State.modFront_word (n : Nat) : (s.modFront f).word n = s.word n := rfl

end

section
variable (s : State) (i : Nat) (v : Folio)

@[simp] theorem State.setFolio_now : (s.setFolio i v).now = s.now := rfl
@[simp] theorem State.setFolio_mem : (s.setFolio i v).mem = s.mem := rfl
@[simp] theorem State.setFolio_tags : (s.setFolio i v).tags = s.tags := rfl
@[simp] theorem State.setFolio_threads : (s.setFolio i v).threads = s.threads := rfl
@[simp] theorem State.setFolio_cores : (s.setFolio i v).cores = s.cores := rfl
@[simp] theorem State.setFolio_rows : (s.setFolio i v).rows = s.rows := rfl
@[simp] theorem State.setFolio_tenants : (s.setFolio i v).tenants = s.tenants := rfl
@[simp] theorem State.setFolio_queues : (s.setFolio i v).queues = s.queues := rfl
@[simp] theorem State.setFolio_folioChecks : (s.setFolio i v).folioChecks = s.folioChecks := rfl
@[simp] theorem State.setFolio_watch : (s.setFolio i v).watch = s.watch := rfl
@[simp] theorem State.setFolio_accesses : (s.setFolio i v).accesses = s.accesses := rfl
@[simp] theorem State.setFolio_results : (s.setFolio i v).results = s.results := rfl
@[simp] theorem State.setFolio_records : (s.setFolio i v).records = s.records := rfl
@[simp] theorem State.setFolio_curatorRecords : (s.setFolio i v).curatorRecords = s.curatorRecords := rfl
@[simp] theorem State.setFolio_devMsgs : (s.setFolio i v).devMsgs = s.devMsgs := rfl
@[simp] theorem State.setFolio_channels : (s.setFolio i v).channels = s.channels := rfl
@[simp] theorem State.setFolio_gathers : (s.setFolio i v).gathers = s.gathers := rfl
@[simp] theorem State.setFolio_hotRows : (s.setFolio i v).hotRows = s.hotRows := rfl
@[simp] theorem State.setFolio_sends : (s.setFolio i v).sends = s.sends := rfl
@[simp] theorem State.setFolio_roundOuts : (s.setFolio i v).roundOuts = s.roundOuts := rfl
@[simp] theorem State.setFolio_rowOps : (s.setFolio i v).rowOps = s.rowOps := rfl
@[simp] theorem State.setFolio_outward : (s.setFolio i v).outward = s.outward := rfl
@[simp] theorem State.setFolio_peerStores : (s.setFolio i v).peerStores = s.peerStores := rfl
@[simp] theorem State.setFolio_curfews : (s.setFolio i v).curfews = s.curfews := rfl
@[simp] theorem State.setFolio_images : (s.setFolio i v).images = s.images := rfl
@[simp] theorem State.setFolio_front : (s.setFolio i v).front = s.front := rfl
@[simp] theorem State.setFolio_cur : (s.setFolio i v).cur = s.cur := rfl
@[simp] theorem State.setFolio_nextUid : (s.setFolio i v).nextUid = s.nextUid := rfl
@[simp] theorem State.setFolio_nextId : (s.setFolio i v).nextId = s.nextId := rfl
@[simp] theorem State.setFolio_inputs : (s.setFolio i v).inputs = s.inputs := rfl
@[simp] theorem State.setFolio_raised : (s.setFolio i v).raised = s.raised := rfl
@[simp] theorem State.setFolio_unitStores : (s.setFolio i v).unitStores = s.unitStores := rfl
@[simp] theorem State.setFolio_traced : (s.setFolio i v).traced = s.traced := rfl
@[simp] theorem State.setFolio_gangNews : (s.setFolio i v).gangNews = s.gangNews := rfl
@[simp] theorem State.setFolio_pending : (s.setFolio i v).pending = s.pending := rfl
@[simp] theorem State.setFolio_sched : (s.setFolio i v).sched = s.sched := rfl
@[simp] theorem State.setFolio_picks : (s.setFolio i v).picks = s.picks := rfl
@[simp] theorem State.setFolio_freeCtr : (s.setFolio i v).freeCtr = s.freeCtr := rfl
@[simp] theorem State.setFolio_threadQ (n : Nat) : (s.setFolio i v).thread? n = s.thread? n := rfl
@[simp] theorem State.setFolio_core (n : Nat) : (s.setFolio i v).core n = s.core n := rfl
@[simp] theorem State.setFolio_row (n : Nat) : (s.setFolio i v).row n = s.row n := rfl
@[simp] theorem State.setFolio_tenantQ (n : Nat) : (s.setFolio i v).tenant? n = s.tenant? n := rfl
@[simp] theorem State.setFolio_tenant (n : Nat) : (s.setFolio i v).tenant n = s.tenant n := rfl
@[simp] theorem State.setFolio_queueQ (n : Nat) : (s.setFolio i v).queue? n = s.queue? n := rfl
@[simp] theorem State.setFolio_tag (n : Nat) : (s.setFolio i v).tag n = s.tag n := rfl
@[simp] theorem State.setFolio_byte (n : Nat) : (s.setFolio i v).byte n = s.byte n := rfl
@[simp] theorem State.setFolio_word (n : Nat) : (s.setFolio i v).word n = s.word n := rfl

end

section
variable (s : State) (t : Nat) (v : Tenant)

@[simp] theorem State.setTenant_now : (s.setTenant t v).now = s.now := rfl
@[simp] theorem State.setTenant_mem : (s.setTenant t v).mem = s.mem := rfl
@[simp] theorem State.setTenant_tags : (s.setTenant t v).tags = s.tags := rfl
@[simp] theorem State.setTenant_threads : (s.setTenant t v).threads = s.threads := rfl
@[simp] theorem State.setTenant_cores : (s.setTenant t v).cores = s.cores := rfl
@[simp] theorem State.setTenant_rows : (s.setTenant t v).rows = s.rows := rfl
@[simp] theorem State.setTenant_queues : (s.setTenant t v).queues = s.queues := rfl
@[simp] theorem State.setTenant_folios : (s.setTenant t v).folios = s.folios := rfl
@[simp] theorem State.setTenant_folioChecks : (s.setTenant t v).folioChecks = s.folioChecks := rfl
@[simp] theorem State.setTenant_watch : (s.setTenant t v).watch = s.watch := rfl
@[simp] theorem State.setTenant_accesses : (s.setTenant t v).accesses = s.accesses := rfl
@[simp] theorem State.setTenant_results : (s.setTenant t v).results = s.results := rfl
@[simp] theorem State.setTenant_records : (s.setTenant t v).records = s.records := rfl
@[simp] theorem State.setTenant_curatorRecords : (s.setTenant t v).curatorRecords = s.curatorRecords := rfl
@[simp] theorem State.setTenant_devMsgs : (s.setTenant t v).devMsgs = s.devMsgs := rfl
@[simp] theorem State.setTenant_channels : (s.setTenant t v).channels = s.channels := rfl
@[simp] theorem State.setTenant_gathers : (s.setTenant t v).gathers = s.gathers := rfl
@[simp] theorem State.setTenant_hotRows : (s.setTenant t v).hotRows = s.hotRows := rfl
@[simp] theorem State.setTenant_sends : (s.setTenant t v).sends = s.sends := rfl
@[simp] theorem State.setTenant_roundOuts : (s.setTenant t v).roundOuts = s.roundOuts := rfl
@[simp] theorem State.setTenant_rowOps : (s.setTenant t v).rowOps = s.rowOps := rfl
@[simp] theorem State.setTenant_outward : (s.setTenant t v).outward = s.outward := rfl
@[simp] theorem State.setTenant_peerStores : (s.setTenant t v).peerStores = s.peerStores := rfl
@[simp] theorem State.setTenant_curfews : (s.setTenant t v).curfews = s.curfews := rfl
@[simp] theorem State.setTenant_images : (s.setTenant t v).images = s.images := rfl
@[simp] theorem State.setTenant_front : (s.setTenant t v).front = s.front := rfl
@[simp] theorem State.setTenant_cur : (s.setTenant t v).cur = s.cur := rfl
@[simp] theorem State.setTenant_nextUid : (s.setTenant t v).nextUid = s.nextUid := rfl
@[simp] theorem State.setTenant_nextId : (s.setTenant t v).nextId = s.nextId := rfl
@[simp] theorem State.setTenant_inputs : (s.setTenant t v).inputs = s.inputs := rfl
@[simp] theorem State.setTenant_raised : (s.setTenant t v).raised = s.raised := rfl
@[simp] theorem State.setTenant_unitStores : (s.setTenant t v).unitStores = s.unitStores := rfl
@[simp] theorem State.setTenant_traced : (s.setTenant t v).traced = s.traced := rfl
@[simp] theorem State.setTenant_gangNews : (s.setTenant t v).gangNews = s.gangNews := rfl
@[simp] theorem State.setTenant_pending : (s.setTenant t v).pending = s.pending := rfl
@[simp] theorem State.setTenant_sched : (s.setTenant t v).sched = s.sched := rfl
@[simp] theorem State.setTenant_picks : (s.setTenant t v).picks = s.picks := rfl
@[simp] theorem State.setTenant_freeCtr : (s.setTenant t v).freeCtr = s.freeCtr := rfl
@[simp] theorem State.setTenant_threadQ (n : Nat) : (s.setTenant t v).thread? n = s.thread? n := rfl
@[simp] theorem State.setTenant_core (n : Nat) : (s.setTenant t v).core n = s.core n := rfl
@[simp] theorem State.setTenant_row (n : Nat) : (s.setTenant t v).row n = s.row n := rfl
@[simp] theorem State.setTenant_queueQ (n : Nat) : (s.setTenant t v).queue? n = s.queue? n := rfl
@[simp] theorem State.setTenant_folioQ (n : Nat) : (s.setTenant t v).folio? n = s.folio? n := rfl
@[simp] theorem State.setTenant_tag (n : Nat) : (s.setTenant t v).tag n = s.tag n := rfl
@[simp] theorem State.setTenant_byte (n : Nat) : (s.setTenant t v).byte n = s.byte n := rfl
@[simp] theorem State.setTenant_word (n : Nat) : (s.setTenant t v).word n = s.word n := rfl

end

section
variable (s : State) (q : Nat) (v : Queue)

@[simp] theorem State.setQueue_now : (s.setQueue q v).now = s.now := rfl
@[simp] theorem State.setQueue_mem : (s.setQueue q v).mem = s.mem := rfl
@[simp] theorem State.setQueue_tags : (s.setQueue q v).tags = s.tags := rfl
@[simp] theorem State.setQueue_threads : (s.setQueue q v).threads = s.threads := rfl
@[simp] theorem State.setQueue_cores : (s.setQueue q v).cores = s.cores := rfl
@[simp] theorem State.setQueue_rows : (s.setQueue q v).rows = s.rows := rfl
@[simp] theorem State.setQueue_tenants : (s.setQueue q v).tenants = s.tenants := rfl
@[simp] theorem State.setQueue_folios : (s.setQueue q v).folios = s.folios := rfl
@[simp] theorem State.setQueue_folioChecks : (s.setQueue q v).folioChecks = s.folioChecks := rfl
@[simp] theorem State.setQueue_watch : (s.setQueue q v).watch = s.watch := rfl
@[simp] theorem State.setQueue_accesses : (s.setQueue q v).accesses = s.accesses := rfl
@[simp] theorem State.setQueue_results : (s.setQueue q v).results = s.results := rfl
@[simp] theorem State.setQueue_records : (s.setQueue q v).records = s.records := rfl
@[simp] theorem State.setQueue_curatorRecords : (s.setQueue q v).curatorRecords = s.curatorRecords := rfl
@[simp] theorem State.setQueue_devMsgs : (s.setQueue q v).devMsgs = s.devMsgs := rfl
@[simp] theorem State.setQueue_channels : (s.setQueue q v).channels = s.channels := rfl
@[simp] theorem State.setQueue_gathers : (s.setQueue q v).gathers = s.gathers := rfl
@[simp] theorem State.setQueue_hotRows : (s.setQueue q v).hotRows = s.hotRows := rfl
@[simp] theorem State.setQueue_sends : (s.setQueue q v).sends = s.sends := rfl
@[simp] theorem State.setQueue_roundOuts : (s.setQueue q v).roundOuts = s.roundOuts := rfl
@[simp] theorem State.setQueue_rowOps : (s.setQueue q v).rowOps = s.rowOps := rfl
@[simp] theorem State.setQueue_outward : (s.setQueue q v).outward = s.outward := rfl
@[simp] theorem State.setQueue_peerStores : (s.setQueue q v).peerStores = s.peerStores := rfl
@[simp] theorem State.setQueue_curfews : (s.setQueue q v).curfews = s.curfews := rfl
@[simp] theorem State.setQueue_images : (s.setQueue q v).images = s.images := rfl
@[simp] theorem State.setQueue_front : (s.setQueue q v).front = s.front := rfl
@[simp] theorem State.setQueue_cur : (s.setQueue q v).cur = s.cur := rfl
@[simp] theorem State.setQueue_nextUid : (s.setQueue q v).nextUid = s.nextUid := rfl
@[simp] theorem State.setQueue_nextId : (s.setQueue q v).nextId = s.nextId := rfl
@[simp] theorem State.setQueue_inputs : (s.setQueue q v).inputs = s.inputs := rfl
@[simp] theorem State.setQueue_raised : (s.setQueue q v).raised = s.raised := rfl
@[simp] theorem State.setQueue_unitStores : (s.setQueue q v).unitStores = s.unitStores := rfl
@[simp] theorem State.setQueue_traced : (s.setQueue q v).traced = s.traced := rfl
@[simp] theorem State.setQueue_gangNews : (s.setQueue q v).gangNews = s.gangNews := rfl
@[simp] theorem State.setQueue_pending : (s.setQueue q v).pending = s.pending := rfl
@[simp] theorem State.setQueue_sched : (s.setQueue q v).sched = s.sched := rfl
@[simp] theorem State.setQueue_picks : (s.setQueue q v).picks = s.picks := rfl
@[simp] theorem State.setQueue_freeCtr : (s.setQueue q v).freeCtr = s.freeCtr := rfl
@[simp] theorem State.setQueue_threadQ (n : Nat) : (s.setQueue q v).thread? n = s.thread? n := rfl
@[simp] theorem State.setQueue_core (n : Nat) : (s.setQueue q v).core n = s.core n := rfl
@[simp] theorem State.setQueue_row (n : Nat) : (s.setQueue q v).row n = s.row n := rfl
@[simp] theorem State.setQueue_tenantQ (n : Nat) : (s.setQueue q v).tenant? n = s.tenant? n := rfl
@[simp] theorem State.setQueue_tenant (n : Nat) : (s.setQueue q v).tenant n = s.tenant n := rfl
@[simp] theorem State.setQueue_folioQ (n : Nat) : (s.setQueue q v).folio? n = s.folio? n := rfl
@[simp] theorem State.setQueue_tag (n : Nat) : (s.setQueue q v).tag n = s.tag n := rfl
@[simp] theorem State.setQueue_byte (n : Nat) : (s.setQueue q v).byte n = s.byte n := rfl
@[simp] theorem State.setQueue_word (n : Nat) : (s.setQueue q v).word n = s.word n := rfl

end

section
variable (s : State) (a : Nat) (e : Instr)

@[simp] theorem State.post_now : (s.post a e).now = s.now := rfl
@[simp] theorem State.post_mem : (s.post a e).mem = s.mem := rfl
@[simp] theorem State.post_tags : (s.post a e).tags = s.tags := rfl
@[simp] theorem State.post_threads : (s.post a e).threads = s.threads := rfl
@[simp] theorem State.post_cores : (s.post a e).cores = s.cores := rfl
@[simp] theorem State.post_rows : (s.post a e).rows = s.rows := rfl
@[simp] theorem State.post_tenants : (s.post a e).tenants = s.tenants := rfl
@[simp] theorem State.post_queues : (s.post a e).queues = s.queues := rfl
@[simp] theorem State.post_folios : (s.post a e).folios = s.folios := rfl
@[simp] theorem State.post_folioChecks : (s.post a e).folioChecks = s.folioChecks := rfl
@[simp] theorem State.post_watch : (s.post a e).watch = s.watch := rfl
@[simp] theorem State.post_accesses : (s.post a e).accesses = s.accesses := rfl
@[simp] theorem State.post_results : (s.post a e).results = s.results := rfl
@[simp] theorem State.post_records : (s.post a e).records = s.records := rfl
@[simp] theorem State.post_curatorRecords : (s.post a e).curatorRecords = s.curatorRecords := rfl
@[simp] theorem State.post_devMsgs : (s.post a e).devMsgs = s.devMsgs := rfl
@[simp] theorem State.post_channels : (s.post a e).channels = s.channels := rfl
@[simp] theorem State.post_gathers : (s.post a e).gathers = s.gathers := rfl
@[simp] theorem State.post_hotRows : (s.post a e).hotRows = s.hotRows := rfl
@[simp] theorem State.post_sends : (s.post a e).sends = s.sends := rfl
@[simp] theorem State.post_roundOuts : (s.post a e).roundOuts = s.roundOuts := rfl
@[simp] theorem State.post_rowOps : (s.post a e).rowOps = s.rowOps := rfl
@[simp] theorem State.post_outward : (s.post a e).outward = s.outward := rfl
@[simp] theorem State.post_peerStores : (s.post a e).peerStores = s.peerStores := rfl
@[simp] theorem State.post_curfews : (s.post a e).curfews = s.curfews := rfl
@[simp] theorem State.post_images : (s.post a e).images = s.images := rfl
@[simp] theorem State.post_front : (s.post a e).front = s.front := rfl
@[simp] theorem State.post_cur : (s.post a e).cur = s.cur := rfl
@[simp] theorem State.post_nextUid : (s.post a e).nextUid = s.nextUid := rfl
@[simp] theorem State.post_nextId : (s.post a e).nextId = s.nextId := rfl
@[simp] theorem State.post_inputs : (s.post a e).inputs = s.inputs := rfl
@[simp] theorem State.post_raised : (s.post a e).raised = s.raised := rfl
@[simp] theorem State.post_unitStores : (s.post a e).unitStores = s.unitStores := rfl
@[simp] theorem State.post_traced : (s.post a e).traced = s.traced := rfl
@[simp] theorem State.post_gangNews : (s.post a e).gangNews = s.gangNews := rfl
@[simp] theorem State.post_sched : (s.post a e).sched = s.sched := rfl
@[simp] theorem State.post_picks : (s.post a e).picks = s.picks := rfl
@[simp] theorem State.post_freeCtr : (s.post a e).freeCtr = s.freeCtr := rfl
@[simp] theorem State.post_threadQ (n : Nat) : (s.post a e).thread? n = s.thread? n := rfl
@[simp] theorem State.post_core (n : Nat) : (s.post a e).core n = s.core n := rfl
@[simp] theorem State.post_row (n : Nat) : (s.post a e).row n = s.row n := rfl
@[simp] theorem State.post_tenantQ (n : Nat) : (s.post a e).tenant? n = s.tenant? n := rfl
@[simp] theorem State.post_tenant (n : Nat) : (s.post a e).tenant n = s.tenant n := rfl
@[simp] theorem State.post_queueQ (n : Nat) : (s.post a e).queue? n = s.queue? n := rfl
@[simp] theorem State.post_folioQ (n : Nat) : (s.post a e).folio? n = s.folio? n := rfl
@[simp] theorem State.post_tag (n : Nat) : (s.post a e).tag n = s.tag n := rfl
@[simp] theorem State.post_byte (n : Nat) : (s.post a e).byte n = s.byte n := rfl
@[simp] theorem State.post_word (n : Nat) : (s.post a e).word n = s.word n := rfl

end

section
variable (s : State) (e : Instr)

@[simp] theorem State.postNow_now : (s.postNow e).now = s.now := rfl
@[simp] theorem State.postNow_mem : (s.postNow e).mem = s.mem := rfl
@[simp] theorem State.postNow_tags : (s.postNow e).tags = s.tags := rfl
@[simp] theorem State.postNow_threads : (s.postNow e).threads = s.threads := rfl
@[simp] theorem State.postNow_cores : (s.postNow e).cores = s.cores := rfl
@[simp] theorem State.postNow_rows : (s.postNow e).rows = s.rows := rfl
@[simp] theorem State.postNow_tenants : (s.postNow e).tenants = s.tenants := rfl
@[simp] theorem State.postNow_queues : (s.postNow e).queues = s.queues := rfl
@[simp] theorem State.postNow_folios : (s.postNow e).folios = s.folios := rfl
@[simp] theorem State.postNow_folioChecks : (s.postNow e).folioChecks = s.folioChecks := rfl
@[simp] theorem State.postNow_watch : (s.postNow e).watch = s.watch := rfl
@[simp] theorem State.postNow_accesses : (s.postNow e).accesses = s.accesses := rfl
@[simp] theorem State.postNow_results : (s.postNow e).results = s.results := rfl
@[simp] theorem State.postNow_records : (s.postNow e).records = s.records := rfl
@[simp] theorem State.postNow_curatorRecords : (s.postNow e).curatorRecords = s.curatorRecords := rfl
@[simp] theorem State.postNow_devMsgs : (s.postNow e).devMsgs = s.devMsgs := rfl
@[simp] theorem State.postNow_channels : (s.postNow e).channels = s.channels := rfl
@[simp] theorem State.postNow_gathers : (s.postNow e).gathers = s.gathers := rfl
@[simp] theorem State.postNow_hotRows : (s.postNow e).hotRows = s.hotRows := rfl
@[simp] theorem State.postNow_sends : (s.postNow e).sends = s.sends := rfl
@[simp] theorem State.postNow_roundOuts : (s.postNow e).roundOuts = s.roundOuts := rfl
@[simp] theorem State.postNow_rowOps : (s.postNow e).rowOps = s.rowOps := rfl
@[simp] theorem State.postNow_outward : (s.postNow e).outward = s.outward := rfl
@[simp] theorem State.postNow_peerStores : (s.postNow e).peerStores = s.peerStores := rfl
@[simp] theorem State.postNow_curfews : (s.postNow e).curfews = s.curfews := rfl
@[simp] theorem State.postNow_images : (s.postNow e).images = s.images := rfl
@[simp] theorem State.postNow_front : (s.postNow e).front = s.front := rfl
@[simp] theorem State.postNow_cur : (s.postNow e).cur = s.cur := rfl
@[simp] theorem State.postNow_nextUid : (s.postNow e).nextUid = s.nextUid := rfl
@[simp] theorem State.postNow_nextId : (s.postNow e).nextId = s.nextId := rfl
@[simp] theorem State.postNow_inputs : (s.postNow e).inputs = s.inputs := rfl
@[simp] theorem State.postNow_raised : (s.postNow e).raised = s.raised := rfl
@[simp] theorem State.postNow_unitStores : (s.postNow e).unitStores = s.unitStores := rfl
@[simp] theorem State.postNow_traced : (s.postNow e).traced = s.traced := rfl
@[simp] theorem State.postNow_gangNews : (s.postNow e).gangNews = s.gangNews := rfl
@[simp] theorem State.postNow_sched : (s.postNow e).sched = s.sched := rfl
@[simp] theorem State.postNow_picks : (s.postNow e).picks = s.picks := rfl
@[simp] theorem State.postNow_freeCtr : (s.postNow e).freeCtr = s.freeCtr := rfl
@[simp] theorem State.postNow_threadQ (n : Nat) : (s.postNow e).thread? n = s.thread? n := rfl
@[simp] theorem State.postNow_core (n : Nat) : (s.postNow e).core n = s.core n := rfl
@[simp] theorem State.postNow_row (n : Nat) : (s.postNow e).row n = s.row n := rfl
@[simp] theorem State.postNow_tenantQ (n : Nat) : (s.postNow e).tenant? n = s.tenant? n := rfl
@[simp] theorem State.postNow_tenant (n : Nat) : (s.postNow e).tenant n = s.tenant n := rfl
@[simp] theorem State.postNow_queueQ (n : Nat) : (s.postNow e).queue? n = s.queue? n := rfl
@[simp] theorem State.postNow_folioQ (n : Nat) : (s.postNow e).folio? n = s.folio? n := rfl
@[simp] theorem State.postNow_tag (n : Nat) : (s.postNow e).tag n = s.tag n := rfl
@[simp] theorem State.postNow_byte (n : Nat) : (s.postNow e).byte n = s.byte n := rfl
@[simp] theorem State.postNow_word (n : Nat) : (s.postNow e).word n = s.word n := rfl

end

section
variable (s : State) (a : Nat) (t : Tag)

@[simp] theorem State.setTag_now : (s.setTag a t).now = s.now := rfl
@[simp] theorem State.setTag_mem : (s.setTag a t).mem = s.mem := rfl
@[simp] theorem State.setTag_threads : (s.setTag a t).threads = s.threads := rfl
@[simp] theorem State.setTag_cores : (s.setTag a t).cores = s.cores := rfl
@[simp] theorem State.setTag_rows : (s.setTag a t).rows = s.rows := rfl
@[simp] theorem State.setTag_tenants : (s.setTag a t).tenants = s.tenants := rfl
@[simp] theorem State.setTag_queues : (s.setTag a t).queues = s.queues := rfl
@[simp] theorem State.setTag_folios : (s.setTag a t).folios = s.folios := rfl
@[simp] theorem State.setTag_folioChecks : (s.setTag a t).folioChecks = s.folioChecks := rfl
@[simp] theorem State.setTag_watch : (s.setTag a t).watch = s.watch := rfl
@[simp] theorem State.setTag_accesses : (s.setTag a t).accesses = s.accesses := rfl
@[simp] theorem State.setTag_results : (s.setTag a t).results = s.results := rfl
@[simp] theorem State.setTag_records : (s.setTag a t).records = s.records := rfl
@[simp] theorem State.setTag_curatorRecords : (s.setTag a t).curatorRecords = s.curatorRecords := rfl
@[simp] theorem State.setTag_devMsgs : (s.setTag a t).devMsgs = s.devMsgs := rfl
@[simp] theorem State.setTag_channels : (s.setTag a t).channels = s.channels := rfl
@[simp] theorem State.setTag_gathers : (s.setTag a t).gathers = s.gathers := rfl
@[simp] theorem State.setTag_hotRows : (s.setTag a t).hotRows = s.hotRows := rfl
@[simp] theorem State.setTag_sends : (s.setTag a t).sends = s.sends := rfl
@[simp] theorem State.setTag_roundOuts : (s.setTag a t).roundOuts = s.roundOuts := rfl
@[simp] theorem State.setTag_rowOps : (s.setTag a t).rowOps = s.rowOps := rfl
@[simp] theorem State.setTag_outward : (s.setTag a t).outward = s.outward := rfl
@[simp] theorem State.setTag_peerStores : (s.setTag a t).peerStores = s.peerStores := rfl
@[simp] theorem State.setTag_curfews : (s.setTag a t).curfews = s.curfews := rfl
@[simp] theorem State.setTag_images : (s.setTag a t).images = s.images := rfl
@[simp] theorem State.setTag_front : (s.setTag a t).front = s.front := rfl
@[simp] theorem State.setTag_cur : (s.setTag a t).cur = s.cur := rfl
@[simp] theorem State.setTag_nextUid : (s.setTag a t).nextUid = s.nextUid := rfl
@[simp] theorem State.setTag_nextId : (s.setTag a t).nextId = s.nextId := rfl
@[simp] theorem State.setTag_inputs : (s.setTag a t).inputs = s.inputs := rfl
@[simp] theorem State.setTag_raised : (s.setTag a t).raised = s.raised := rfl
@[simp] theorem State.setTag_unitStores : (s.setTag a t).unitStores = s.unitStores := rfl
@[simp] theorem State.setTag_traced : (s.setTag a t).traced = s.traced := rfl
@[simp] theorem State.setTag_gangNews : (s.setTag a t).gangNews = s.gangNews := rfl
@[simp] theorem State.setTag_pending : (s.setTag a t).pending = s.pending := rfl
@[simp] theorem State.setTag_sched : (s.setTag a t).sched = s.sched := rfl
@[simp] theorem State.setTag_picks : (s.setTag a t).picks = s.picks := rfl
@[simp] theorem State.setTag_freeCtr : (s.setTag a t).freeCtr = s.freeCtr := rfl
@[simp] theorem State.setTag_threadQ (n : Nat) : (s.setTag a t).thread? n = s.thread? n := rfl
@[simp] theorem State.setTag_core (n : Nat) : (s.setTag a t).core n = s.core n := rfl
@[simp] theorem State.setTag_row (n : Nat) : (s.setTag a t).row n = s.row n := rfl
@[simp] theorem State.setTag_tenantQ (n : Nat) : (s.setTag a t).tenant? n = s.tenant? n := rfl
@[simp] theorem State.setTag_tenant (n : Nat) : (s.setTag a t).tenant n = s.tenant n := rfl
@[simp] theorem State.setTag_queueQ (n : Nat) : (s.setTag a t).queue? n = s.queue? n := rfl
@[simp] theorem State.setTag_folioQ (n : Nat) : (s.setTag a t).folio? n = s.folio? n := rfl
@[simp] theorem State.setTag_byte (n : Nat) : (s.setTag a t).byte n = s.byte n := rfl
@[simp] theorem State.setTag_word (n : Nat) : (s.setTag a t).word n = s.word n := rfl

end

section
variable (s : State) (a : Nat) (p : Bool)

@[simp] theorem State.setP_now : (s.setP a p).now = s.now := rfl
@[simp] theorem State.setP_mem : (s.setP a p).mem = s.mem := rfl
@[simp] theorem State.setP_threads : (s.setP a p).threads = s.threads := rfl
@[simp] theorem State.setP_cores : (s.setP a p).cores = s.cores := rfl
@[simp] theorem State.setP_rows : (s.setP a p).rows = s.rows := rfl
@[simp] theorem State.setP_tenants : (s.setP a p).tenants = s.tenants := rfl
@[simp] theorem State.setP_queues : (s.setP a p).queues = s.queues := rfl
@[simp] theorem State.setP_folios : (s.setP a p).folios = s.folios := rfl
@[simp] theorem State.setP_folioChecks : (s.setP a p).folioChecks = s.folioChecks := rfl
@[simp] theorem State.setP_watch : (s.setP a p).watch = s.watch := rfl
@[simp] theorem State.setP_accesses : (s.setP a p).accesses = s.accesses := rfl
@[simp] theorem State.setP_results : (s.setP a p).results = s.results := rfl
@[simp] theorem State.setP_records : (s.setP a p).records = s.records := rfl
@[simp] theorem State.setP_curatorRecords : (s.setP a p).curatorRecords = s.curatorRecords := rfl
@[simp] theorem State.setP_devMsgs : (s.setP a p).devMsgs = s.devMsgs := rfl
@[simp] theorem State.setP_channels : (s.setP a p).channels = s.channels := rfl
@[simp] theorem State.setP_gathers : (s.setP a p).gathers = s.gathers := rfl
@[simp] theorem State.setP_hotRows : (s.setP a p).hotRows = s.hotRows := rfl
@[simp] theorem State.setP_sends : (s.setP a p).sends = s.sends := rfl
@[simp] theorem State.setP_roundOuts : (s.setP a p).roundOuts = s.roundOuts := rfl
@[simp] theorem State.setP_rowOps : (s.setP a p).rowOps = s.rowOps := rfl
@[simp] theorem State.setP_outward : (s.setP a p).outward = s.outward := rfl
@[simp] theorem State.setP_peerStores : (s.setP a p).peerStores = s.peerStores := rfl
@[simp] theorem State.setP_curfews : (s.setP a p).curfews = s.curfews := rfl
@[simp] theorem State.setP_images : (s.setP a p).images = s.images := rfl
@[simp] theorem State.setP_front : (s.setP a p).front = s.front := rfl
@[simp] theorem State.setP_cur : (s.setP a p).cur = s.cur := rfl
@[simp] theorem State.setP_nextUid : (s.setP a p).nextUid = s.nextUid := rfl
@[simp] theorem State.setP_nextId : (s.setP a p).nextId = s.nextId := rfl
@[simp] theorem State.setP_inputs : (s.setP a p).inputs = s.inputs := rfl
@[simp] theorem State.setP_raised : (s.setP a p).raised = s.raised := rfl
@[simp] theorem State.setP_unitStores : (s.setP a p).unitStores = s.unitStores := rfl
@[simp] theorem State.setP_traced : (s.setP a p).traced = s.traced := rfl
@[simp] theorem State.setP_gangNews : (s.setP a p).gangNews = s.gangNews := rfl
@[simp] theorem State.setP_pending : (s.setP a p).pending = s.pending := rfl
@[simp] theorem State.setP_sched : (s.setP a p).sched = s.sched := rfl
@[simp] theorem State.setP_picks : (s.setP a p).picks = s.picks := rfl
@[simp] theorem State.setP_freeCtr : (s.setP a p).freeCtr = s.freeCtr := rfl
@[simp] theorem State.setP_threadQ (n : Nat) : (s.setP a p).thread? n = s.thread? n := rfl
@[simp] theorem State.setP_core (n : Nat) : (s.setP a p).core n = s.core n := rfl
@[simp] theorem State.setP_row (n : Nat) : (s.setP a p).row n = s.row n := rfl
@[simp] theorem State.setP_tenantQ (n : Nat) : (s.setP a p).tenant? n = s.tenant? n := rfl
@[simp] theorem State.setP_tenant (n : Nat) : (s.setP a p).tenant n = s.tenant n := rfl
@[simp] theorem State.setP_queueQ (n : Nat) : (s.setP a p).queue? n = s.queue? n := rfl
@[simp] theorem State.setP_folioQ (n : Nat) : (s.setP a p).folio? n = s.folio? n := rfl
@[simp] theorem State.setP_byte (n : Nat) : (s.setP a p).byte n = s.byte n := rfl
@[simp] theorem State.setP_word (n : Nat) : (s.setP a p).word n = s.word n := rfl

end

section
variable (s : State) (a n x : Nat)

@[simp] theorem State.store_now : (s.store a n x).now = s.now := rfl
@[simp] theorem State.store_tags : (s.store a n x).tags = s.tags := rfl
@[simp] theorem State.store_threads : (s.store a n x).threads = s.threads := rfl
@[simp] theorem State.store_cores : (s.store a n x).cores = s.cores := rfl
@[simp] theorem State.store_rows : (s.store a n x).rows = s.rows := rfl
@[simp] theorem State.store_tenants : (s.store a n x).tenants = s.tenants := rfl
@[simp] theorem State.store_queues : (s.store a n x).queues = s.queues := rfl
@[simp] theorem State.store_folios : (s.store a n x).folios = s.folios := rfl
@[simp] theorem State.store_folioChecks : (s.store a n x).folioChecks = s.folioChecks := rfl
@[simp] theorem State.store_watch : (s.store a n x).watch = s.watch := rfl
@[simp] theorem State.store_accesses : (s.store a n x).accesses = s.accesses := rfl
@[simp] theorem State.store_results : (s.store a n x).results = s.results := rfl
@[simp] theorem State.store_records : (s.store a n x).records = s.records := rfl
@[simp] theorem State.store_curatorRecords : (s.store a n x).curatorRecords = s.curatorRecords := rfl
@[simp] theorem State.store_devMsgs : (s.store a n x).devMsgs = s.devMsgs := rfl
@[simp] theorem State.store_channels : (s.store a n x).channels = s.channels := rfl
@[simp] theorem State.store_gathers : (s.store a n x).gathers = s.gathers := rfl
@[simp] theorem State.store_hotRows : (s.store a n x).hotRows = s.hotRows := rfl
@[simp] theorem State.store_sends : (s.store a n x).sends = s.sends := rfl
@[simp] theorem State.store_roundOuts : (s.store a n x).roundOuts = s.roundOuts := rfl
@[simp] theorem State.store_rowOps : (s.store a n x).rowOps = s.rowOps := rfl
@[simp] theorem State.store_outward : (s.store a n x).outward = s.outward := rfl
@[simp] theorem State.store_peerStores : (s.store a n x).peerStores = s.peerStores := rfl
@[simp] theorem State.store_curfews : (s.store a n x).curfews = s.curfews := rfl
@[simp] theorem State.store_images : (s.store a n x).images = s.images := rfl
@[simp] theorem State.store_front : (s.store a n x).front = s.front := rfl
@[simp] theorem State.store_cur : (s.store a n x).cur = s.cur := rfl
@[simp] theorem State.store_nextUid : (s.store a n x).nextUid = s.nextUid := rfl
@[simp] theorem State.store_nextId : (s.store a n x).nextId = s.nextId := rfl
@[simp] theorem State.store_inputs : (s.store a n x).inputs = s.inputs := rfl
@[simp] theorem State.store_raised : (s.store a n x).raised = s.raised := rfl
@[simp] theorem State.store_unitStores : (s.store a n x).unitStores = s.unitStores := rfl
@[simp] theorem State.store_traced : (s.store a n x).traced = s.traced := rfl
@[simp] theorem State.store_gangNews : (s.store a n x).gangNews = s.gangNews := rfl
@[simp] theorem State.store_pending : (s.store a n x).pending = s.pending := rfl
@[simp] theorem State.store_sched : (s.store a n x).sched = s.sched := rfl
@[simp] theorem State.store_picks : (s.store a n x).picks = s.picks := rfl
@[simp] theorem State.store_freeCtr : (s.store a n x).freeCtr = s.freeCtr := rfl
@[simp] theorem State.store_threadQ (n : Nat) : (s.store a n x).thread? n = s.thread? n := rfl
@[simp] theorem State.store_core (n : Nat) : (s.store a n x).core n = s.core n := rfl
@[simp] theorem State.store_row (n : Nat) : (s.store a n x).row n = s.row n := rfl
@[simp] theorem State.store_tenantQ (n : Nat) : (s.store a n x).tenant? n = s.tenant? n := rfl
@[simp] theorem State.store_tenant (n : Nat) : (s.store a n x).tenant n = s.tenant n := rfl
@[simp] theorem State.store_queueQ (n : Nat) : (s.store a n x).queue? n = s.queue? n := rfl
@[simp] theorem State.store_folioQ (n : Nat) : (s.store a n x).folio? n = s.folio? n := rfl
@[simp] theorem State.store_tag (n : Nat) : (s.store a n x).tag n = s.tag n := rfl

end

section
variable (s : State) (a : Nat) (w : Word)

@[simp] theorem State.storeWord_now : (s.storeWord a w).now = s.now := rfl
@[simp] theorem State.storeWord_tags : (s.storeWord a w).tags = s.tags := rfl
@[simp] theorem State.storeWord_threads : (s.storeWord a w).threads = s.threads := rfl
@[simp] theorem State.storeWord_cores : (s.storeWord a w).cores = s.cores := rfl
@[simp] theorem State.storeWord_rows : (s.storeWord a w).rows = s.rows := rfl
@[simp] theorem State.storeWord_tenants : (s.storeWord a w).tenants = s.tenants := rfl
@[simp] theorem State.storeWord_queues : (s.storeWord a w).queues = s.queues := rfl
@[simp] theorem State.storeWord_folios : (s.storeWord a w).folios = s.folios := rfl
@[simp] theorem State.storeWord_folioChecks : (s.storeWord a w).folioChecks = s.folioChecks := rfl
@[simp] theorem State.storeWord_watch : (s.storeWord a w).watch = s.watch := rfl
@[simp] theorem State.storeWord_accesses : (s.storeWord a w).accesses = s.accesses := rfl
@[simp] theorem State.storeWord_results : (s.storeWord a w).results = s.results := rfl
@[simp] theorem State.storeWord_records : (s.storeWord a w).records = s.records := rfl
@[simp] theorem State.storeWord_curatorRecords : (s.storeWord a w).curatorRecords = s.curatorRecords := rfl
@[simp] theorem State.storeWord_devMsgs : (s.storeWord a w).devMsgs = s.devMsgs := rfl
@[simp] theorem State.storeWord_channels : (s.storeWord a w).channels = s.channels := rfl
@[simp] theorem State.storeWord_gathers : (s.storeWord a w).gathers = s.gathers := rfl
@[simp] theorem State.storeWord_hotRows : (s.storeWord a w).hotRows = s.hotRows := rfl
@[simp] theorem State.storeWord_sends : (s.storeWord a w).sends = s.sends := rfl
@[simp] theorem State.storeWord_roundOuts : (s.storeWord a w).roundOuts = s.roundOuts := rfl
@[simp] theorem State.storeWord_rowOps : (s.storeWord a w).rowOps = s.rowOps := rfl
@[simp] theorem State.storeWord_outward : (s.storeWord a w).outward = s.outward := rfl
@[simp] theorem State.storeWord_peerStores : (s.storeWord a w).peerStores = s.peerStores := rfl
@[simp] theorem State.storeWord_curfews : (s.storeWord a w).curfews = s.curfews := rfl
@[simp] theorem State.storeWord_images : (s.storeWord a w).images = s.images := rfl
@[simp] theorem State.storeWord_front : (s.storeWord a w).front = s.front := rfl
@[simp] theorem State.storeWord_cur : (s.storeWord a w).cur = s.cur := rfl
@[simp] theorem State.storeWord_nextUid : (s.storeWord a w).nextUid = s.nextUid := rfl
@[simp] theorem State.storeWord_nextId : (s.storeWord a w).nextId = s.nextId := rfl
@[simp] theorem State.storeWord_inputs : (s.storeWord a w).inputs = s.inputs := rfl
@[simp] theorem State.storeWord_raised : (s.storeWord a w).raised = s.raised := rfl
@[simp] theorem State.storeWord_unitStores : (s.storeWord a w).unitStores = s.unitStores := rfl
@[simp] theorem State.storeWord_traced : (s.storeWord a w).traced = s.traced := rfl
@[simp] theorem State.storeWord_gangNews : (s.storeWord a w).gangNews = s.gangNews := rfl
@[simp] theorem State.storeWord_pending : (s.storeWord a w).pending = s.pending := rfl
@[simp] theorem State.storeWord_sched : (s.storeWord a w).sched = s.sched := rfl
@[simp] theorem State.storeWord_picks : (s.storeWord a w).picks = s.picks := rfl
@[simp] theorem State.storeWord_freeCtr : (s.storeWord a w).freeCtr = s.freeCtr := rfl
@[simp] theorem State.storeWord_threadQ (n : Nat) : (s.storeWord a w).thread? n = s.thread? n := rfl
@[simp] theorem State.storeWord_core (n : Nat) : (s.storeWord a w).core n = s.core n := rfl
@[simp] theorem State.storeWord_row (n : Nat) : (s.storeWord a w).row n = s.row n := rfl
@[simp] theorem State.storeWord_tenantQ (n : Nat) : (s.storeWord a w).tenant? n = s.tenant? n := rfl
@[simp] theorem State.storeWord_tenant (n : Nat) : (s.storeWord a w).tenant n = s.tenant n := rfl
@[simp] theorem State.storeWord_queueQ (n : Nat) : (s.storeWord a w).queue? n = s.queue? n := rfl
@[simp] theorem State.storeWord_folioQ (n : Nat) : (s.storeWord a w).folio? n = s.folio? n := rfl
@[simp] theorem State.storeWord_tag (n : Nat) : (s.storeWord a w).tag n = s.tag n := rfl

end

section
variable (s : State) (lo hi : Nat)

@[simp] theorem State.scrubRange_now : (s.scrubRange lo hi).now = s.now := rfl
@[simp] theorem State.scrubRange_threads : (s.scrubRange lo hi).threads = s.threads := rfl
@[simp] theorem State.scrubRange_cores : (s.scrubRange lo hi).cores = s.cores := rfl
@[simp] theorem State.scrubRange_rows : (s.scrubRange lo hi).rows = s.rows := rfl
@[simp] theorem State.scrubRange_tenants : (s.scrubRange lo hi).tenants = s.tenants := rfl
@[simp] theorem State.scrubRange_queues : (s.scrubRange lo hi).queues = s.queues := rfl
@[simp] theorem State.scrubRange_folios : (s.scrubRange lo hi).folios = s.folios := rfl
@[simp] theorem State.scrubRange_folioChecks : (s.scrubRange lo hi).folioChecks = s.folioChecks := rfl
@[simp] theorem State.scrubRange_watch : (s.scrubRange lo hi).watch = s.watch := rfl
@[simp] theorem State.scrubRange_accesses : (s.scrubRange lo hi).accesses = s.accesses := rfl
@[simp] theorem State.scrubRange_results : (s.scrubRange lo hi).results = s.results := rfl
@[simp] theorem State.scrubRange_records : (s.scrubRange lo hi).records = s.records := rfl
@[simp] theorem State.scrubRange_curatorRecords : (s.scrubRange lo hi).curatorRecords = s.curatorRecords := rfl
@[simp] theorem State.scrubRange_devMsgs : (s.scrubRange lo hi).devMsgs = s.devMsgs := rfl
@[simp] theorem State.scrubRange_channels : (s.scrubRange lo hi).channels = s.channels := rfl
@[simp] theorem State.scrubRange_gathers : (s.scrubRange lo hi).gathers = s.gathers := rfl
@[simp] theorem State.scrubRange_hotRows : (s.scrubRange lo hi).hotRows = s.hotRows := rfl
@[simp] theorem State.scrubRange_sends : (s.scrubRange lo hi).sends = s.sends := rfl
@[simp] theorem State.scrubRange_roundOuts : (s.scrubRange lo hi).roundOuts = s.roundOuts := rfl
@[simp] theorem State.scrubRange_rowOps : (s.scrubRange lo hi).rowOps = s.rowOps := rfl
@[simp] theorem State.scrubRange_outward : (s.scrubRange lo hi).outward = s.outward := rfl
@[simp] theorem State.scrubRange_peerStores : (s.scrubRange lo hi).peerStores = s.peerStores := rfl
@[simp] theorem State.scrubRange_curfews : (s.scrubRange lo hi).curfews = s.curfews := rfl
@[simp] theorem State.scrubRange_images : (s.scrubRange lo hi).images = s.images := rfl
@[simp] theorem State.scrubRange_front : (s.scrubRange lo hi).front = s.front := rfl
@[simp] theorem State.scrubRange_cur : (s.scrubRange lo hi).cur = s.cur := rfl
@[simp] theorem State.scrubRange_nextUid : (s.scrubRange lo hi).nextUid = s.nextUid := rfl
@[simp] theorem State.scrubRange_nextId : (s.scrubRange lo hi).nextId = s.nextId := rfl
@[simp] theorem State.scrubRange_inputs : (s.scrubRange lo hi).inputs = s.inputs := rfl
@[simp] theorem State.scrubRange_raised : (s.scrubRange lo hi).raised = s.raised := rfl
@[simp] theorem State.scrubRange_unitStores : (s.scrubRange lo hi).unitStores = s.unitStores := rfl
@[simp] theorem State.scrubRange_traced : (s.scrubRange lo hi).traced = s.traced := rfl
@[simp] theorem State.scrubRange_gangNews : (s.scrubRange lo hi).gangNews = s.gangNews := rfl
@[simp] theorem State.scrubRange_pending : (s.scrubRange lo hi).pending = s.pending := rfl
@[simp] theorem State.scrubRange_sched : (s.scrubRange lo hi).sched = s.sched := rfl
@[simp] theorem State.scrubRange_picks : (s.scrubRange lo hi).picks = s.picks := rfl
@[simp] theorem State.scrubRange_freeCtr : (s.scrubRange lo hi).freeCtr = s.freeCtr := rfl
@[simp] theorem State.scrubRange_threadQ (n : Nat) : (s.scrubRange lo hi).thread? n = s.thread? n := rfl
@[simp] theorem State.scrubRange_core (n : Nat) : (s.scrubRange lo hi).core n = s.core n := rfl
@[simp] theorem State.scrubRange_row (n : Nat) : (s.scrubRange lo hi).row n = s.row n := rfl
@[simp] theorem State.scrubRange_tenantQ (n : Nat) : (s.scrubRange lo hi).tenant? n = s.tenant? n := rfl
@[simp] theorem State.scrubRange_tenant (n : Nat) : (s.scrubRange lo hi).tenant n = s.tenant n := rfl
@[simp] theorem State.scrubRange_queueQ (n : Nat) : (s.scrubRange lo hi).queue? n = s.queue? n := rfl
@[simp] theorem State.scrubRange_folioQ (n : Nat) : (s.scrubRange lo hi).folio? n = s.folio? n := rfl

end

/-! ### Tables by key -/

/-- Reading a table after a write gives the value written at its key, and what stood there elsewhere. -/
theorem lookup_insert {α} (l : List (Nat × α)) (k j : Nat) (v : α) :
    lookup? (insert l k v) j = if k = j then some v else lookup? l j := by
  induction l with
  | nil => simp [insert, lookup?]
  | cons e l ih =>
    obtain ⟨k', v'⟩ := e
    simp only [insert]
    split
    · simp only [lookup?, ih]; split <;> (try split) <;> first | rfl | omega
    · split <;> simp only [lookup?] <;> split <;> (try split) <;> first | rfl | omega | simp_all

@[simp] theorem State.core_setCore (s : State) (c j : Nat) (v : Core) : (s.setCore c v).core j = if c = j then v else s.core j := by
  simp only [State.setCore, State.core, lookupD, lookup_insert]
  split <;> rfl

@[simp] theorem State.core_modCore (s : State) (c j : Nat) (f : Core → Core) :
    (s.modCore c f).core j = if c = j then f (s.core c) else s.core j := by
  simp [State.modCore]

@[simp] theorem State.row_setRow (s : State) (w j : Nat) (v : Row) : (s.setRow w v).row j = if w = j then v else s.row j := by
  simp only [State.setRow, State.row, lookupD, lookup_insert]
  split <;> rfl

@[simp] theorem State.tenantQ_setTenant (s : State) (t j : Nat) (v : Tenant) :
    (s.setTenant t v).tenant? j = if t = j then some v else s.tenant? j := by
  simp only [State.setTenant, State.tenant?, lookup_insert]

@[simp] theorem State.queueQ_setQueue (s : State) (q j : Nat) (v : Queue) :
    (s.setQueue q v).queue? j = if q = j then some v else s.queue? j := by
  simp only [State.setQueue, State.queue?, lookup_insert]

@[simp] theorem State.folioQ_setFolio (s : State) (i j : Nat) (v : Folio) :
    (s.setFolio i v).folio? j = if i = j then some v else s.folio? j := by
  simp only [State.setFolio, State.folio?, lookup_insert]

/-! ### Threads by serial number -/

/-- A change of the threads that keeps their serial numbers changes the one that is found. -/
theorem find_map_uid {l : List Thread} {uid : Nat} {f : Thread → Thread} (hf : ∀ x, (f x).uid = x.uid) :
    (l.map f).find? (fun t => t.uid == uid) = (l.find? fun t => t.uid == uid).map f := by
  induction l with
  | nil => rfl
  | cons x xs ih => simp only [List.map, List.find?, hf]; split <;> simp_all

theorem State.thread_setThread (s : State) (t : Thread) (u : Nat) :
    (s.setThread t).thread? u = (s.thread? u).map fun x => if x.uid = t.uid then t else x := by
  simp only [State.setThread, State.thread?]
  rw [find_map_uid]
  intro x; split <;> simp_all

theorem State.thread_modThread (s : State) (n u : Nat) (f : Thread → Thread) (hf : ∀ x, (f x).uid = x.uid) :
    (s.modThread n f).thread? u = (s.thread? u).map fun x => if x.uid = n then f x else x := by
  simp only [State.modThread, State.thread?]
  rw [find_map_uid]
  intro x; split <;> simp_all

theorem State.thread_uid {s : State} {u : Nat} {t : Thread} (h : s.thread? u = some t) : t.uid = u := by
  simpa using List.find?_some h

end Sys2Proof.Machine
end

