-- ==== Sys2Proof/Laws/Issue.lean ====
section
/-! SUPPORT. The issue of an instruction that finds its operands at hand: its checks pass, its reads give the registers, and completing it
changes the thread that issues and nothing else. -/

namespace Sys2Proof.Machine

/-! ### No debug unit looks on -/

theorem pmsel_zero (n : Nat) : ((Vector.replicate 8 (0 : Word))[n]?).getD 0 = 0 := by
  by_cases h : n < 8
  · rw [Vector.getElem?_eq_getElem h]; simp
  · simp [Vector.getElem?_eq_none (Nat.le_of_not_lt h)]

theorem Core.counts_off {co : Core} (h : co.Unwatched) (n ev : Nat) (t : Option Nat) (cls : Nat) : co.counts n ev t cls = false := by
  simp only [Core.counts, h.2, pmsel_zero]
  rfl

theorem iterate_id {σ} (n lo : Nat) (f : Nat → σ → σ) (s : σ) (h : ∀ n s', s' = s → f n s' = s) : iterate n lo f s = s := by
  induction n generalizing lo with
  | zero => rfl
  | succ n ih => simp only [iterate, h lo s rfl, ih]

/-- No counter counts. -/
theorem State.count_off {s : State} {c : Nat} (h : (s.core c).Unwatched) (ev : Nat) (t : Option Thread) (k : Nat) : s.count c ev t k = s := by
  unfold State.count State.countOf
  exact iterate_id _ _ _ _ (by rintro n s' rfl; simp [Core.counts_off h])

/-- No comparator matches. -/
theorem State.matching_off {s : State} {c : Nat} (h : (s.core c).Unwatched) (t : Thread) (n : Nat) (v : Word) :
    s.matching c (regMatch t n v) = [] := by
  have e : ∀ a b, regMatch t n v 0 a b = false := by intro a b; simp [regMatch, bits]
  simp only [State.matching, h.1, pmsel_zero]
  simp [below, e]

/-- A register write writes the register. -/
theorem State.writeReg_off {s : State} {uid n : Nat} {v : Word} {t : Thread} (ht : s.thread? uid = some t) (h : (s.core t.core).Unwatched)
    (p : Bool) : s.writeReg uid n v p = s.setThread (t.write n v) := by
  simp only [State.writeReg, ht]
  have : ((s.setThread (t.write n v)).core t.core).Unwatched := h
  simp [matching_off this]

/-! ### The checks of a field -/

/-- What the checks ask of a field that is at hand. -/
structure Fine (s : State) (t : Thread) (o : Opnd) : Prop where
  allowed : o.allowed = true
  range : o.range t.stagger (s.core t.core).regCount = none
  odd : o.odd t.stagger = none
  stream : o.stream = none
  src : ∀ k, (if o.role.reads then s.srcAvailable t o k
    else if o.role = .name ∧ s.resultDue t.uid o.code = true then .block (.reg o.code) else .go) = .go
  dst : (if o.role.writes then s.dstAvailable t o else .go) = .go

theorem fine_plain {s : State} {t : Thread} {o : Opnd} (h : s.Plain t o) : Fine s t o := by
  rcases h with h | ⟨h, h1, h2, h3⟩ | ⟨h, h1⟩ | ⟨h, h1⟩ | ⟨hg, hr, ho, hf, hd⟩
  · constructor <;> simp [Opnd.allowed, Opnd.range, Opnd.odd, Opnd.stream, Opnd.general, h, Role.reads, Role.writes]
  · constructor <;> simp [Opnd.allowed, Opnd.range, Opnd.odd, Opnd.stream, Opnd.general, h, h1, h2, h3, Role.reads, Role.writes]
  · constructor
    · cases hr : o.role <;> simp_all [Opnd.allowed]
    all_goals simp [Opnd.range, Opnd.odd, Opnd.stream, Opnd.general, State.srcAvailable, State.dstAvailable, h, h1]
  · constructor <;> simp [Opnd.allowed, Opnd.range, Opnd.odd, Opnd.stream, Opnd.general, State.srcAvailable, h, h1, Role.reads, Role.writes]
  · have g := hg
    simp only [Opnd.general, Bool.and_eq_true, decide_eq_true_eq, Bool.not_eq_true'] at g
    obtain ⟨⟨g1, g2⟩, g3⟩ := g
    refine ⟨?_, hr, ho, ?_, fun k => ?_, ?_⟩
    · cases e : o.role <;> simp_all [Opnd.allowed] <;> omega
    · simp [Opnd.stream]; omega
    · split
      · rename_i rd
        have := hf rd
        cases e : o.role.pair <;> simp_all [State.srcAvailable, Opnd.regs, Thread.regAvailable]
      · simp [show o.role ≠ .name by simpa using g3]
    · split
      · rename_i wr
        have := hd wr
        cases e : o.role.pair <;> simp_all [State.dstAvailable, Opnd.regs, Thread.regDue]
      · rfl

theorem check_fine {s : State} {t : Thread} {f : Form} (hc : f.Clear t (s.core t.core).prove) (ha : Fine s t f.a) (hb : Fine s t f.b)
    (hd : Fine s t f.d) : f.check t (s.core t.core).regCount (s.core t.core).prove = none := by
  obtain ⟨h1, h2, h3, h4⟩ := hc
  have g : ¬(t.level.num < f.level.num) := by omega
  have r : ¬(f.row ≠ 0 ∧ (s.core t.core).prove = false) := by rcases h4 with h | h <;> simp [h]
  simp [Form.check, h1, h2, g, r, ha.allowed, hb.allowed, hd.allowed, ha.range, hb.range, hd.range, ha.odd, hb.odd, hd.odd]

theorem available_fine {s : State} {t : Thread} {f : Form} (ha : Fine s t f.a) (hb : Fine s t f.b) (hd : Fine s t f.d) :
    s.available t f = .go := by
  have h1 := ha.src; have h2 := hb.src; have h3 := hd.src; have h4 := hd.dst
  simp only [State.available, h1, h2, h3, h4, firstOf]

theorem streams_fine {s : State} {t : Thread} {f : Form} (ha : Fine s t f.a) (hb : Fine s t f.b) (hd : Fine s t f.d) :
    f.streamReads = [] ∧ f.streamWrites = [] := by
  simp [Form.streamReads, Form.streamWrites, ha.stream, hb.stream, hd.stream, List.filterMap]

theorem Thread.left_self (t : Thread) : t.left t = false := by simp [Thread.left]

theorem Steady.found {s : State} {t : Thread} (hs : Steady s t) : s.thread? t.uid = some t := by
  rw [State.thread_uid hs.issues]; exact hs.issues

theorem putsStop_nil (s : State) (t : Thread) (k : Nat) (raw shown : InstWord) : s.putsStop t [] k raw shown = none := rfl

theorem correctReg_ok {s : State} {t : Thread} {n : Nat} (ht : s.thread? t.uid = some t) (h : (t.reg n).ecc = .ok) : s.correctReg t n = s := by
  simp [State.correctReg, ht, h]

/-- No register that such a field reads holds an error. -/
theorem correctField_plain {s : State} {t : Thread} {o : Opnd} (ht : s.thread? t.uid = some t) (h : s.Plain t o) : s.correctField t o = s := by
  rcases h with h | ⟨h, -⟩ | ⟨-, h⟩ | ⟨h, h1⟩ | ⟨hg, -, -, hf, -⟩
  · simp [State.correctField, h, Role.reads]
  · simp [State.correctField, h, Role.reads]
  · simp [State.correctField, Opnd.general, h]
  · simp [State.correctField, Opnd.general, h1]
  · cases e : o.role.reads
    · simp [State.correctField, e]
    · have := hf e
      cases e' : o.role.pair <;> simp_all [State.correctField, Opnd.regs, correctReg_ok]

theorem correctForm_plain {s : State} {t : Thread} {f : Form} (h : Ready s t f) : s.correctForm t f = s := by
  have ht := h.steady.found
  simp [State.correctForm, correctField_plain ht h.a, correctField_plain ht h.b, correctField_plain ht h.d]

/-- An instruction that finds everything at hand issues. -/
theorem attempt_ready {s : State} {t : Thread} {f : Form} (h : Ready s t f) (raw : InstWord) :
    s.attempt t raw f = .runs (s.readOperands t raw f false) s := by
  have hcor := correctForm_plain h
  obtain ⟨hs, hc, ha, hb, hd⟩ := h
  have ha := fine_plain ha
  have hb := fine_plain hb
  have hd := fine_plain hd
  have hst := streams_fine ha hb hd
  simp [State.attempt, hs.noHit, check_fine hc ha hb hd, available_fine ha hb hd, State.attemptStreams, hst, State.checkStreams,
    State.fillReads, hs.found, Thread.left_self, Thread.allAtHand, putsStop_nil, hcor]

/-! ### The reads -/

theorem readField_plain {s : State} {t : Thread} {o : Opnd} (ht : s.thread? t.uid = some t) (h : s.Plain t o) (vec : Bool) :
    s.readField t.uid o t.stagger vec = (s, s.val t o, t.val2 o) := by
  rcases h with h | ⟨h, h1, h2⟩ | ⟨h, h1⟩ | ⟨h, h1⟩ | ⟨hg, hr, ho, hf, hd⟩
  · simp [State.readField, ht, h, Role.reads, State.val, Thread.val2]
  · simp [State.readField, ht, h, Role.reads, State.val, Thread.val2]
  · simp only [State.readField, ht, State.val, Thread.val2, Opnd.general, h1]
    cases o.role.reads <;> simp
  · simp [State.readField, ht, h, h1, Role.reads, State.val, Thread.val2, Opnd.general]
  · cases e : o.role.reads
    · simp [State.readField, ht, e, State.val, Thread.val2]
    · have := hf e
      cases e' : o.role.pair <;> simp_all [State.readField, Opnd.regs, State.val, Thread.val2]

/-- What an instruction knows that finds everything at hand. -/
def plainCtx (s : State) (t : Thread) (raw : InstWord) (f : Form) : Ctx :=
  { uid := t.uid, t := t, raw := raw, shown := f.show t.stagger raw, rsvd := f.rsvd, row := f.row, a := s.val t f.a, a2 := t.val2 f.a,
    b := s.val t f.b, b2 := t.val2 f.b, d := s.val t f.d, d2 := t.val2 f.d, dcode := f.d.num t.stagger, width := f.wwidth,
    popped := s.issued t.uid raw }

theorem readOperands_plain {s : State} {t : Thread} {f : Form} (h : Ready s t f) (raw : InstWord) :
    s.readOperands t raw f false = plainCtx s t raw f := by
  have hn := (streams_fine (fine_plain h.a) (fine_plain h.b) (fine_plain h.d)).1
  have ht := h.steady.found
  have hrow : (if f.row = 0 then 0 else f.row) = f.row := by split <;> simp_all
  simp [State.readOperands, hn, readField_plain ht h.a, readField_plain ht h.b, readField_plain ht h.d, plainCtx, hrow]

/-! ### The issue is counted -/

theorem issued_eq {s : State} {t : Thread} (ht : s.thread? t.uid = some t) (h : (s.core t.core).Unwatched) (w : InstWord) :
    s.issued t.uid w =
      { s.modCore t.core (fun c => { c with
        issued := some { uid := t.uid, word := w, pc := t.pc, head := s.traceHead 0 (some t) 0 }, slotIssue := insert c.slotIssue t.slot s.now }) with
        threads := s.threads.map fun x =>
          let x := if x.uid = t.uid then { x with lastIssue := some s.now, proving := (s.core t.core).prove, stepIssued := true } else x
          { x with yield := x.yield.map fun y => { y with others := y.others.filter fun o => !(o == t.uid) } } } := by
  simp only [State.issued, ht]
  rw [State.count_off]
  · rfl
  · rw [State.core_modCore]; simpa [Core.Unwatched] using h

theorem thread_issued {s : State} {t : Thread} (ht : s.thread? t.uid = some t) (h : (s.core t.core).Unwatched) (w : InstWord) (n : Nat) :
    (s.issued t.uid w).thread? n = (s.thread? n).map fun x =>
      let x := if x.uid = t.uid then { x with lastIssue := some s.now, proving := (s.core t.core).prove, stepIssued := true } else x
      { x with yield := x.yield.map fun y => { y with others := y.others.filter fun o => !(o == t.uid) } } := by
  rw [issued_eq ht h]
  simp only [State.thread?]
  rw [find_map_uid]
  intro x; simp only; split <;> rfl

/-- Counting the issue changes only what schedules the threads. -/
theorem only_issued {s : State} {t : Thread} (hs : Steady s t) (w : InstWord) : Only s (s.issued t.uid w) t t := by
  have ht := hs.found
  refine ⟨?_, ?_, ?_, ?_⟩
  · rw [thread_issued ht hs.unwatched, ht]
    exact ⟨_, rfl, by simp [Thread.bare], by simp⟩
  · intro n hn
    rw [thread_issued ht hs.unwatched]
    cases h : s.thread? n with
    | none => rfl
    | some x =>
      have := State.thread_uid h
      have : x.uid ≠ t.uid := by omega
      simp [this, Thread.bare]
  · intro c
    have e : (s.issued t.uid w).core c =
        (s.modCore t.core (fun c => { c with
        issued := some { uid := t.uid, word := w, pc := t.pc, head := s.traceHead 0 (some t) 0 }, slotIssue := insert c.slotIssue t.slot s.now })).core c := by
      rw [issued_eq ht hs.unwatched]; rfl
    rw [e, State.core_modCore]; split
    · subst_vars; rfl
    · rfl
  · rw [issued_eq ht hs.unwatched]; rfl

/-- The issuing thread after its issue has been counted. -/
theorem issued_thread {s : State} {t : Thread} (hs : Steady s t) (raw : InstWord) :
    ∃ x, (s.issued t.uid raw).thread? t.uid = some x ∧ x = { t with lastIssue := some s.now, yield := x.yield, proving := (s.core t.core).prove, stepIssued := true } := by
  have hi := thread_issued hs.found hs.unwatched raw t.uid
  rw [hs.found] at hi
  exact ⟨_, hi, by simp⟩

/-! ### Completing -/

theorem only_set {s s' : State} {t u x y : Thread} (h : Only s s' t u) (hx : s'.thread? t.uid = some x) (hy : y.uid = t.uid)
    (hp : (s.core t.core).prove = false → y.pwarn = x.pwarn) : Only s (s'.setThread y) t y := by
  obtain ⟨⟨t', h1, h2, h3⟩, ho, hc, hr⟩ := h
  rw [h1] at hx; cases hx
  refine ⟨⟨y, ?_, rfl, fun hf => by rw [hp hf, h3 hf]⟩, ?_, hc, hr⟩
  · rw [State.thread_setThread, h1]; simp [hy, State.thread_uid h1]
  · intro n hn
    rw [State.thread_setThread, ← ho n hn]
    cases h : s'.thread? n with
    | none => rfl
    | some z =>
      have := State.thread_uid h
      have : z.uid ≠ y.uid := by omega
      simp [this]

theorem retire_eq {s : State} {u : Nat} {t : Thread} (h : s.thread? u = some t) (h1 : t.stopPending = false) (h2 : t.stepping = false)
    (h3 : t.status = .ready) (w : InstWord) (r hint : Bool) (row : Nat) :
    s.retire u w r hint row = s.setThread ((t.completed t.proving w r hint row).advance) := by
  have e : (t.completed t.proving w r hint row).advance.setStat .ready = (t.completed t.proving w r hint row).advance := by
    unfold Thread.setStat
    have : (t.completed t.proving w r hint row).advance.status = .ready := h3
    simp only [this, Status.suspended]
    rw [← this]
    rfl
  simp only [State.retire, h, e]
  have h4 : (s.setThread ((t.completed t.proving w r hint row).advance)).thread? u =
      some ((t.completed t.proving w r hint row).advance) := by
    rw [State.thread_setThread, h]; simp [Thread.advance, Thread.completed]
  have h5 : ((t.completed t.proving w r hint row).advance).stopPending = false := h1
  have h6 : ((t.completed t.proving w r hint row).advance).stepping = false := h2
  simp [State.boundary, h4, h5, h6]

theorem only_retire {s s' : State} {t u x : Thread} (h : Only s s' t u) (hx : s'.thread? t.uid = some x) (h1 : x.stopPending = false)
    (h2 : x.stepping = false) (h3 : x.status = .ready) (hc : x.proving = (s.core t.core).prove) (w : InstWord) (r hint : Bool) (row : Nat) :
    Only s (s'.retire t.uid w r hint row) t x.past := by
  rw [retire_eq hx h1 h2 h3]
  have := only_set h hx (y := (x.completed x.proving w r hint row).advance) (show x.uid = t.uid from State.thread_uid hx)
    (by intro hf; rw [hc, hf]; rfl)
  obtain ⟨⟨t', a, b, c⟩, d, e, f⟩ := this
  exact ⟨⟨t', a, by rw [b]; rfl, c⟩, d, e, f⟩

theorem only_unwatched {s s' : State} {t u : Thread} (h : Only s s' t u) {j : Nat} (hu : (s.core j).Unwatched) : (s'.core j).Unwatched :=
  ⟨(congrArg Core.dbgc (h.cores j)).trans hu.1, (congrArg Core.pmsel (h.cores j)).trans hu.2⟩

/-- A change of the issuing thread by `g`, which keeps what schedules it, after its issue has been counted. -/
theorem only_mod {s s' : State} {t u x : Thread} (h : Only s s' t u) (hx : s'.thread? t.uid = some x) (g : Thread → Thread)
    (hu : ∀ y, (g y).uid = y.uid) (hp : ∀ y, (g y).pwarn = y.pwarn) : Only s (s'.modThread t.uid g) t (g x) := by
  obtain ⟨⟨t', h1, h2, h3⟩, ho, hc, hr⟩ := h
  rw [h1] at hx; cases hx
  refine ⟨⟨g x, ?_, rfl, fun hf => by rw [hp, h3 hf]⟩, ?_, hc, hr⟩
  · rw [State.thread_modThread _ _ _ _ hu, h1]; simp [State.thread_uid h1]
  · intro n hn
    rw [State.thread_modThread _ _ _ _ hu, ← ho n hn]
    cases h : s'.thread? n with
    | none => rfl
    | some z =>
      have := State.thread_uid h
      have : z.uid ≠ t.uid := by omega
      simp [this]

/-- The result of a destination that is at hand. -/
theorem only_put {s : State} {t : Thread} {f : Form} {raw : InstWord} (h : Ready s t f) (hr : f.d.role.writes = true) (v : Word) :
    ∃ y, ((s.readOperands t raw f false).put (s.readOperands t raw f false).popped v).thread? t.uid = some y ∧
      (∃ l z, y = { t.give f.d v with lastIssue := l, yield := z, proving := (s.core t.core).prove, stepIssued := true }) ∧
      Only s ((s.readOperands t raw f false).put (s.readOperands t raw f false).popped v) t y := by
  have hs := h.steady
  obtain ⟨x, hx, e⟩ := issued_thread hs raw
  have h0 := only_issued hs raw
  rw [readOperands_plain h raw]
  rcases h.d with hd | ⟨hd, _, _⟩ | ⟨hd, hz⟩ | ⟨hd, _⟩ | ⟨hg, hrg, ho, hf, hd⟩
  · simp [hd, Role.writes] at hr
  · simp [hd, Role.writes] at hr
  · have hgen : f.d.general = false := by simp [Opnd.general, hz]
    have hnum : f.d.num t.stagger = 56 := by simp [Opnd.num, Opnd.at, hgen, hz]
    have hput : ((plainCtx s t raw f).put (plainCtx s t raw f).popped v) = s.issued t.uid raw := by simp [plainCtx, Ctx.put, hnum]
    simp only [hput]
    refine ⟨x, hx, ⟨some s.now, x.yield, ?_⟩, ?_⟩
    · rw [e]; simp [Thread.give, hgen]
    · obtain ⟨⟨t', a, b, cc⟩, p, q, r⟩ := h0
      rw [hx] at a; cases a
      exact ⟨⟨x, hx, rfl, cc⟩, p, q, r⟩
  · simp [hd, Role.writes] at hr
  · have hlt : f.d.num t.stagger < 48 := by
      have : (s.core t.core).regCount ≤ 48 := by unfold Core.regCount; split <;> omega
      simp only [Opnd.range, hg] at hrg
      simp only [Opnd.num]
      split at hrg
      · simp at *
      · split at hrg
        · simp at hrg
        · omega
    have hU : ((s.issued t.uid raw).core x.core).Unwatched := by
      have : x.core = t.core := by rw [e]; rfl
      rw [this]; exact only_unwatched h0 hs.unwatched
    have hput : ((plainCtx s t raw f).put (plainCtx s t raw f).popped v) = (s.issued t.uid raw).setThread (x.write (f.d.num t.stagger) v) := by
      simp only [plainCtx, Ctx.put, hlt, if_true]
      exact State.writeReg_off hx hU true
    simp only [hput]
    refine ⟨x.write (f.d.num t.stagger) v, ?_, ⟨some s.now, x.yield, ?_⟩, ?_⟩
    · rw [State.thread_setThread, hx]; simp [Thread.write, Thread.setReg]
    · rw [e]; simp only [Thread.give, hg, if_true]; rfl
    · exact only_set h0 hx (show x.uid = t.uid from State.thread_uid hx) (fun _ => rfl)

/-- What completing leaves of the thread does not depend on what schedules it. -/
theorem only_finish_id {s : State} {t : Thread} {f : Form} {raw : InstWord} (h : Ready s t f) (hr : f.d.role.writes = true) (v : Word) :
    Only s ((s.readOperands t raw f false).finish v) t (t.give f.d v).past := by
  obtain ⟨y, hy, ⟨l, z, e⟩, ho⟩ := only_put (raw := raw) h hr v
  have hs := h.steady
  have ey : y.proving = (s.core t.core).prove ∧ y.stopPending = false ∧ y.stepping = false ∧ y.status = .ready := by
    rw [e]; unfold Thread.give; split <;> exact ⟨rfl, hs.noStop, hs.noStep, hs.ready⟩
  have hw : (s.readOperands t raw f false).raw = raw ∧ (s.readOperands t raw f false).uid = t.uid := by rw [readOperands_plain h raw]; exact ⟨rfl, rfl⟩
  have := only_retire ho hy ey.2.1 ey.2.2.1 ey.2.2.2 ey.1 raw (s.readOperands t raw f false).rsvd false
    (s.readOperands t raw f false).row
  simp only [Ctx.finish, Ctx.done, hw]
  obtain ⟨⟨t', a, b, cc⟩, r, r2, r3⟩ := this
  exact ⟨⟨t', a, by rw [b, e]; rfl, cc⟩, r, r2, r3⟩

theorem Thread.give_keeps (t : Thread) (o : Opnd) (v : Word) : (t.give o v).tid = t.tid ∧ (t.give o v).stopPending = t.stopPending ∧
    (t.give o v).stepping = t.stepping ∧ (t.give o v).status = t.status := by
  unfold Thread.give; split <;> exact ⟨rfl, rfl, rfl, rfl⟩

/-- An instruction that writes its result, changes its thread by `g`, and completes. -/
theorem only_finish {s : State} {t : Thread} {f : Form} {raw : InstWord} (h : Ready s t f) (hr : f.d.role.writes = true) (v : Word)
    (g : Thread → Thread) (hu : ∀ y, (g y).uid = y.uid ∧ (g y).pwarn = y.pwarn ∧ (g y).tid = y.tid ∧ (g y).stopPending = y.stopPending ∧
      (g y).stepping = y.stepping ∧ (g y).status = y.status ∧ (g y).proving = y.proving)
    (hg : ∀ y : Thread, ∀ l z q k, g { y with lastIssue := l, yield := z, proving := q, stepIssued := k } =
      { g y with lastIssue := l, yield := z, proving := q, stepIssued := k }) :
    Only s ((s.readOperands t raw f false).done
      (((s.readOperands t raw f false).put (s.readOperands t raw f false).popped v).modThread t.uid g)) t (g (t.give f.d v)).past := by
  obtain ⟨y, hy, ⟨l, z, e⟩, ho⟩ := only_put (raw := raw) h hr v
  have hs := h.steady
  obtain ⟨q1, q2, q3, q4⟩ := t.give_keeps f.d v
  have hc := only_mod ho hy g (fun y => (hu y).1) (fun y => (hu y).2.1)
  have hy' : (((s.readOperands t raw f false).put (s.readOperands t raw f false).popped v).modThread t.uid g).thread? t.uid = some (g y) := by
    rw [State.thread_modThread _ _ _ _ (fun y => (hu y).1), hy]; simp [State.thread_uid hy]
  have ey : y.proving = (s.core t.core).prove ∧ y.stopPending = false ∧ y.stepping = false ∧ y.status = .ready := by
    rw [e]; exact ⟨rfl, q2.trans hs.noStop, q3.trans hs.noStep, q4.trans hs.ready⟩
  have hw : (s.readOperands t raw f false).raw = raw ∧ (s.readOperands t raw f false).uid = t.uid := by rw [readOperands_plain h raw]; exact ⟨rfl, rfl⟩
  have hh := hu y
  have := only_retire hc hy' (hh.2.2.2.1.trans ey.2.1) (hh.2.2.2.2.1.trans ey.2.2.1) (hh.2.2.2.2.2.1.trans ey.2.2.2)
    (hh.2.2.2.2.2.2.trans ey.1) raw (s.readOperands t raw f false).rsvd false (s.readOperands t raw f false).row
  simp only [Ctx.done, hw]
  obtain ⟨⟨t', a, b, cc⟩, r, r2, r3⟩ := this
  exact ⟨⟨t', a, by rw [b, e, hg]; rfl, cc⟩, r, r2, r3⟩

/-! ### The two shapes of a scalar instruction -/

/-- An instruction whose one effect is its result. -/
theorem compute_ready {s : State} {t : Thread} {f : Form} {i : Instr} {v : Ctx → Word} (h : Ready s t f) (hr : f.d.role.writes = true) :
    ∃ s', s.compute i f v = .next s' ∧ Only s s' t (t.give f.d (v (plainCtx s t (encodeWord i) f))).past := by
  refine ⟨_, ?_, only_finish_id (raw := encodeWord i) h hr _⟩
  simp only [State.compute, State.issue, h.steady.issues, State.issueThread, attempt_ready h, readOperands_plain h]

/-- An instruction whose effects are its result and its flags. -/
theorem computeFp_ready {s : State} {t : Thread} {f : Form} {i : Instr} {v : Ctx → Nat × Flags} (h : Ready s t f)
    (hr : f.d.role.writes = true) :
    ∃ s', s.computeFp i f v = .next s' ∧ Only s s' t
      { t.give f.d (w64 (v (plainCtx s t (encodeWord i) f)).1) with
        fpflags := t.fpflags ||| (v (plainCtx s t (encodeWord i) f)).2 }.past := by
  have ho := only_finish (raw := encodeWord i) h hr (w64 (v (plainCtx s t (encodeWord i) f)).1)
    (fun y => { y with fpflags := y.fpflags ||| (v (plainCtx s t (encodeWord i) f)).2 })
    (fun _ => ⟨rfl, rfl, rfl, rfl, rfl, rfl, rfl⟩) (fun _ _ _ _ _ => rfl)
  have e : (t.give f.d (w64 (v (plainCtx s t (encodeWord i) f)).1)).fpflags = t.fpflags := by unfold Thread.give; split <;> rfl
  simp only [e] at ho
  refine ⟨_, ?_, ho⟩
  simp only [State.computeFp, State.issue, h.steady.issues, State.issueThread, attempt_ready h, State.raiseFlags, readOperands_plain h]
  rfl

end Sys2Proof.Machine
end

