-- ==== Sys2Proof/Laws/Memory.lean ====
section
/-! SUPPORT. The laws of memory: a byte written is the byte read, no other byte changes, and every operation on the bytes keeps their
canonical form. -/

namespace Sys2Proof.Machine

theorem Memory.read_write (m : List Host.Cell) (a j : Nat) (b : Byte) (lo : Nat) (h : Memory.wfFrom lo m = true) :
    Memory.read (Memory.write m a b) j = if a = j then b else Memory.read m j := by
  induction m generalizing lo with
  | nil => simp only [Memory.write]; split <;> simp_all [Memory.read]
  | cons e m ih =>
    obtain ⟨k, v⟩ := e
    simp only [Memory.wfFrom, Bool.and_eq_true, decide_eq_true_eq] at h
    have low : ∀ (m : List Host.Cell) (lo j : Nat), Memory.wfFrom lo m = true → j < lo → Memory.read m j = Memory.unlisted := by
      intro m
      induction m with
      | nil => intros; rfl
      | cons e m ih =>
        obtain ⟨k, v⟩ := e
        intro lo j h hj
        simp only [Memory.wfFrom, Bool.and_eq_true, decide_eq_true_eq] at h
        have hk : ¬ k = j := by omega
        simp only [Memory.read, hk, if_false]
        exact ih (k + 1) j h.2 (by omega)
    simp only [Memory.write]
    split
    · simp only [Memory.read, ih _ h.2]
      split
      · have : ¬ a = j := by omega
        simp [this]
      · rfl
    · split
      · subst_vars
        split
        · rename_i hb
          by_cases hj : k = j
          · subst hj; simp [hb, low m (k + 1) k h.2 (by omega)]
          · simp [Memory.read, hj]
        · by_cases hj : k = j <;> simp [Memory.read, hj]
      · split
        · rename_i hb
          by_cases hj : a = j
          · subst hj
            have hk : ¬ k = a := by omega
            simp [Memory.read, hk, hb, low m (k + 1) a h.2 (by omega)]
          · simp [hj]
        · simp [Memory.read]

theorem Memory.wfFrom_mono {m : List Host.Cell} {lo lo' : Nat} (h : Memory.wfFrom lo m = true) (hl : lo' ≤ lo) : Memory.wfFrom lo' m = true := by
  cases m with
  | nil => rfl
  | cons e m =>
    obtain ⟨k, v⟩ := e
    simp only [Memory.wfFrom, Bool.and_eq_true, decide_eq_true_eq] at h ⊢
    exact ⟨⟨by omega, h.1.2⟩, h.2⟩

theorem Memory.wfFrom_write {m : List Host.Cell} {lo a : Nat} {b : Byte} (h : Memory.wfFrom lo m = true) (hl : lo ≤ a) :
    Memory.wfFrom lo (Memory.write m a b) = true := by
  induction m generalizing lo with
  | nil => simp only [Memory.write]; split <;> simp_all [Memory.wfFrom]
  | cons e m ih =>
    obtain ⟨k, v⟩ := e
    have h' := h
    simp only [Memory.wfFrom, Bool.and_eq_true, decide_eq_true_eq] at h
    simp only [Memory.write]
    split
    · simp only [Memory.wfFrom, Bool.and_eq_true, decide_eq_true_eq]
      exact ⟨h.1, ih h.2 (by omega)⟩
    · split
      · split
        · exact Memory.wfFrom_mono h.2 (by omega)
        · subst_vars
          simp only [Memory.wfFrom, Bool.and_eq_true, decide_eq_true_eq]
          exact ⟨⟨hl, by assumption⟩, h.2⟩
      · split
        · exact h'
        · simp only [Memory.wfFrom, Bool.and_eq_true, decide_eq_true_eq]
          exact ⟨⟨hl, by assumption⟩, ⟨by omega, h.1.2⟩, h.2⟩

/-- A write of one byte keeps the canonical form. -/
theorem Memory.wf_write {m : List Host.Cell} (h : Memory.wf m = true) (a : Nat) (b : Byte) : Memory.wf (Memory.write m a b) = true :=
  Memory.wfFrom_write h (Nat.zero_le _)

/-- A write of bytes keeps the canonical form. -/
theorem Memory.wf_writeBytes {m : List Host.Cell} (h : Memory.wf m = true) (a : Nat) (bs : List Byte) :
    Memory.wf (Memory.writeBytes m a bs) = true := by
  induction bs generalizing m a with
  | nil => exact h
  | cons b bs ih => exact ih (Memory.wf_write h a b) (a + 1)

/-- Taking entries out keeps the canonical form. -/
theorem Memory.wfFrom_filter {m : List Host.Cell} {lo : Nat} (p : Host.Cell → Bool) (h : Memory.wfFrom lo m = true) :
    Memory.wfFrom lo (m.filter p) = true := by
  induction m generalizing lo with
  | nil => rfl
  | cons e m ih =>
    obtain ⟨k, v⟩ := e
    simp only [Memory.wfFrom, Bool.and_eq_true, decide_eq_true_eq] at h
    simp only [List.filter]
    split
    · simp only [Memory.wfFrom, Bool.and_eq_true, decide_eq_true_eq]
      exact ⟨h.1, ih h.2⟩
    · exact ih (Memory.wfFrom_mono h.2 (by omega))

theorem Memory.wf_filter {m : List Host.Cell} (p : Host.Cell → Bool) (h : Memory.wf m = true) : Memory.wf (m.filter p) = true :=
  Memory.wfFrom_filter p h

/-- The bytes that a write of `bs` leaves: those of `bs` from `a` on, and what stood elsewhere. -/
theorem Memory.read_writeBytes {m : List Host.Cell} (h : Memory.wf m = true) (a : Nat) (bs : List Byte) (j : Nat) :
    Memory.read (Memory.writeBytes m a bs) j = if a ≤ j ∧ j < a + bs.length then bs.getD (j - a) 0 else Memory.read m j := by
  induction bs generalizing m a with
  | nil =>
    have : ¬ (a ≤ j ∧ j < a + ([] : List Byte).length) := by simp
    rw [if_neg this]; rfl
  | cons b bs ih =>
    simp only [Memory.writeBytes, ih (Memory.wf_write h a b), Memory.read_write m a j b 0 h, List.length_cons]
    by_cases h1 : a = j
    · subst h1
      have : ¬ (a + 1 ≤ a ∧ a < a + 1 + bs.length) := by omega
      rw [if_neg this]; simp
    · by_cases h2 : a + 1 ≤ j ∧ j < a + 1 + bs.length
      · have h3 : a ≤ j ∧ j < a + (bs.length + 1) := by omega
        have h4 : j - a = (j - (a + 1)) + 1 := by omega
        rw [if_pos h2, if_pos h3, h4, List.getD_cons_succ]
      · have h3 : ¬ (a ≤ j ∧ j < a + (bs.length + 1)) := by omega
        rw [if_neg h2, if_neg h3, if_neg h1]

theorem length_toBytes (n x : Nat) : (toBytes n x).length = n := by
  induction n generalizing x with
  | zero => rfl
  | succ n ih => simp [toBytes, ih]

/-- A store changes no other byte. -/
theorem State.byte_store {s : State} (h : s.MemOk) (pa n x j : Nat) (hj : j < pa ∨ pa + n ≤ j) :
    (s.store pa n x).byte j = s.byte j := by
  have : ¬ (pa ≤ j ∧ j < pa + (toBytes n x).length) := by rw [length_toBytes]; omega
  simp only [State.byte, State.store]
  rw [Memory.read_writeBytes h, if_neg this]

/-- A scrub keeps the canonical form. -/
theorem State.memOk_scrubRange {s : State} (h : s.MemOk) (lo hi : Nat) : (s.scrubRange lo hi).MemOk := Memory.wf_filter _ h

/-- A store keeps the canonical form. -/
theorem State.memOk_store {s : State} (h : s.MemOk) (pa n x : Nat) : (s.store pa n x).MemOk := Memory.wf_writeBytes h pa _

end Sys2Proof.Machine
end

