-- ==== Sys2Proof/Tests/Slice0.lean ====
section
/-! SUPPORT. Tests of the model by kernel evaluation: words written out from the encoding tables, ill-formed terms, and for every
statement with hypotheses a witness that meets them. Expected values are computed by hand from the rules named. -/

set_option maxRecDepth 100000

namespace Sys2Proof.Tests

open Sys2Proof Sys2Proof.Machine

/-! ### Benches: small states -/

/-- The descriptor of tenant 5: some pool contexts and stream entries, 1 MiB of scratchpad on each core, four
keys, the whole module. -/
def benchDesc : List Word :=
  [0x1000, 0x401, 0x1000000100, 0x340020000 ||| 0x40000000, 0, 0, 0, 0x80004] ++ List.replicate 20 (BitVec.allOnes 64) ++ [0x40000, 0, 0, 0]

/-- One thread of tenant 5 at the given level in a pool context of a core in service mode, with the registers `g`. -/
def bench (core : Nat) (lvl : Level) (g : List Word) (f : Thread → Thread) : State :=
  { State.reset with
    cores := [(core, { Core.reset with prove := false })]
    threads := [f (Thread.fresh 1 (core * 512 + 8) 5 lvl .day 0x1000 g)]
    tenants := [(0, Tenant.ofDesc curatorDesc), (5, Tenant.ofDesc benchDesc)], cur := 1, nextUid := 2 }

/-- The same thread, of tenant 0 at curator level. -/
def curator (core : Nat) (g : List Word) : State := bench core .curator g fun t => { t with tenant := 0 }

/-- The thread of a bench. -/
def one (s : State) : Thread := (s.thread? 1).getD (Thread.fresh 9 0 0 .user .day 0 [])

/-- An address in the local scratchpad window, which needs no page table (R74). -/
def loc (off : Nat) : Word := w64 (windowBase + off)

/-- Page tables of tenant 5 (and 0) that map the first GiB to itself, and core 0's cached translation of it (R92, R95). -/
def paged (s : State) : State :=
  (((s.storeWord 0x1000 0x2001).storeWord 0x2000 0x3001).storeWord 0x3000 0x1F).modCore 0 fun c =>
    { c with tlb := [{ tenant := 5, va := 0, size := 30, leaf := 0x1F }, { tenant := 0, va := 0, size := 30, leaf := 0x1F }] }

/-- `i` issues in `s` with the fields `f`, and `ok` holds of what it knows. -/
def runs (s : State) (i : Instr) (f : Form) (ok : Ctx → State → Bool) : Bool :=
  match s.thread? s.cur with
  | none => false
  | some t => match s.attempt t (encodeWord i) f with
    | .runs c s1 => ok c s1
    | .stops _ => false

theorem runs_of {s : State} {i : Instr} {f : Form} {ok : Ctx → State → Bool} (h : runs s i f ok = true) :
    ∃ c s1, Runs s i (fun _ _ => f) c s1 ∧ ok c s1 = true := by
  unfold runs at h
  split at h
  · cases h
  next t ht =>
    split at h
    next c s1 hr => exact ⟨c, s1, ⟨t, ht, hr⟩, h⟩
    next => cases h

/-- The words that a descriptor read finds, and the state behind the reads. -/
def finds? (c : Ctx) (s : State) (va : Word) (pa n : Nat) : Option (List Word × State × State) :=
  let ws := (List.range n).map fun i => pa + 8 * i
  let look (s : State) : State := ws.foldl (fun s w => s.touch c.t w) (s.refusesDesc c.t pa).2
  if (s.refusesDesc c.t pa).1 || !s.mayTouch ws then none
  else match (List.range n).find? fun i => (look s).poisoned (pa + 8 * i) with
  | some _ => none
  | none =>
    let read (s : State) : List Word × State := ((look s).compareRead c.uid va pa (8 * n)).descWords pa n
    let p := read (c.popped.dropReadAhead c.uid)
    some (p.1, (read s).2, p.2)

theorem finds_of {c : Ctx} {s : State} {va : Word} {pa n : Nat} {r : List Word × State × State} (h : finds? c s va pa n = some r) :
    c.Finds s va pa n r.1 r.2.1 r.2.2 := by
  intro k
  unfold finds? at h
  unfold Ctx.readWords
  simp only at h ⊢
  split at h
  · cases h
  next hg =>
    simp only [Bool.or_eq_true, Bool.not_eq_true', not_or, Bool.not_eq_true, Bool.not_eq_false] at hg
    simp only [hg.1, hg.2, Bool.false_eq_true, if_false, Bool.not_true]
    split at h
    · cases h
    next hn => cases h; simp only [hn]

/-- A descriptor read that passes every check, with what `ok` says of its words, of the state as read and of that behind. -/
def descrAt (c : Ctx) (s : State) (va : Word) (n : Nat) (rd wr : Bool) (ok : Nat → List Word → State → State → Bool) : Bool :=
  decide (va.toNat < windowEnd ∧ va.toNat % n = 0) &&
    match s.reach c.t va.toNat n rd wr with
    | .ok pa => (s.lostByte c.t pa n).isNone && match finds? c s va pa (n / 8) with
      | some r => ok pa r.1 r.2.1 r.2.2
      | none => false
    | _ => false

/-- The same, when only the state behind matters. -/
def descr (c : Ctx) (s : State) (va : Word) (n : Nat) (rd wr : Bool) (ok : Nat → List Word → State → Bool) : Bool :=
  descrAt c s va n rd wr fun pa ws _ p => ok pa ws p

/-- The address checks pass. -/
def reaches (c : Ctx) (s : State) (va : Word) (n : Nat) (rd wr tag : Bool) : Bool :=
  decide (va.toNat < windowEnd ∧ va.toNat % n = 0) &&
    match s.reach c.t va.toNat n rd wr with
    | .ok pa => (!tag || tagged pa) && (s.lostByte c.t pa n).isNone
    | _ => false

theorem reaches_of {c : Ctx} {s : State} {va : Word} {n : Nat} {rd wr tag : Bool} (h : reaches c s va n rd wr tag = true) :
    ∃ pa, c.Reaches s va n rd wr tag pa := by
  unfold reaches at h
  cases hr : s.reach c.t va.toNat n rd wr with
  | ok pa =>
    simp only [hr, Bool.and_eq_true, decide_eq_true_eq, Bool.or_eq_true, Bool.not_eq_true', Option.isNone_iff_eq_none] at h
    exact ⟨pa, h.1.1, h.1.2, hr, fun ht => by rcases h.2.1 with h | h <;> simp_all, h.2.2⟩
  | miss => simp [hr] at h
  | bad _ => simp [hr] at h

/-- No access of the thread is outstanding and no trap of it deferred. -/
def drained (c : Ctx) (s : State) : Bool := decide (c.t.owed = [] ∧ s.drained c.uid = true)

/-- The thread of the bench finds everything at hand. -/
def ready (s : State) (t : Thread) (f : Form) : Bool :=
  let plain (o : Opnd) : Bool := decide (o.role = .off ∨ (o.role = .name ∧ 48 ≤ o.code ∧ o.code < 56 ∧ s.resultDue t.uid o.code = false) ∨ (o.role ≠ .name ∧ o.code = 56) ∨
    (o.role = .src ∧ o.code = 59) ∨ (o.general = true ∧ o.range t.stagger (s.core t.core).regCount = none ∧ o.odd t.stagger = none ∧
      (o.role.reads = true → ∀ n ∈ o.regs t.stagger, (t.reg n).full = true ∧ (t.reg n).ecc = .ok) ∧
      (o.role.writes = true → ∀ n ∈ o.regs t.stagger, (t.reg n).due = false)))
  decide (s.thread? s.cur = some t ∧ t.status = .ready ∧ t.hit = none ∧ t.deferred = [] ∧ t.stopPending = false ∧ t.stepping = false) &&
    decide ((s.core t.core).dbgc = Vector.replicate 8 0 ∧ (s.core t.core).pmsel = Vector.replicate 8 0) &&
    decide (f.illegal = false ∧ f.denied = false ∧ f.level.num ≤ t.level.num ∧ (f.row = 0 ∨ (s.core t.core).prove = true)) &&
    plain f.a && plain f.b && plain f.d

theorem ready_of {s : State} {t : Thread} {f : Form} (h : ready s t f = true) : Ready s t f := by
  simp only [ready, Bool.and_eq_true, decide_eq_true_eq] at h
  obtain ⟨⟨⟨⟨⟨⟨h1, h2, h3, h4, h5, h6⟩, h7⟩, h8⟩, ha⟩, hb⟩, hd⟩ := h
  exact ⟨⟨h1, h2, h3, h4, h5, h6, h7⟩, h8, ha, hb, hd⟩

/-- A next state of which `k` holds. -/
def next (o : Host.Outcome State Fault Refusal) (k : State → Bool) : Bool :=
  match o with
  | .next s => k s
  | _ => false

/-- Register `n` of the thread of a bench. -/
def reg (s : State) (n : Nat) : Word := ((one s).reg n).val

/-- Every word of the list decodes to the instruction beside it. -/
def decodes (l : List (InstWord × Instr)) : Bool := l.all fun x => match decodeWord x.1 with
  | .ok i => decide (i = x.2)
  | .error _ => false

/-- The word is refused for this reason. -/
def refuses (w : InstWord) (e : DecodeError) : Bool := match decodeWord w with
  | .ok _ => false
  | .error x => decide (x = e)

/-- The latch of a fault whose record has been sent. -/
def latchOf (cause : BitVec 8) : Latch :=
  { word := 0x04000000, shown := 0x04000000, pc := 0x1000, pass := 0, idx := 0, cause := cause, val := 7, detail := 0, sent := true,
    walk := false, double := false, fetch := false, barrier := 0, trapped := false }

/-- A REP state at body word 0 of pass 0. -/
def repOf (start : Word) (len cnt : Nat) (stride : BitVec 6) : Rep :=
  { start := start, len := len, cnt := cnt, stride := stride, pass := 0, idx := 0, body := List.replicate len 0x04000000 }

/-- No operand, and one in ga or in gb. -/
def f0 : Form := Form.plain
def fA (a : BitVec 6) : Form := { Form.plain with a := opA .src a 0 }
def fAB (a b : BitVec 6) : Form := { Form.plain with a := opA .src a 0, b := opB .src b 0 }
def fD (d : BitVec 6) : Form := { Form.plain with d := opD .dst d }
def fAD (a d : BitVec 6) : Form := { Form.plain with a := opA .src a 0, d := opD .dst d }
/-- The same form at another level. -/
def lvl (f : Form) (l : Level) : Form := { f with level := l }

/-! ### Decoding: a word of every instruction, written out from the formats of R22 and the function codes of R324 to R337 -/

theorem test_decode_intR : decodes [
  (0b000001_000011_100001_010010_1_0_000000, .add 3 33 18 1 0),
  (0b000001_000011_100001_010010_1_0_000001, .sub 3 33 18 1 0),
  (0b000001_000011_100001_010010_1_0_000010, .and 3 33 18 1 0),
  (0b000001_000011_100001_010010_1_0_000011, .or 3 33 18 1 0),
  (0b000001_000011_100001_010010_1_0_000100, .xor 3 33 18 1 0),
  (0b000001_000011_100001_010010_1_0_000101, .andn 3 33 18 1 0),
  (0b000001_000011_100001_010010_1_0_000110, .shl 3 33 18 1 0),
  (0b000001_000011_100001_010010_1_0_000111, .shr 3 33 18 1 0),
  (0b000001_000011_100001_010010_1_0_001000, .sra 3 33 18 1 0),
  (0b000001_000011_100001_010010_1_0_001001, .rot 3 33 18 1 0),
  (0b000001_000011_100001_010010_1_0_001010, .min 3 33 18 1 0),
  (0b000001_000011_100001_010010_1_0_001011, .minU 3 33 18 1 0),
  (0b000001_000011_100001_010010_1_0_001100, .max 3 33 18 1 0),
  (0b000001_000011_100001_010010_1_0_001101, .maxU 3 33 18 1 0),
  (0b000001_000011_100001_010010_1_0_001110, .sel 3 33 18 1 0),
  (0b000001_000011_100001_010010_1_0_010_101, .cmp 3 33 18 1 0 5),
  (0b000001_000011_100001_010010_1_0_011000, .clz 3 33 18 1 0),
  (0b000001_000011_100001_010010_1_0_011001, .ctz 3 33 18 1 0),
  (0b000001_000011_100001_010010_1_0_011010, .popc 3 33 18 1 0),
  (0b000001_000011_100001_010010_1_0_011100, .ext 3 33 18 1 0),
  (0b000001_000011_100001_010010_1_0_011101, .ins 3 33 18 1 0),
  (0b000001_000011_100001_010010_1_0_100000, .addW 3 33 18 1 0),
  (0b000001_000011_100001_010010_1_0_100001, .subW 3 33 18 1 0),
  (0b000001_000011_100001_010010_1_0_100110, .shlW 3 33 18 1 0),
  (0b000001_000011_100001_010010_1_0_100111, .shrW 3 33 18 1 0),
  (0b000001_000011_100001_010010_1_0_101000, .sraW 3 33 18 1 0)] = true := by decide

theorem test_decode_mulDivR : decodes [
  (0b000010_000011_100001_010010_1_0_000000, .mul 3 33 18 1 0),
  (0b000010_000011_100001_010010_1_0_000001, .mulh 3 33 18 1 0),
  (0b000010_000011_100001_010010_1_0_000010, .mulhU 3 33 18 1 0),
  (0b000010_000011_100001_010010_1_0_000011, .mulhSu 3 33 18 1 0),
  (0b000010_000011_100001_010010_1_0_000100, .div 3 33 18 1 0),
  (0b000010_000011_100001_010010_1_0_000101, .divU 3 33 18 1 0),
  (0b000010_000011_100001_010010_1_0_000110, .rem 3 33 18 1 0),
  (0b000010_000011_100001_010010_1_0_000111, .remU 3 33 18 1 0),
  (0b000010_000011_100001_010010_1_0_001000, .mulW 3 33 18 1 0)] = true := by decide

theorem test_decode_immediates : decodes [
  (0b000011_000011_100001_1_1000000000011, .addImm 3 33 1 4099),
  (0b000100_000011_100001_1_1000000000011, .andImm 3 33 1 4099),
  (0b000101_000011_100001_1_1000000000011, .orImm 3 33 1 4099),
  (0b000110_000011_100001_1_1000000000011, .xorImm 3 33 1 4099),
  (0b000111_000011_100001_1_00_10110_110110, .shlImm 3 33 1 22 54),
  (0b000111_000011_100001_1_01_10110_110110, .shrImm 3 33 1 22 54),
  (0b000111_000011_100001_1_10_10110_110110, .sraImm 3 33 1 22 54),
  (0b000111_000011_100001_1_11_10110_110110, .rotImm 3 33 1 22 54),
  (0b001000_000011_100001_1_101_1000000101, .cmpImm 3 33 1 5 517)] = true := by decide

theorem test_decode_upper : decodes [
  (0b001001_000011_10000000000000000101, .lih 3 524293),
  (0b001010_000011_10000000000000000101, .addpc 3 524293)] = true := by decide

theorem test_decode_loadsAndStores : decodes [
  (0b010000_011000_010010_1_10_1_10_1_1000001, .ld 24 18 1 2 1 2 1 65),
  (0b010001_011000_010010_1_10_1_10_1_1000001, .st 24 18 1 2 1 2 1 65),
  (0b010010_011000_010010_1_10_1_10_1_1000001, .ldp 24 18 1 2 1 2 1 65),
  (0b010011_011000_010010_1_10_1_10_1_1000001, .stp 24 18 1 2 1 2 1 65)] = true := by decide

theorem test_decode_amo : decodes [
  (0b010100_000011_100001_010010_1_0_1_1_0101, .amo 3 33 18 1 0 1 1 5)] = true := by decide

theorem test_decode_cas : decodes [
  (0b010101_000011_100001_010010_1_0_1_0000_1, .cas 3 33 18 1 0 1 1)] = true := by decide

theorem test_decode_tagAndWatch : decodes [
  (0b010110_000011_100001_010010_1_0_000000, .tagrd 3 33 18 1 0),
  (0b010110_000011_100001_010010_1_0_000001, .tagset 3 33 18 1 0),
  (0b010110_000011_100001_010010_1_0_000010, .watch 3 33 18 1 0),
  (0b010110_000011_100001_010010_1_0_000011, .unwatch 3 33 18 1 0)] = true := by decide

theorem test_decode_fenceAndHeap : decodes [
  (0b010111_000011_100001_010010_1_0_000000, .fenceT 3 33 18 1 0),
  (0b010111_000011_100001_010010_1_0_000001, .fenceD 3 33 18 1 0),
  (0b010111_000011_100001_010010_1_0_000010, .fenceS 3 33 18 1 0),
  (0b010111_000011_100001_010010_1_0_000100, .halloc 3 33 18 1 0),
  (0b010111_000011_100001_010010_1_0_000101, .hallocNf 3 33 18 1 0),
  (0b010111_000011_100001_010010_1_0_000110, .hfree 3 33 18 1 0)] = true := by decide

theorem test_decode_branches : decodes [
  (0b011000_100001_010010_101_10000001001, .b 33 18 5 1033),
  (0b011001_10000000000000000000010101, .j 33554453),
  (0b011010_000011_10000000000000000101, .jal 3 524293),
  (0b011011_000011_100001_1_1000000000011, .jalr 3 33 1 4099),
  (0b011100_110110_100001_1_100000011_0101, .rep 54 33 1 259 5)] = true := by decide

theorem test_decode_fpA : decodes [
  (0b011101_000011_100001_010010_1_0_0000_10, .fadd 3 33 18 1 0 2),
  (0b011101_000011_100001_010010_1_0_0001_10, .fsub 3 33 18 1 0 2),
  (0b011101_000011_100001_010010_1_0_0010_10, .fmul 3 33 18 1 0 2),
  (0b011101_000011_100001_010010_1_0_0011_10, .fma 3 33 18 1 0 2),
  (0b011101_000011_100001_010010_1_0_0100_10, .fmaN 3 33 18 1 0 2),
  (0b011101_000011_100001_010010_1_0_0101_10, .fdiv 3 33 18 1 0 2),
  (0b011101_000011_100001_010010_1_0_0110_10, .fsqrt 3 33 18 1 0 2),
  (0b011101_000011_100001_010010_1_0_0111_10, .fmin 3 33 18 1 0 2),
  (0b011101_000011_100001_010010_1_0_1000_10, .fmax 3 33 18 1 0 2),
  (0b011101_000011_100001_010010_1_0_1001_10, .fminn 3 33 18 1 0 2),
  (0b011101_000011_100001_010010_1_0_1010_10, .fmaxn 3 33 18 1 0 2),
  (0b011101_000011_100001_010010_1_0_1011_10, .fsgnJ 3 33 18 1 0 2),
  (0b011101_000011_100001_010010_1_0_1100_10, .fsgnN 3 33 18 1 0 2),
  (0b011101_000011_100001_010010_1_0_1101_10, .fsgnX 3 33 18 1 0 2),
  (0b011101_000011_100001_010010_1_0_1110_10, .fclass 3 33 18 1 0 2),
  (0b011101_000011_100001_010010_1_0_1111_10, .frnd 3 33 18 1 0 2)] = true := by decide

theorem test_decode_fpC : decodes [
  (0b011110_000011_100001_010010_1_0_00_10_10, .fcmp 3 33 18 1 0 2 2),
  (0b011110_000011_100001_1_101_10_1_0_0100_10, .fcvt 3 33 1 5 2 1 0 2),
  (0b011110_000011_100001_010010_1_0_0101_10, .fcvti 3 33 18 1 0 2),
  (0b011110_000011_100001_010010_1_0_0110_10, .fcvtiU 3 33 18 1 0 2),
  (0b011110_000011_100001_010010_1_0_1000_10, .icvtf 3 33 18 1 0 2),
  (0b011110_000011_100001_010010_1_0_1001_10, .icvtfU 3 33 18 1 0 2)] = true := by decide

theorem test_decode_vF : decodes [
  (0b100000_000011_100001_010010_1_0_0000_10, .vaddF 3 33 18 1 0 2),
  (0b100000_000011_100001_010010_1_0_0001_10, .vsubF 3 33 18 1 0 2),
  (0b100000_000011_100001_010010_1_0_0010_10, .vmulF 3 33 18 1 0 2),
  (0b100000_000011_100001_010010_1_0_0011_10, .vfma 3 33 18 1 0 2),
  (0b100000_000011_100001_010010_1_0_0100_10, .vfmaN 3 33 18 1 0 2),
  (0b100000_000011_100001_010010_1_0_0101_10, .vminF 3 33 18 1 0 2),
  (0b100000_000011_100001_010010_1_0_0110_10, .vmaxF 3 33 18 1 0 2),
  (0b100000_000011_100001_010010_1_0_0111_10, .vminn 3 33 18 1 0 2),
  (0b100000_000011_100001_010010_1_0_1000_10, .vmaxn 3 33 18 1 0 2),
  (0b100000_000011_100001_010010_1_0_1001_10, .vcmpEqF 3 33 18 1 0 2),
  (0b100000_000011_100001_010010_1_0_1010_10, .vcmpLtF 3 33 18 1 0 2),
  (0b100000_000011_100001_010010_1_0_1011_10, .vcmpLeF 3 33 18 1 0 2),
  (0b100000_000011_100001_010010_1_0_1100_10, .vselF 3 33 18 1 0 2),
  (0b100000_000011_100001_010010_1_0_1101_10, .vred 3 33 18 1 0 2),
  (0b100000_000011_100001_010010_1_0_1110_10, .vredMax 3 33 18 1 0 2),
  (0b100000_000011_100001_010010_1_0_1111_10, .vredMin 3 33 18 1 0 2)] = true := by decide

theorem test_decode_vI : decodes [
  (0b100001_000011_100001_010010_1_0_0000_10, .vaddI 3 33 18 1 0 2),
  (0b100001_000011_100001_010010_1_0_0001_10, .vsubI 3 33 18 1 0 2),
  (0b100001_000011_100001_010010_1_0_0010_10, .vmulI 3 33 18 1 0 2),
  (0b100001_000011_100001_010010_1_0_0011_10, .vminI 3 33 18 1 0 2),
  (0b100001_000011_100001_010010_1_0_0100_10, .vmaxI 3 33 18 1 0 2),
  (0b100001_000011_100001_010010_1_0_0101_10, .vand 3 33 18 1 0 2),
  (0b100001_000011_100001_010010_1_0_0110_10, .vor 3 33 18 1 0 2),
  (0b100001_000011_100001_010010_1_0_0111_10, .vxor 3 33 18 1 0 2),
  (0b100001_000011_100001_010010_1_0_1000_10, .vshl 3 33 18 1 0 2),
  (0b100001_000011_100001_010010_1_0_1001_10, .vshr 3 33 18 1 0 2),
  (0b100001_000011_100001_010010_1_0_1010_10, .vshrA 3 33 18 1 0 2),
  (0b100001_000011_100001_010010_1_0_1011_10, .vcmpEqI 3 33 18 1 0 2),
  (0b100001_000011_100001_010010_1_0_1100_10, .vcmpLtI 3 33 18 1 0 2),
  (0b100001_000011_100001_010010_1_0_1101_10, .vselI 3 33 18 1 0 2),
  (0b100001_000011_100001_010010_1_0_1110_10, .vredW 3 33 18 1 0 2)] = true := by decide

theorem test_decode_vX : decodes [
  (0b100010_000011_100001_10_0101_1_0_00_0101, .vcvt 3 33 2 5 1 0 5),
  (0b100010_000011_100001_10_0101_1_0_11_0101, .vcvtSat 3 33 2 5 1 0 5),
  (0b100010_000011_100001_010010_1_0_01_0101, .vperm 3 33 18 1 0 5),
  (0b100010_000011_100001_0101_10_1_0_10_0101, .vsf 3 33 5 2 1 0 5)] = true := by decide

theorem test_decode_exact : decodes [
  (0b100100_000011_100001_010010_1_0_101_000, .xclr 3 33 18 1 0 5),
  (0b100100_000011_100001_010010_1_0_101_001, .xfma 3 33 18 1 0 5),
  (0b100100_000011_100001_010010_1_0_101_010, .xfmaN 3 33 18 1 0 5),
  (0b100100_000011_100001_010010_1_0_101_011, .xadd 3 33 18 1 0 5),
  (0b100100_000011_100001_010010_1_0_101_100, .xrnd 3 33 18 1 0 5),
  (0b100100_000011_100001_010010_1_0_101_101, .xsgn 3 33 18 1 0 5),
  (0b100100_000011_100001_010010_1_0_101_110, .xrdw 3 33 18 1 0 5),
  (0b100100_000011_100001_010010_1_0_101_111, .xwrw 3 33 18 1 0 5)] = true := by decide

theorem test_decode_acquire : decodes [
  (0b100101_000101_100001_010010_1_0_000000, .xacq 5 33 18 1 0),
  (0b100101_000101_100001_010010_1_0_000001, .xrel 5 33 18 1 0)] = true := by decide

theorem test_decode_thread : decodes [
  (0b101000_000011_100001_010010_1_0_000000, .spawn 3 33 18 1 0),
  (0b101000_000011_100001_010010_1_0_000001, .spawnF 3 33 18 1 0),
  (0b101000_000011_100001_010010_1_0_000010, .quit 3 33 18 1 0),
  (0b101000_000011_100001_010010_1_0_000011, .quitF 3 33 18 1 0),
  (0b101000_000011_100001_010010_1_0_000100, .quitD 3 33 18 1 0),
  (0b101000_000011_100001_010010_1_0_000101, .dqpush 3 33 18 1 0),
  (0b101000_000011_100001_010010_1_0_000110, .dqpop 3 33 18 1 0),
  (0b101000_000011_100001_010010_1_0_000111, .yield 3 33 18 1 0),
  (0b101000_000011_100001_010010_1_0_001000, .gnew 3 33 18 1 0),
  (0b101000_000011_100001_010010_1_0_001001, .gjoin 3 33 18 1 0),
  (0b101000_000011_100001_010010_1_0_001010, .gleave 3 33 18 1 0),
  (0b101000_000011_100001_010010_1_0_001011, .gbar 3 33 18 1 0),
  (0b101000_000011_100001_010010_1_0_001100, .gend 3 33 18 1 0)] = true := by decide

theorem test_decode_streams : decodes [
  (0b101001_000011_100001_010010_1_0_000000, .msend 3 33 18 1 0),
  (0b101001_000011_100001_010010_1_0_000001, .mwait 3 33 18 1 0),
  (0b101001_000011_100001_010010_1_0_000010, .lcfg 3 33 18 1 0),
  (0b101001_000011_100001_010010_1_0_000011, .stab 3 33 18 1 0),
  (0b101001_000011_100001_010010_1_0_000100, .sbind 3 33 18 1 0),
  (0b101001_000011_100001_010010_1_0_000101, .sskip 3 33 18 1 0),
  (0b101001_000011_100001_010010_1_0_000110, .spos 3 33 18 1 0)] = true := by decide

theorem test_decode_engine : decodes [
  (0b101010_000011_100001_010010_1_0_000000, .cpygo 3 33 18 1 0),
  (0b101010_000011_100001_010010_1_0_000001, .cpygoNc 3 33 18 1 0),
  (0b101010_000011_100001_010010_1_0_000010, .cpyst 3 33 18 1 0),
  (0b101010_000011_100001_010010_1_0_000011, .cpycan 3 33 18 1 0),
  (0b101010_000011_100001_010010_1_0_000100, .subs 3 33 18 1 0),
  (0b101010_000011_100001_010010_1_0_000101, .unsubs 3 33 18 1 0),
  (0b101010_000011_100001_010010_1_0_001000, .gath 3 33 18 1 0),
  (0b101010_000011_100001_010010_1_0_001001, .gathSum 3 33 18 1 0),
  (0b101010_000011_100001_010010_1_0_001010, .tbsw 3 33 18 1 0),
  (0b101010_000011_100001_010010_1_0_001011, .tbdrn 3 33 18 1 0),
  (0b101010_000101_100001_010010_1_0_001100, .ksend 5 33 18 1 0),
  (0b101010_000011_100001_010010_1_0_001101, .kbin 3 33 18 1 0),
  (0b101010_000011_100001_010010_1_0_001110, .kflush 3 33 18 1 0),
  (0b101010_000011_100001_010010_1_0_010000, .rcopy 3 33 18 1 0),
  (0b101010_000011_100001_010010_1_0_010001, .rzero 3 33 18 1 0)] = true := by decide

theorem test_decode_matrix : decodes [
  (0b101100_000011_100001_010010_1_0_000000, .mxcfg 3 33 18 1 0),
  (0b101100_000011_100001_010010_1_0_000001, .mxgo 3 33 18 1 0),
  (0b101100_000011_100001_010010_1_0_000010, .mxhnd 3 33 18 1 0),
  (0b101100_000011_100001_010010_1_0_000011, .mxstat 3 33 18 1 0),
  (0b101100_000011_100001_010010_1_0_000100, .aclr 3 33 18 1 0),
  (0b101100_000011_100001_010010_1_0_001000, .fpin 3 33 18 1 0),
  (0b101100_000011_100001_010010_1_0_001001, .funp 3 33 18 1 0),
  (0b101100_000011_100001_010010_1_0_001010, .fref 3 33 18 1 0),
  (0b101100_000011_100001_010010_1_0_001011, .frev 3 33 18 1 0),
  (0b101100_000011_100001_010010_1_0_001100, .fqry 3 33 18 1 0)] = true := by decide

theorem test_decode_sys : decodes [
  (0b111100_000011_100001_010010_1_0_000000, .trap 3 33 18 1 0),
  (0b111100_000011_100001_010010_1_0_000001, .eret 3 33 18 1 0),
  (0b111100_000011_100001_010010_1_0_000010, .brk 3 33 18 1 0),
  (0b111100_000011_100001_010010_1_0_000011, .rpart 3 33 18 1 0),
  (0b111100_000011_100001_010010_1_0_000100, .xlinv 3 33 18 1 0),
  (0b111100_000011_100001_010010_1_0_000101, .swat 3 33 18 1 0),
  (0b111100_000011_100001_010010_1_0_000110, .lend 3 33 18 1 0),
  (0b111100_000011_100001_010010_1_0_000111, .recall 3 33 18 1 0),
  (0b111100_000011_100001_010010_1_0_001000, .fack 3 33 18 1 0),
  (0b111100_000011_100001_010010_1_0_001001, .fackT 3 33 18 1 0)] = true := by decide

theorem test_decode_systemRegisters : decodes [
  (0b111101_000011_100001_1_1000000000011, .mfsr 3 33 1 4099),
  (0b111110_110110_100001_1_1000000000011, .mtsr 54 33 1 4099),
  (0b111111_10000000000000000000010101, .hint 33554453)] = true := by decide

/-- Words from the worked examples of R329 and the decode table of R328. -/
theorem test_decode_worked : decodes [
  (0xF4400009, .mfsr 4 0 0 9), (0xFB800030, .mtsr 56 0 0 0x30), (0x40615B00, .ld 6 5 0 3 0 3 0 0), (0x44714A00, .st 7 5 0 1 0 2 0 0),
  (0x6020FFFD, .b 2 3 7 0x7FD), (0x5C004000, .fenceT 0 1 0 0 0), (0xFC000001, .hint 1)] = true := by decide

theorem test_decode_refused : refuses 0x04408316 .unassignedFunction = true ∧ refuses 0x2C000000 .reservedMajor = true ∧
    refuses 0 .majorZero = true ∧ refuses 0x94800000 .unassignedFunction = true ∧
    (match decode [0, 0, 4] with | .error x => decide (x = .truncated) | .ok _ => false) = true := by decide

theorem test_decode_order_of_bytes : decodeTableWord 32 0xF4400009 = some (.mfsr 4 0 0 9) ∧
    (match decode [0x09, 0x00, 0x40, 0xF4, 0xAA] with | .ok r => decide (r = (Instr.mfsr 4 0 0 9, [0xAA])) | .error _ => false) = true := by decide

/-! ### WellFormed: an ill-formed term for each check -/

theorem test_cmp_condition : Instr.wellFormed (.cmp 0 0 0 0 0 6) = false ∧ Instr.wellFormed (.cmp 0 0 0 0 0 5) = true := by decide
theorem test_amo_operation : Instr.wellFormed (.amo 0 0 0 0 0 0 0 9) = false ∧ Instr.wellFormed (.amo 0 0 0 0 0 0 0 8) = true := by decide
theorem test_vperm_pattern : Instr.wellFormed (.vperm 0 0 0 0 0 6) = false ∧ Instr.wellFormed (.vperm 0 0 0 0 0 5) = true := by decide
theorem test_vsf_function : Instr.wellFormed (.vsf 0 0 0 0 0 0 8) = false ∧ Instr.wellFormed (.vsf 0 0 0 0 0 0 7) = true := by decide
theorem test_accumulator_name : Instr.wellFormed (.xacq 8 0 0 0 0) = false ∧ Instr.wellFormed (.xrel 8 0 0 0 0) = false ∧
    Instr.wellFormed (.xacq 7 0 0 0 0) = true := by decide
/-! ### Witnesses: encoding and the step -/

/-- The hypotheses of DecodeOfEncodeIsIdentity, with every field at its greatest value. -/
theorem witness_DecodeOfEncodeIsIdentity : hasWord (.fcvt 63 63 1 7 3 1 1 3) = true ∧ Instr.wellFormed (.fcvt 63 63 1 7 3 1 1 3) = true ∧
    hasWord (.vsf 63 63 15 3 1 1 7) = true ∧ Instr.wellFormed (.vsf 63 63 15 3 1 1 7) = true := by decide

/-- The hypothesis of EncodeOfDecodeIsIdentity: words that decode. -/
theorem witness_EncodeOfDecodeIsIdentity : decodes [(0xFFFFFFFF, .hint 0x3FFFFFF), (0x04000000, .add 0 0 0 0 0)] = true := by decide

/-- Each clause of ReservedMajorsAreNoInstruction, at the least and the greatest word. -/
theorem witness_ReservedMajorsAreNoInstruction : bits (0 : InstWord).toNat 26 6 = 0 ∧ bits (0x03FFFFFF : InstWord).toNat 26 6 = 0 ∧
    bits (0x2C000000 : InstWord).toNat 26 6 = 0x0B ∧ bits (0xEFFFFFFF : InstWord).toNat 26 6 = 0x3B := by decide

/-- Which thread issues next, and how it gets its word. -/
def issues (s : State) (uid : Nat) (ok : State → Thread → Bool) : Bool :=
  match s.turn.1 with
  | .issue u _ => decide (u = uid) && match ({ s.turn.2 with cur := uid } : State).thread? uid with
    | some t => decide (t.ecc ≠ .double ∧ t.dueTrap = none) && ok { s.turn.2 with cur := uid } t
    | none => false
  | _ => false

/-- The thread of the probe, changed. -/
def probe (f : Thread → Thread) : State := (State.reset.withFetchWord 32 0x04000000).modThread 1 f

def fetched (s : State) (t : Thread) (w : List Byte) : Bool := match s.resolve t.viewer t.pc.toNat 4 .fetch with
  | .ok pa => !s.poisoned pa && decide (Memory.readBytes s.mem pa 4 = w)
  | _ => false

/-- Each clause of StepRunsTheDecodedInstruction: a fetched word, a body word, a latched word, and a step of a unit. -/
theorem witness_StepRunsTheDecodedInstruction :
    issues (State.reset.withFetchWord 32 0x04000000) 1 (fun s t => decide (t.latch = none ∧ t.rep = none) && fetched s t [0, 0, 0, 4]) = true ∧
    issues (probe fun t => { t with rep := some (repOf (loc 64) 1 1 0) }) 1
      (fun _ t => decide (t.latch = none ∧ (t.rep.bind fun r => r.body[r.idx]?) = some 0x04000000)) = true ∧
    issues (probe fun t => { t with replay := true, latch := some (latchOf 8) }) 1
      (fun _ t => match t.latch with | some l => !l.trapped && !l.fetch && t.replay && decodes [(l.word, .add 0 0 0 0 0)] | none => false) = true ∧
    (match ({ State.reset with pending := [{ at_ := 0, ev := .trcctlWrite 1 0 }], sched := [(0, 0)] } : State).turn.1 with
      | .unit ev => decide (ev = .trcctlWrite 1 0) | _ => false) = true := by decide

/-- MemoryFormKeptByEveryStep and MemoryFormAtReset: a state that no run from reset has met, whose step answers a next state. -/
theorem witness_MemoryFormKeptByEveryStep : Memory.wf (State.reset.withFetchWord 32 0x04000000).mem = true ∧
    next (step (State.reset.withFetchWord 32 0x04000000)) (fun s => Memory.wf s.mem) = true := by decide
/-! ### Witnesses: checks, operands, scalar results -/

/-- Each clause of ChecksDecideInOrder, the decode checks passed one by one; the range checks at 23 and 24 of 24 registers. -/
theorem witness_ChecksDecideInOrder :
    let t := one (bench 0 .user [] id)
    let ok (f : Form) : Bool := decide (f.illegal = false ∧ ∀ o ∈ [f.a, f.b, f.d], o.allowed = true)
    let level (f : Form) : Bool := ok f && decide (f.denied = false ∧ f.level.num ≤ t.level.num)
    t.hit = none ∧ (fmtR 0 60 2 0 0).a.allowed = false ∧ (fmtR 58 1 2 0 0).d.allowed = false ∧
    ok (lvl f0 .runtime) = true ∧ t.level.num < (lvl f0 .runtime).level.num ∧
    level { f0 with row := 1 } = true ∧ ((bench 0 .user [] id).core 0).prove = false ∧
    level (fmtR 24 1 25 0 0) = true ∧ (fmtR 24 1 25 0 0).a.range t.stagger 24 = none ∧ (fmtR 24 1 25 0 0).b.range t.stagger 24 = some 25 ∧
    (fmtR 23 1 22 0 0).d.range t.stagger 24 = none ∧
    (let f : Form := { f0 with a := opA .srcPair 2 0, d := opD .dstPair 3 }
     level f = true ∧ f.a.range 0 24 = none ∧ f.d.range 0 24 = none ∧ f.a.odd t.stagger = none ∧ f.d.odd t.stagger = some 3) := by decide

/-- Each clause of StaggerOnlyGeneralRegisters, in a loop whose pass 1 has stride -1: codes 0, 24 and 23 and code 48. -/
theorem witness_StaggerOnlyGeneralRegisters :
    let r : Rep := { repOf 0 1 4 0x3F with pass := 1 }
    let t := one (bench 0 .user [] fun t => { t with rep := some r })
    let o (n : BitVec 6) : Opnd := opA .src n 0
    t.rep = some r ∧ (o 0).role ≠ .off ∧ (o 0).role ≠ .name ∧ (o 0).role.pair = false ∧ r.stride.toInt = -1 ∧
    (o 0).at t.stagger = -1 ∧ (o 0).range t.stagger 24 = some (BitVec.allOnes 64) ∧ (o 48).at t.stagger = 48 ∧
    (o 25).range t.stagger 24 = some 24 ∧ (o 24).range t.stagger 24 = none := by decide

/-- Each clause of PairOperands: the forbidden codes 48 and 59, an odd n, an n + 1 at the count, and `z`. -/
theorem witness_PairOperands :
    let s := bench 0 .user [1, 2, 3] id
    let t := one s
    let o (n : BitVec 6) : Opnd := opD .srcPair n
    (o 48).role.pair = true ∧ (o 48).allowed = false ∧ (o 59).allowed = false ∧ t.hit = none ∧ (o 23).range 0 24 = some 24 ∧
    (o 22).range 0 24 = none ∧ (o 21).odd 0 = some 21 ∧ (o 22).odd 0 = none ∧ s.thread? t.uid = some t ∧ t.stagger = 0 ∧ (o 2).role.reads = true ∧
    (t.reg 2).ecc = .ok ∧ (s.readField t.uid (opA .srcPair 0 0) 0 false).2 = (1, 2) ∧ (s.readField t.uid (o 56) 0 false).2 = (0, 0) ∧
    runs s (.ldp 56 20 0 0 0 3 0 0) { f0 with a := opBase 20 0, d := opD .dstPair 56 } (fun c s => decide (c.dcode = 56 ∧ c.put s 5 = s)) = true := by decide

/-- Each clause of EmptyOperandBlocksOrTraps: an empty register, `lnk` and `mbx`, and a ready thread that blocks. -/
theorem witness_EmptyOperandBlocksOrTraps :
    let s := bench 0 .user [] fun t => t.markDue 3
    let t := one s
    let passes (f : Form) : Bool := decide (t.hit = none ∧ t.deferred = [] ∧ f.a.role = .src ∧ f.check t (s.core t.core).regCount (s.core t.core).prove = none)
    passes (fA 3) = true ∧ (t.reg ((fA 3).a.num t.stagger)).full = false ∧ passes { f0 with a := opA .src 3 1 } = true ∧
    passes (fA 57) = true ∧ s.upWords t = 0 ∧ passes (fA 58) = true ∧ s.mailWords t = [] ∧
    s.thread? t.uid = some t ∧ t.status = .ready := by decide

/-- A message of kind 1 with the words 8 and 9 for the thread of the bench of core 0. -/
def mail : Msg :=
  { id := 1, slot := 8, bound := some 1, kind := 1, status := 0, sender := 0, w0 := 8, w1 := 9, popped := false, device := false }

/-- A stream entry with word 0 `w0` and `n` elements, `step` bytes apart (R177). -/
def entryOf (w0 n step : Word) : StreamEntry := StreamEntry.ofWords [w0, n ||| step <<< 32, 0, 0]

/-- A read stream of 16 FP64 elements with these read ahead. -/
def streamOf (ahead : List Word) : Stream := { entry := entryOf 0 16 8, pos := 0, record := [], ahead := ahead, aheadW := 64 }

/-- Each clause of OperandCodesReadAndWrite: `z`, `tm`, `lnk`, `mbx` and s0 as sources, and each kind of destination. -/
theorem witness_OperandCodesReadAndWrite :
    let s := (bench 0 .user [1] fun t => { t with streams := Vector.replicate 8 (some (streamOf [7])) }).modCore 0 fun c => { c with mail := [mail] }
    let s : State := { s with channels := [{ src := 2, dst := 1, words := [6], ringPa := [], ringVa := 0, ringHead := 0, ringLen := 0 }] }
    let t := one s
    s.thread? t.uid = some t ∧ (s.core t.core).Unwatched ∧ (s.upChannel? t).isSome = true ∧ (s.readField 1 (opA .src 57 0) 0 false).2 = (6, 0) ∧
    s.mailbox t = [mail] ∧ (s.readField 1 (opA .src 58 0) 0 false).2 = (8, 0) ∧ (opA .src 59 0).code = 59 ∧
    (t.stream? 0).isSome = true ∧ (t.stream? 7).isSome = true ∧ (s.readField 1 (opA .src 48 0) 0 false).2 = (7, 0) ∧
    runs s (.add 47 56 56 0 0) { fmtR 47 56 56 0 0 with d := noOp } (fun _ _ => true) = true := by
  unfold Core.Unwatched; decide

/-- The hypotheses of PlainOperandsIssue, IntegerResultsAndFrame and ScalarFormsOfEveryOperand: a source that is the destination, and `z`. -/
theorem witness_IntegerResultsAndFrame : ready (bench 0 .user [5, 7] id) (one (bench 0 .user [5, 7] id)) (fmtR 1 1 0 0 0) = true ∧
    ready (bench 0 .user [5, 7] id) (one (bench 0 .user [5, 7] id)) (fmtR 56 59 23 0 0) = true ∧
    runs (bench 0 .user [5, 7] id) (.add 1 1 0 0 0) (fmtR 1 1 0 0 0) (fun c _ => decide (c.a = 7 ∧ c.b = 5)) = true := by decide

theorem witness_PlainOperandsIssue : Ready (bench 0 .user [5, 7] id) (one (bench 0 .user [5, 7] id)) (fmtR 1 1 0 0 0) :=
  ready_of witness_IntegerResultsAndFrame.1

theorem witness_FloatResultsFlagsAndFrame :
    ready (bench 0 .user [5, 7] id) (one (bench 0 .user [5, 7] id)) (fpR 1 1 0 0 0 2) = true ∧
    runs (bench 0 .user [5, 7] id) (.fadd 1 1 0 0 0 2) (fpR 1 1 0 0 0 2) (fun _ _ => true) = true := by decide

/-- Both sides of the clauses of StochasticRoundingGenerator: `.sr` has code 3, the other codes have not. -/
theorem witness_StochasticRoundingGenerator : runs (bench 0 .user [5, 7] id) (.add 1 1 0 0 0) (fmtR 1 1 0 0 0)
    (fun c _ => decide ((c.modes 3 2).1.length = 2 ∧ (c.modes 0 2).2 = c.t.srseed)) = true := by decide

/-- Each branch of BranchesSetThePc: condition 5, 6 and, in proving mode, 7; J, JAL and JALR. -/
theorem witness_BranchesSetThePc :
    let s := bench 0 .user [5, 7] id
    let p := s.modCore 0 fun c => { c with prove := true }
    let two (k : BitVec 3) : Form :=
      if k.toNat < 6 then { Form.plain with a := { opA .src 0 0 with lo := 20 }, b := { opB .src 1 0 with lo := 14 } }
      else { Form.plain with rsvd := k = 6 && (nz (0 : BitVec 6) || nz (1 : BitVec 6)), row := if k = 7 then 5 else 0 }
    ready s (one s) (two 5) = true ∧ ready s (one s) (two 6) = true ∧ ready p (one p) (two 7) = true ∧ ready s (one s) f0 = true ∧
    ready s (one s) (fmtU 0) = true ∧ ready s (one s) (fmtI 0 0 0) = true := by decide

/-- Each clause of RepStartsItsLoop: a count of 0 and one of 4097; a body that cannot be fetched; a REP in a body. -/
theorem witness_RepStartsItsLoop :
    let form (t : Thread) : Form := { Form.plain with a := opA .gsrc 1 0, rsvd := nz (0 : BitVec 9), illegal := t.rep.isSome }
    let s := bench 0 .runtime [0, 4097, 0] fun t => { t with pc := loc 0 }
    let body (t : Thread) : Bool := match s.fetchBody t 1 (t.pc + 4) with | .ok b => decide (b = [0]) | .error _ => false
    let bad := bench 0 .runtime [0, 4097, 0] fun t => { t with pc := w64 (windowEnd - 4) }
    let inside := bench 0 .runtime [] fun t => { t with rep := some (repOf 0 1 1 0) }
    ready s (one s) (form (one s)) = true ∧ body (one s) = true ∧
    runs bad (.rep 0 1 0 0 0) (form (one bad)) (fun c s1 => match s1.fetchBody c.t 1 (c.t.pc + 4) with | .ok _ => false | .error _ => true) = true ∧
    inside.thread? inside.cur = some (one inside) ∧ (one inside).hit = none ∧ (one inside).rep.isSome = true := by decide

/-- The hypotheses of RepRunsEveryPassInOrder, with the least and a greater loop. -/
theorem witness_RepRunsEveryPassInOrder :
    let t := one (bench 0 .user [] fun t => { t with rep := some (repOf 0x1000 2 3 1) })
    t.rep = some (repOf 0x1000 2 3 1) ∧ t.pc = 0x1000 ∧ ((Nat.repeat Thread.advance 5 t).rep.map fun r => (r.pass, r.idx)) = some (2, 1) ∧
    (Nat.repeat Thread.advance 6 t).rep = none := by decide

theorem witness_HintsDoNothing : bits (0xFC000000 : InstWord).toNat 26 6 = 0x3F ∧ ready (bench 0 .user [] id) (one (bench 0 .user [] id)) f0 = true := by
  decide

/-- PWARN of R328's first three words, from 0. -/
theorem test_pwarn : ((one (bench 0 .user [] id)).completed true 0x40615B00 false false 1).pwarn = 0x40615B0000000104 ∧
    ((one (bench 0 .user [] id)).completed true 0x5C004000 true false 0).pwarn = 0x5C00400000000001 ∧
    ((one (bench 0 .user [] id)).completed true 0xFC000001 false true 0).pwarn = 0xFC00000100000002 := by decide
/-! ### Witnesses: traps, returns and FACK -/

theorem witness_ResetState : tagged 0 = true ∧ tagged (spadPa 1279 0x3FFF8) = true := by decide

/-- Each route of TrapEntry: delegated; runtime, from user level and from runtime level with INH = 0, and causes 0x30 and 0x31; curator;
none, for the curator with INH = 1 and for CTRAPVEC 0. The entry: a user thread without accesses, to a runtime handler. -/
theorem witness_TrapEntry :
    let t := one (bench 0 .user [] fun t => { t with deleg := 2, utrapvec := 0x80 })
    let u := one (bench 0 .runtime [] id)
    let k := one (bench 0 .curator [] fun t => { t with inh := true })
    (t.level = .user ∧ t.inh = false ∧ t.deleg.toNat.testBit 1 = true ∧ t.utrapvec ≠ 0) ∧ t.deleg.toNat.testBit 0 = false ∧
    (u.level = .runtime ∧ u.inh = false) ∧ u.route 0x40 0 0x30 = some (.runtime, 0x40) ∧ u.route 0x40 0x80 0x31 = some (.curator, 0x80) ∧
    k.level = .curator ∧ k.inh = true ∧ k.route 0x40 0x80 0x30 = none ∧ u.route 0 0 0x30 = none ∧
    (let s := (bench 0 .user [] id).modTenant 5 fun x => { x with trapvec := 0x40 }
     let t := one s
     s.thread? t.uid = some t ∧ t.deferred = [] ∧ s.drained t.uid = true ∧ t.stepping = false ∧ t.status = .ready ∧
       t.route (s.tenant t.tenant).trapvec (s.core t.core).ctrapvec 0x28 = some (.runtime, 0x40) ∧ t.tenant ≠ 0) := by decide

/-- FACK's fields. -/
def fFack : Form := lvl (fA 1) .runtime

/-- A bench at the given level whose thread 2, of tenant `ten` at slot 9, is held by the latch `l`. -/
def held (lvl : Level) (ten : Nat) (st : Status) (l : Latch) (id : Word) : State :=
  let s := bench 0 lvl [0, id] fun t => if lvl = .curator then { t with tenant := 0 } else t
  { s with threads := s.threads ++ [{ Thread.fresh 2 9 ten .user .day 0x1000 [] with status := st, latch := some l }] }

/-- Each clause of DoubleTrap: a trap that no handler may take, and a double-trap hold that the curator names. -/
theorem witness_DoubleTrap :
    (let s := bench 0 .user [] id
     let t := one s
     s.thread? t.uid = some t ∧ t.deferred = [] ∧ s.drained t.uid = true ∧ t.status = .ready ∧
       t.route (s.tenant t.tenant).trapvec (s.core t.core).ctrapvec 0x28 = none) ∧
    runs (held .curator 5 .heldFault { latchOf 1 with double := true } 9) (.fack 0 1 0 0 0) fFack (fun c s => drained c s &&
      decide (c.t.level = .curator) && match (c.popped.dropReadAhead c.uid).occupant? (fieldOf c.a 0 20) with
        | some t => decide (t.status = .heldFault) && match t.latch with | some l => l.double && !l.walk && l.sent && l.barrier == 0 | none => false
        | none => false) = true := by decide

/-- ERET's fields for the thread. -/
def fEret (t : Thread) : Form := { f0 with row := if t.badResume then 15 else 0 }

/-- Each clause of EretReturns: RACT 0; RACT 1 with the last position of the last pass; RPASS = RCNT, in proving and in service mode; an
access outstanding. -/
theorem witness_EretReturns :
    let trep (r : Rep) : BitVec 40 := r.pack
    let good := bench 0 .user [] fun t => { t with trep := trep { repOf 0 2 3 0 with pass := 2, idx := 1 } }
    let bad := bench 0 .user [] fun t => { t with trep := trep { repOf 0 2 3 0 with pass := 3, idx := 1 } }
    let prove := bad.modCore 0 fun c => { c with prove := true }
    let waits : State := { bench 0 .user [] id with accesses := [{ Access.blank .load 0 0 with id := 1, uid := 1 }] }
    ready (bench 0 .user [] id) (one (bench 0 .user [] id)) f0 = true ∧ (one (bench 0 .user [] id)).ract = false ∧
    ready good (one good) (fEret (one good)) = true ∧ (one good).ract = true ∧ (one good).badResume = false ∧ good.drained 1 = true ∧
    ready prove (one prove) (fEret (one prove)) = true ∧ (one prove).badResume = true ∧
    bad.thread? bad.cur = some (one bad) ∧ (one bad).hit = none ∧ (one bad).badResume = true ∧ (bad.core (one bad).core).prove = false ∧
    runs waits (.eret 0 0 0 0 0) f0 (fun c s1 => decide (c.t.owed = [] ∧ s1.drained c.uid = false)) = true := by decide

/-- Each clause of TrapAndBreakpointComplete: TRAP, BRK of a thread that is not armed, and of one that is. -/
theorem witness_TrapAndBreakpointComplete :
    runs (bench 0 .user [0, 7] id) (.trap 0 1 0 0 0) (fA 1) (fun c s => drained c s && decide (s.thread? c.uid ≠ none)) = true ∧
    runs (bench 0 .user [] id) (.brk 0 0 0 0 0) f0 (fun c s => drained c s && !s.brkArmed c.t) = true ∧
    runs ((bench 0 .user [] id).modCore 0 fun c => { c with brkTenant := 5 }) (.brk 0 0 0 0 0) f0 (fun c s => drained c s && s.brkArmed c.t) = true := by
  decide

/-- TRAP enters the curator's handler at the next word (R251). -/
theorem test_trap : next (exec (.trap 0 1 0 0 0) ((bench 0 .user [0, 7] id).modCore 0 fun c => { c with ctrapvec := 0x83 })) (fun s =>
    decide ((one s).pc = 0x80 ∧ (one s).fltcause = 0x28 ∧ (one s).fltval = 7 ∧ (one s).fltpc = 0x1004 ∧ (one s).level = .curator ∧ (one s).inh = true)) = true := by
  decide

/-- Each clause of FackActsOnHeldThreads: own, other state, unsent, foreign; no thread on the last core and behind it. -/
theorem witness_FackActsOnHeldThreads :
    let sees (s : State) (ok : Ctx → Thread → Bool) : Bool := runs s (.fack 0 1 0 0 0) fFack fun c s1 => drained c s1 &&
      match (c.popped.dropReadAhead c.uid).occupant? (fieldOf c.a 0 20) with | some t => ok c t | none => false
    let free (id : Word) (ok : Nat → Bool) : Bool := runs (bench 0 .runtime [0, id] fun t => t) (.fackT 0 1 0 0 0) fFack fun c s1 => drained c s1 &&
      decide ((c.popped.dropReadAhead c.uid).occupant? (fieldOf c.a 0 20) = none) && ok (tidCore (fieldOf c.a 0 20))
    let foreign (c : Ctx) (t : Thread) : Bool := c.t.level != .curator && t.tenant != c.t.tenant
    sees (held .runtime 5 .heldFault (latchOf 1) 9) (fun c t => !foreign c t && decide (t.status = .heldFault ∧ t.latch = some (latchOf 1))) = true ∧
    sees (held .runtime 5 .ready (latchOf 1) 9) (fun c t => !foreign c t && decide (t.status ≠ .heldFault)) = true ∧
    sees (held .runtime 5 .heldFault { latchOf 1 with sent := false } 9)
      (fun c t => !foreign c t && decide (t.status = .heldFault ∧ t.latch.map (·.sent) = some false)) = true ∧
    sees (held .runtime 6 .heldFault (latchOf 1) 9) (fun c t => foreign c t) = true ∧
    free (w64 (1279 * 512)) (fun k => decide (k < Config.cores)) = true ∧ free (w64 (1280 * 512)) (fun k => decide (Config.cores ≤ k)) = true := by
  decide

/-! ### Witnesses: accesses -/

/-- The fields of LD, ST and AMO with the data in g0. -/
def fLd : Form := { f0 with a := opBase 1 0, d := opD .gdst 0 }
def fSt : Form := { f0 with a := opBase 1 0, d := opD .gsrc 0 }
def fAmo : Form := { f0 with a := opA .src 1 0, b := opB .src 2 0, d := opD .dst 0 }

/-- Each clause of AccessesIssue: a load and a relaxed store, with the eighth relaxed access. -/
theorem witness_AccessesIssue :
    let s := bench 0 .user [0, loc 0x3FFF8, 5] id
    let seven : State := { s with accesses := (List.range 7).map fun i => { Access.blank .store 0 0 with id := i, uid := 1, relaxed := true } }
    runs s (.ld 0 1 0 0 0 3 0 0) fLd (fun c s => reaches c s c.a 8 true false false && drained c s) = true ∧
    runs seven (.st 0 1 0 0 1 3 0 0) fSt (fun c s => reaches c s c.a 8 false true false && decide (s.relaxedCount c.uid < 8)) = true ∧
    ready s (one s) fLd = true ∧ ready seven (one seven) fSt = true ∧ ready s (one s) fAmo = true := by decide

/-- Each clause of AddressChecksOfAccesses, at the edges of the virtual space and of the size. -/
theorem witness_AddressChecksOfAccesses :
    let at_ (i : Instr) (f : Form) (va : Word) (g : State → State) (ok : Ctx → State → Bool) : Bool := runs (g (bench 0 .user [0, va, 5] id)) i f ok
    let host (s : State) : State := s.modCore 0 fun c => { c with tlb := [{ tenant := 5, va := 0, size := 16, leaf := 0x01400000001F }] }
    let deny (s : State) : State := s.modCore 0 fun c => { c with tlb := [{ tenant := 5, va := 0, size := 16, leaf := 0x13 }] }
    let dusk (s : State) : State := s.modThread 1 fun t => { t with cls := .dusk }
    at_ (.amo 0 1 2 0 0 0 0 0) fAmo (loc 4) id (fun c _ => decide (c.a.toNat % 8 ≠ 0)) = true ∧
    at_ (.ld 0 1 0 0 0 3 0 0) fLd (w64 windowEnd) id (fun c _ => decide (windowEnd ≤ c.a.toNat)) = true ∧
    at_ (.ld 0 1 0 0 0 3 0 0) fLd (loc 4) id (fun c _ => decide (c.a.toNat < windowEnd ∧ c.a.toNat % 8 ≠ 0)) = true ∧
    at_ (.ld 0 1 0 0 0 3 0 0) fLd 0x1000 id (fun c s => decide (s.reach c.t c.a.toNat 8 true false = .miss)) = true ∧
    at_ (.ld 0 1 0 0 0 3 0 0) fLd 0x1000 deny (fun c s => match s.reach c.t c.a.toNat 8 true false with | .bad _ => true | _ => false) = true ∧
    at_ (.amo 0 1 2 0 0 0 0 0) fAmo 0x1000 host (fun c s => match s.reach c.t c.a.toNat 8 true true with | .ok pa => !tagged pa | _ => false) = true ∧
    at_ (.ld 0 1 0 0 0 3 0 0) fLd (loc 8) dusk (fun c s => match s.reach c.t c.a.toNat 8 true false with
      | .ok pa => (s.lostByte c.t pa 8).isSome | _ => false) = true := by decide

/-- Each clause of OrderingOfIssue: an access outstanding, a deferred trap, eight relaxed accesses. -/
theorem witness_OrderingOfIssue :
    let s := bench 0 .user [0, loc 8, 5] id
    let with_ (k : Nat) : State := { s with accesses := (List.range k).map fun i => { Access.blank .store 0 0 with id := i, uid := 1, relaxed := true } }
    let d : Deferred := { id := 1, cause := 0x0E, val := 0, word := 0, dst := [] }
    let late := s.modThread 1 fun t => { t with deferred := [d] }
    runs (with_ 1) (.ld 0 1 0 0 0 3 0 0) fLd (fun c s => reaches c s c.a 8 true false false && decide (c.t.owed = [] ∧ s.drained c.uid = false)) = true ∧
    runs late (.ld 0 1 0 0 0 3 0 0) fLd (fun c s => reaches c s c.a 8 true false false && decide (c.t.deferred = [d])) = true ∧
    runs (with_ 8) (.ld 0 1 0 0 1 3 0 0) fLd (fun c s => reaches c s c.a 8 true false false && decide (8 ≤ s.relaxedCount c.uid)) = true := by decide

/-- Each clause of LoadModesOnTags and of StoreModesOnTags, and the table of R70 and R71 on a full word of data 9. -/
theorem witness_LoadModesOnTags :
    let s := State.reset.storeWord 0x1000 9
    let ld (m : Nat) : Access := { Access.blank .load 0 0x1000 with mode := m, dst := some 3, uid := 1 }
    let st (m : Nat) : Access := { Access.blank .store 0 0x1000 with mode := m, val := 6, uid := 1 }
    s.MemOk ∧ (∀ m < 3, (ld m).kind = .load ∧ (ld m).size = 3 ∧ (ld m).pa % 8 = 0 ∧ (ld m).mode = m ∧ s.condition (ld m) = true) ∧
    (∀ m < 4, (st m).kind = .store ∧ (st m).size = 3 ∧ (st m).mode = m ∧ s.poisoned (st m).pa = false) ∧
    ((s.applyTagged (ld 2)).1.tag 0x1000).p = false ∧ (s.applyTagged (ld 2)).2 = [(3, 9)] ∧ s.condition (st 1) = false ∧
    ((s.applyTagged (st 3)).1.tag 0x1000).p = false ∧ (s.applyTagged (st 2)).1.word 0x1000 = 6 := by decide

theorem witness_StoreModesOnTags : State.reset.MemOk ∧ (State.reset.applyTagged { Access.blank .store 0 0x1000 with mode := 1, val := 6 }).1.word 0x1000 = 6 := by
  decide

/-- Each clause of PerformedDataAndFrame: a sign-extended byte, a narrow store at the end of its word, AMO, CAS that compares equal, pairs and tags. -/
theorem witness_PerformedDataAndFrame :
    let s := State.reset.storeWord 0x1000 0xFF00000000000080
    let b (k : AccessKind) : Access := { Access.blank k 0 0x1000 with dst := some 3, val := 5, val2 := 6 }
    let ok (a : Access) : Bool := a.words.all fun w => !(s.tag w).w && !s.poisoned w
    s.MemOk ∧ ok { b .load with size := 0, signed := true } = true ∧ (s.applyTagged { b .load with size := 0, signed := true }).2 = [(3, wordI (-128))] ∧
    ok { b .store with size := 0, pa := 0x1007 } = true ∧ (s.applyTagged { b .store with size := 0, pa := 0x1007 }).1.word 0x1000 = 0x0500000000000080 ∧
    ok (b (.amo 0)) = true ∧ ok { b .cas with val := 0xFF00000000000080 } = true ∧
    (s.applyTagged { b .cas with val := 0xFF00000000000080 }).1.word 0x1000 = 6 ∧ ok (b .loadPair) = true ∧ ok (b .storePair) = true ∧
    (b .storePair).size = 3 ∧ (b .storePair).pa % 16 = 0 ∧ ok (b .tagrd) = true ∧ ok (b .tagset) = true := by decide

/-- The operations of R342: the old word 7 and the operand 5 give these results. -/
theorem test_amo_results : (List.range 9).map (fun op => amoResult op 7 5) = [12, 5, 7, 2, 5, 7, 5, 7, 5] := by decide

/-- A bench with one access, and what it concerns. -/
def sent (a : Access) : State := { bench 0 .user [] fun t => { t with waitlim := 3 } with accesses := [a] }

def anAccess (k : AccessKind) (ph : Phase) : Access := { Access.blank k (loc 0) (spadPa 0 0) with id := 1, uid := 1, dst := some 3, phase := ph }

/-- Each clause of ArrivalAtTheController: an access that may arrive and one that has arrived; a poisoned word, a condition that holds and
one that does not; waiters of which the second is satisfiable. -/
theorem witness_ArrivalAtTheController :
    let s := sent (anAccess .load .sent)
    let a := anAccess .load .sent
    let p := s.poisonAt (spadPa 0 0)
    let e : Access := { anAccess .store .sent with mode := 1 }
    let put := anAccess .store .sent
    let noRoom : State := { (s.modCore 0 fun c => { c with mail := List.replicate 256 mail }).setTag (spadPa 0 0) { s.tag (spadPa 0 0) with w := true } with
      watch := [{ die := s.dieOfWord (spadPa 0 0), lo := spadPa 0 0, hi := spadPa 0 64, tenant := 5, action := 3, arg := 8, installer := .watch, offset := 0, bound := some 1 }] }
    s.access? 1 = some a ∧ s.mayArrive a = true ∧ (sent (anAccess .load .performed)).mayArrive (anAccess .load .performed) = false ∧
    tagged a.pa = true ∧ (∀ w ∈ a.words, tagged w = true ∧ (s.tag w).ecc = .ok) ∧ s.firewalled a.pa (s.accessTenant a) = none ∧
    ((s.core 0).stopped = false ∧ (s.core 0).switched = none ∧ (s.core 0).lent = []) ∧
    a.kind ≠ .alloc ∧ a.kind ≠ .clear ∧ s.watchRoom (s.raisedBy a) = true ∧ noRoom.watchRoom (noRoom.raisedBy put) = false ∧
    (a.overwrites = false ∧ ∃ w ∈ a.words, p.poisoned w = true) ∧ s.condition a = true ∧ s.condition e = false ∧
    (let w1 : Access := { e with id := 2, phase := .waiting 1 0 }
     let w2 : Access := { anAccess .load (.waiting 2 0) with id := 3, mode := 1 }
     let s : State := { s with accesses := [w2, w1] }
     s.waiters [spadPa 0 0] = [w1, w2] ∧ s.condition w1 = false ∧ s.condition w2 = true) := by decide

/-- Each clause of AnswersAndResultsReachTheThread, each with an access in the phase that it names. -/
theorem witness_AnswersAndResultsReachTheThread :
    let r (k : Bool) (ph : Phase) : Access := { anAccess .load ph with relaxed := k }
    (sent (r false .performed)).access? 1 = some (r false .performed) ∧ (r false (.waiting 1 0)).answered = false ∧
    (sent (r true (.waiting 1 0))).access? 1 = some (r true (.waiting 1 0)) ∧ (sent (r true (.refused 0x0D 0 0))).access? 1 = some (r true (.refused 0x0D 0 0)) ∧
    (sent (r true (.refused 0x0E 0 0))).access? 1 = some (r true (.refused 0x0E 0 0)) ∧
    (let x : Result := { id := 1, uid := 1, regs := [(47, 5)], restores := [] }
     let s : State := { bench 0 .user [] id with results := [x] }
     s.results.find? (fun r => r.id == 1) = some x ∧ (s.thread? x.uid).isSome = true ∧ (s.core 0).Unwatched) ∧
    (let s : State := { sent (r false (.waiting 1 0)) with now := 3 }
     (s.thread? 1).map (·.waitlim) = some 3 ∧ 0 + (3 : Word).toNat ≤ s.now) ∧
    (let s := bench 0 .user [] fun t => { t with status := .heldFault, latch := some { latchOf 8 with walk := true, val := 0x1000, detail := 33 } }
     (one s).stat = .heldFault ∧ s.frozen (one s) = false ∧
     (match s.endWalk (one s) { latchOf 8 with walk := true, val := 0x1000, detail := 33 } with | .ok _ => false | .error c => replayable c) = true ∧
     (match (paged s).endWalk (one s) { latchOf 8 with walk := true, val := 0x1000, detail := 33 } with | .ok _ => true | .error _ => false) = true ∧
     (match ((paged s).storeWord 0x3000 0x13).endWalk (one s) { latchOf 8 with walk := true, val := 0x1000, detail := 33 } with | .ok _ => false | .error c => !replayable c) = true) := by
  unfold Core.Unwatched; decide
/-! ### Witnesses: completing, vectors, exact accumulators -/

/-- The hypotheses of WhatCompletingChanges, with the state behind the reads for each p. -/
theorem witness_WhatCompletingChanges :
    let s := bench 0 .user [5, 7] id
    ready s (one s) (fmtR 1 1 0 0 0) = true ∧ ready s (one s) (fmtR 56 1 0 0 0) = true ∧ (one s).dropAhead = one s ∧ s.accesses = [] ∧
    runs s (.add 1 1 0 0 0) (fmtR 1 1 0 0 0) (fun c s1 => match c.popped.thread? 1 with
      | some x => decide (s1 = s ∧ x.stopPending = false ∧ x.stepping = false ∧ x.status = .ready ∧ (c.popped.core x.core).dbgc = Vector.replicate 8 0 ∧
          (c.popped.core x.core).pmsel = Vector.replicate 8 0 ∧ x.rep = (one s).rep)
      | none => false) = true ∧
    (fmtR 1 1 0 0 0).d.role.writes = true ∧ (fmtR 1 1 0 0 0).d.general = true ∧ (fmtR 56 1 0 0 0).d.general = false := by decide

/-- The lanes of `i` are at hand, and `ok` holds of them. -/
def lanesOf (s : State) (i : Instr) (f g : Form) (count w ww : Nat) (fresh : Ctx → Bool) (red : Bool) (ok : Ctx → Lanes → Bool) : Bool := runs s i f fun c s1 =>
  match c.tryLanes s1 g count w ww (fresh c) red with
  | .runs l => ok c l
  | .stops _ => false

/-- Each clause of VectorLanes: general registers at FP32, and a beat of eight FP64 elements of s0. -/
theorem witness_VectorLanes :
    let s := bench 0 .user [5, 7] fun t => { t with streams := Vector.replicate 8 (some (streamOf [1, 2, 3, 4, 5, 6, 7, 8])) }
    let f := (fmtR 0 48 1 0 0).vec
    lanesOf s (.vaddF 0 48 1 0 0 0) f f 8 64 64 (fun _ => true) false (fun _ l => decide (l.k = 8 ∧ l.a = [1, 2, 3, 4, 5, 6, 7, 8] ∧ l.b = List.replicate 8 7)) = true ∧
    ready s (one s) (fmtR 0 1 1 0 0).vec = true ∧ activeCount (one s) [0] [] 8 = 8 ∧ activeCount (one s) [0, 0, 0] [] 8 = 5 := by decide

/-- Each clause of VectorReductions: elements left, none left with a partial result, and a general register. -/
theorem witness_VectorReductions :
    let f := (fmtR1 0 48 0 0 0).vec
    let s (x : Stream) (v : Option VredPart) : State := bench 0 .user [5, 7] fun t => { t with streams := Vector.replicate 8 (some x), vred := v }
    let beat := streamOf [1, 2, 3, 4, 5, 6, 7, 8]
    let left (l : Lanes) : Nat := (((l.p.thread? 1).bind (·.stream? 0)).bind (·.left)).getD 99
    let dest (c : Ctx) : Bool := match (s beat none).checkStreams c.t [] f.streamWrites (some 64) (some 64) (fun _ => 1) 1 false with
      | .ok _ => true | _ => false
    lanesOf (s beat none) (.vred 0 48 0 0 0 0) f f 8 64 64 (fun c => c.part.isNone) true (fun c l => dest c && decide (left l = 8)) = true ∧
    lanesOf (s { beat with pos := 8 } (some { val := 3, beats := 1, flags := 0, pc := 0x1000, rep := (one (bench 0 .user [] id)).repPos, depth := 0 })) (.vred 0 48 0 0 0 0) f f 8 64 64 (fun c => c.part.isNone) true
      (fun c l => dest c && decide (left l = 0 ∧ c.part.map (·.val) = some 3)) = true ∧
    ready (s beat none) (one (s beat none)) (fmtR1 0 1 0 0 0).vec = true ∧ (one (s beat none)).vred = none ∧
    ((4 : Nat) ≤ 256 ∧ ∀ x ∈ [255, 1, 2, 3], x < 2 ^ 8) ∧ (treeReduce (fun a b => ((a + b) % 2 ^ 8, 0)) 8 [255, 1, 2, 3]).1 = 5 := by decide

/-- Each clause of VectorConversionsAndPermutations: FP64 to FP32, an MX block at its first and its last beat, VPERM 5, 6 and 15, and blocks. -/
theorem witness_VectorConversionsAndPermutations :
    let mx : Stream := { entry := entryOf 0x16000000 32 1, pos := 0, record := [], ahead := [], aheadW := 8 }
    let s (ph : Nat) : State := bench 0 .user [5, 7] fun t => { t with streams := Vector.replicate 8 (some mx), phase := ph }
    let v (ph : Nat) (d src k m : Nat) : Cvt := cvtOf (one (s ph)) d src k m false
    let good (ph : Nat) (d a : BitVec 6) (m : BitVec 2) (src k : BitVec 4) (ok : Cvt → Lanes → Bool) : Bool :=
      let x := v ph d.toNat src.toNat k.toNat m.toNat
      lanesOf (s ph) (.vcvt d a m src 0 0 k) (cvtForm x d a 0 0) (cvtForm x d a 0 0) x.count (formatWidth x.src) (formatWidth x.dst) (fun _ => true) false fun c l =>
        decide ((s ph).badScale c.t x a.toNat l.k = none) && ok x l
    good 0 0 1 0 0 9 (fun x _ => !isMx x.dst) = true ∧
    good 0 48 1 1 0 6 (fun x l => isMx x.dst && decide (0 + 1 < x.beats l.k)) = true ∧
    good 3 48 1 1 0 6 (fun x l => isMx x.dst && decide (x.beats l.k ≤ 3 + 1)) = true ∧
    lanesOf (s 0) (.vperm 0 1 2 0 0 5) (permForm 0 1 2 0 0 5) (permForm 0 1 2 0 0 5) 8 64 64 (fun _ => true) false (fun _ l => decide (l.k = 8)) = true ∧
    (s 0).thread? (s 0).cur = some (one (s 0)) ∧ (one (s 0)).hit = none ∧
    (convertBlock e4m3 [.fin false 1 0, .inf true] [.rne, .rne]).1 = 0xFF ∧ (convertBlock e4m3 [.fin true 0 0] [.rne]).1 = 0 := by decide

/-- Each clause of ExactAccumulators: a bound and a free name, no free accumulator, and contributions at the ends of their ranges. -/
theorem witness_ExactAccumulators :
    let s := bench 0 .user [5, 7] fun t => { t with xa := Vector.replicate 8 (some 2) }
    let free := bench 0 .user [5, 7] id
    let none_ := free.modCore 0 fun k => { k with xacc := Vector.replicate 8 { ExactAcc.empty with owner := some 9 } }
    let bound (i : Instr) (f : Form) : Bool := runs s i { f with illegal := ((one s).exact? 7).isNone } fun _ _ => true
    bound (.xclr 0 0 0 0 0 7) f0 = true ∧ bound (.xfma 0 1 1 0 0 7) { fAB 1 1 with width := some 64 } = true ∧
    bound (.xadd 0 1 0 0 0 7) { fA 1 with width := some 64 } = true ∧ bound (.xwrw 0 1 1 0 0 7) (fAB 1 1) = true ∧
    bound (.xrnd 0 0 5 0 0 7) { fD 0 with wwidth := some 64 } = true ∧ bound (.xsgn 0 0 0 0 0 7) (fD 0) = true ∧ bound (.xrdw 0 1 0 0 0 7) (fAD 1 0) = true ∧
    runs s (.xacq 7 0 0 0 0) f0 (fun c _ => decide (c.t.exact? 7 = some 2)) = true ∧
    runs free (.xacq 7 0 0 0 0) f0 (fun c s1 => decide (c.t.exact? 7 = none ∧ (s1.core c.t.core).freeExact = some 0)) = true ∧
    runs none_ (.xacq 7 0 0 0 0) f0 (fun c s1 => decide (c.t.exact? 7 = none ∧ (s1.core c.t.core).freeExact = none)) = true ∧
    runs free (.xrel 7 0 0 0 0) f0 (fun c _ => decide (c.t.exact? 7 = none)) = true ∧
    runs s (.xrel 7 0 0 0 0) f0 (fun c _ => decide (c.t.exact? 7 = some 2)) = true ∧
    (ExactAcc.empty.addExact (some (.fin false 1 (-2148)))).v = 1 ∧ (ExactAcc.empty.setChunk 66 5).chunk 66 = 5 := by decide
/-! ### Witnesses: tasks, gangs, messages, fences, heap and watch -/

/-- A task record of tenant 5. -/
def taskOf (pc : Word) : TaskRec :=
  { pc := pc, g0 := 1, g1 := 2, g2 := 3, g3 := 4, id := 7, stamp := 0, tenant := 5, cls := .day, future := false, level := .user, ecc := .ok, seeder := 0 }

/-- A bench of core 0 where tenant 5 has the cores 0 and 1 only. -/
def pair (g : List Word) (f : Thread → Thread) : State :=
  (bench 0 .user g f).modTenant 5 fun t => { t with desc := t.desc.take 8 ++ [3] ++ List.replicate 19 0 ++ t.desc.drop 28 }

/-- Each clause of SpawnQuitAndDeques. SPAWN goes to the own core and to core 1. -/
theorem witness_SpawnQuitAndDeques :
    let args (c : Ctx) : Bool := (List.range 4).all fun n => decide ((c.t.reg n).full = true ∧ (c.t.reg n).ecc = .ok)
    let rest (c : Ctx) : State := c.popped.dropReadAhead c.uid
    let full := (pair [1, 2, 0x5000, loc 8] id).modCore 0 fun c => { c with deque := [taskOf 0x40] }
    runs (pair [1, BitVec.allOnes 64, 0x5000, loc 8] id) (.spawn 0 1 2 0 0) (fmtR 0 1 2 0 0) (fun c s1 => drained c s1 && args c &&
      decide (c.a = BitVec.allOnes 64) && ((rest c).spawnTo 0 false (taskOf 0x40) c.uid).isSome) = true ∧
    runs (pair [1, 1, 0x5000, loc 8] id) (.spawnF 0 1 2 0 0) (fmtR 0 1 2 0 0) (fun c s1 => drained c s1 && args c &&
      decide ((s1.tenant c.t.tenant).hasCore c.a.toNat = true ∧ s1.present c.a.toNat = true) && reaches c s1 (c.t.reg 3).val 8 false true true &&
      !s1.poisoned (spadPa 0 8) && decide (c.t.phase = 0) && ((rest c).spawnTo 1 true (taskOf 0x40) c.uid).isSome) = true ∧
    runs (pair [1, 1, 0x5000, loc 8] fun t => { t with phase := 1 }) (.spawnF 0 1 2 0 0) (fmtR 0 1 2 0 0) (fun c s1 => drained c s1 && args c &&
      decide (c.t.phase ≠ 0) && ((rest c).spawnTo 1 true (taskOf 0x40) c.uid).isSome) = true ∧
    runs (pair [1, 2] id) (.dqpush 0 1 0 0 0) (fA 1) (fun c s1 => drained c s1 && args c && ((rest c).pushRecord 0 (taskOf 0x40)).isSome) = true ∧
    runs (pair [] id) (.dqpop 0 0 0 0 0) (fD 0) (fun c s1 => drained c s1 && ((List.range 4).all fun n => !(c.t.reg n).due) &&
      (((rest c).checkDeque 0 5).popNewest 0 5).isNone) = true ∧
    runs full (.dqpop 0 0 0 0 0) (fD 0) (fun c s1 => drained c s1 && ((List.range 4).all fun n => !(c.t.reg n).due) &&
      decide ((((rest c).checkDeque 0 5).popNewest 0 5).map (·.1) = some (taskOf 0x40))) = true ∧
    runs (pair [] id) (.quit 0 0 0 0 0) f0 (fun c s1 => drained c s1) = true ∧
    runs (pair [] fun t => { t with drain := some { m := 0, accRow := 0 } }) (.quitD 0 0 0 0 0) f0 (fun c s1 => drained c s1) = true ∧
    runs (pair [0, 9] fun t => { t with drain := some { m := 0, accRow := 0 } }) (.quitF 0 1 0 0 0) (fA 1) (fun c s1 => drained c s1 && c.t.drain.isSome) = true ∧
    runs (pair [0, 9] fun t => { t with future := some (loc 8) }) (.quitF 0 1 0 0 0) (fA 1) (fun c s1 => drained c s1 &&
      decide (c.t.drain = none ∧ c.t.future = some (loc 8)) && reaches c s1 (loc 8) 8 false true true) = true ∧
    State.reset.MemOk ∧ State.reset.poisoned 0x1000 = false ∧ (pair [] id).thread? (pair [] id).nextUid = none ∧
    ((pair [] id).core 0).deque = [] ∧ ((pair [] id).tenant 5).gangs = [] ∧ (pair [] id).thread? 1 = some (one (pair [] id)) := by decide

/-- Each clause of YieldAndStealing, a wait at its last cycle and behind it, an idle core, and victims with and without a record. -/
theorem witness_YieldAndStealing :
    let s := pair [] id
    let two : State := { s with threads := s.threads ++ [Thread.fresh 2 9 5 .user .day 0x1000 []] }
    let y (till : Nat) : State := pair [] fun t => { t with yield := some { others := [2], till := till } }
    let ask (f : State → State) : State := f (s.modAccount 0 5 fun a => { a with asking := some 1 })
    let gives (s : State) : State := s.modCore 1 fun c => { c with deque := [taskOf 0x40] }
    let none_ (s : State) : State := (s.modCore 1 fun c => { c with deque := [{ taskOf 0x40 with cls := .noon }] }).modTenant 5 fun t => { t with desc := t.desc.set 1 1 }
    runs s (.yield 0 0 0 0 0) f0 (fun c s1 => decide (s1.peers c.t = [])) = true ∧
    runs two (.yield 0 0 0 0 0) f0 (fun c s1 => decide (s1.peers c.t = [2])) = true ∧
    (one (y 0)).yield.map (·.till) = some 0 ∧ (0 : Nat) ≤ (y 0).now ∧ (y 1).now < 1 ∧
    s.maySteal 0 5 = true ∧ (s.nextVictim 0 5).1 = some 1 ∧ (s.victims 0 5).filter (fun v => !((s.core 0).accountOf 5).tried.contains v) = [1] ∧
    (ask id).maySteal 0 5 = false ∧ (((ask id).core 0).accountOf 5).asking = some 1 ∧ (ask id).away 1 = false ∧
    (ask fun s => s.modCore 1 fun c => { c with stopped := true }).away 1 = true ∧ (((ask id).checkDeque 1 5).popOldest 1 5).isNone = true ∧
    ((((ask gives).checkDeque 1 5).popOldest 1 5).map (·.1)) = some (taskOf 0x40) ∧ (ask gives).slotsFor 0 5 .day ≠ [] ∧
    ((((none_ (ask id)).checkDeque 1 5).popOldest 1 5).map (·.1.cls)) = some .noon ∧ (none_ (ask id)).slotsFor 0 5 .noon = [] ∧ ((s.core 0).accountOf 5).backoff ≤ s.now := by decide

/-- A gang of tenant 5 at index 4095 with the greatest check value. -/
def gangOf (n : Nat) (members arrived : List Nat) : Gang := { check := 4095, n := n, gen := 0, members := members, arrived := arrived, ecc := .ok, broken := false }

/-- A bench whose thread names the gang `g`, or another. -/
def inGang (id : Word) (g : Gang) : State := (bench 0 .user [0, id] fun t => t).modTenant 5 fun t => { t with gangs := [(4095, g)] }

/-- Each clause of GangsAndBarriers: a quota reached and not, members and others, live IDs and others, arrivals short and complete. -/
theorem witness_GangsAndBarriers :
    let s := bench 0 .user [] id
    let live (c : Ctx) : Option (Nat × Gang) := (c.popped.dropReadAhead c.uid).findGang c.t.tenant c.a
    let sees (s : State) (i : Instr) (g : Gang) (ok : Ctx → Bool) : Bool := runs s i (fA 1) fun c s1 => drained c s1 && decide (live c = some (4095, g)) && ok c
    let g := gangOf 1 [1] []
    let h := gangOf 1 [2] []
    runs (s.modTenant 5 fun t => { t with desc := t.desc.set 2 0 }) (.gnew 0 0 0 0 0) (fD 0)
      (fun c _ => decide ((c.popped.tenant c.t.tenant).gangQuota ≤ (c.popped.tenant c.t.tenant).gangs.length)) = true ∧
    runs s (.gnew 0 0 0 0 0) (fD 0) (fun c _ => decide ((c.popped.tenant c.t.tenant).gangs.length < Nat.min 4096 (c.popped.tenant c.t.tenant).gangQuota)) = true ∧
    sees (inGang 0xFFFFFF h) (.gjoin 0 1 0 0 0) h (fun c => decide (g.ecc ≠ .double ∧ c.uid ∉ h.members)) = true ∧
    sees (inGang 0xFFFFFF g) (.gleave 0 1 0 0 0) g (fun c => decide (c.uid ∈ g.members)) = true ∧
    sees (inGang 0xFFFFFF g) (.gbar 0 1 0 0 0) g (fun c => decide (c.uid ∈ g.members)) = true ∧
    sees (inGang 0xFFFFFF g) (.gend 0 1 0 0 0) g (fun _ => true) = true ∧
    runs (inGang 0xFFEFFF g) (.gend 0 1 0 0 0) (fA 1) (fun c s1 => drained c s1 && decide (live c = none)) = true ∧
    sees (inGang 0xFFFFFF g) (.gjoin 0 1 0 0 0) g (fun c => decide (c.uid ∈ g.members)) = true ∧
    sees (inGang 0xFFFFFF h) (.gbar 0 1 0 0 0) h (fun c => decide (c.uid ∉ h.members)) = true ∧
    lookup? ((inGang 0 g).tenant 5).gangs 4095 = some g ∧ (g.n ≠ 0 ∧ g.arrived.length ≠ g.n) ∧
    ((gangOf 1 [1] [1]).n ≠ 0 ∧ (gangOf 1 [1] [1]).arrived.length = 1) ∧ (gangOf 0 [] []).n = 0 ∧ (1 : Nat) ∈ g.members := by decide

/-- Each clause of MessagesAndLinks: the queue of a core with 248 messages and 247, a foreign and an own thread, links without and with a
ring, a neighbour and a far core, channels with and without words. -/
theorem witness_MessagesAndLinks :
    let fM : Form := { f0 with a := opA .src 1 0, b := opB .srcPair 2 0 }
    let send (f : State → State) (tid : Word) (ok : Ctx → State → State → Bool) : Bool :=
      runs (f (pair [0, tid, 8, 9] id)) (.msend 0 1 2 0 0) fM fun c s1 => ok c s1 (c.popped.dropReadAhead c.uid)
    let away (s : State) : State := s.modCore 1 fun c => { c with switched := some 0 }
    let fill (n : Nat) (s : State) : State := s.modCore 0 fun c => { c with mail := List.replicate n mail }
    let fL : Form := fAB 1 2
    let link (f : State → State) (a b : Word) (ok : Ctx → State → Bool) : Bool := runs (f (pair [0, a, b] id)) (.lcfg 0 1 2 0 0) fL ok
    let ends (c : Ctx) (s1 : State) : Bool :=
      s1.linkAllowed c.t (if c.a.toNat.testBit 20 then some (fieldOf c.a 0 20) else none) &&
      s1.linkAllowed c.t (if c.a.toNat.testBit 44 then some (fieldOf c.a 24 20) else none)
    let other : Thread := { Thread.fresh 2 9 5 .user .day 0 [] with up := some 8 }
    let chan : Channel := { src := 1, dst := 2, words := [6], ringPa := [], ringVa := 0, ringHead := 0, ringLen := 0 }
    let holds (s : State) : State := ({ s with threads := s.threads ++ [other], channels := [chan] } : State).modThread 1 fun t => { t with down := some 9 }
    let ring (s : State) : State := (s.storeWord (spadPa 0 16) (loc 64)).storeWord (spadPa 0 24) 4
    let ringed (c : Ctx) (s1 : State) (dry : Bool) : Bool := ends c s1 && drained c s1 && (match s1.threadPages c.t c.b.toNat 16 .both with
      | .ok ps => decide (pageOf ps c.b.toNat = some (spadPa 0 16)) && ps.all fun x => tagged x.2.1
      | .error _ => false) && match finds? c s1 c.b (spadPa 0 16) 2 with
      | none => false
      | some (ws, q, _) => decide (ws.getD 1 0 = 4 ∧ (ws.getD 0 0).toNat % 8 = 0 ∧ q.downDrained c.t = dry) &&
        match q.threadPages c.t (ws.getD 0 0).toNat 128 .both with | .ok rs => rs.all fun x => tagged x.2.1 | .error _ => false
    send id (w64 (2 * 512)) (fun c s1 _ => !(s1.tenant c.t.tenant).hasCore (tidCore (fieldOf c.a 0 20))) = true ∧
    send away (w64 512) (fun c s1 p => (s1.tenant c.t.tenant).hasCore 1 && drained c s1 && (p.core 1).switched.isSome) = true ∧
    send (fill Config.mailSend) 8 (fun c s1 p => drained c s1 && decide ((p.core 0).switched = none ∧ p.mailRoom 0 = false)) = true ∧
    send (fill (Config.mailSend - 1)) 8 (fun c s1 p => drained c s1 && decide ((p.holder? 8).map (·.tenant) = some 5 ∧ p.mailRoom 0 = true)) = true ∧
    send id 9 (fun c s1 p => drained c s1 && decide ((p.holder? 9).isNone ∧ p.mailRoom 0 = true)) = true ∧
    runs (fill 1 (pair [] id)) (.mwait 0 0 0 0 0) (fD 0) (fun c _ => decide (c.popped.mailbox c.t = [mail])) = true ∧
    runs (pair [] id) (.mwait 0 0 0 0 0) (fD 0) (fun c _ => decide (c.popped.mailbox c.t = [])) = true ∧
    (pair [] id).addressee 0 { mail with bound := none } = some (one (pair [] id)) ∧
    (let d (n : Nat) : State := { fill n (pair [] id) with devMsgs := [(0, { mail with device := true })] }
     (d 255).deviceRoom 0 { mail with device := true } = true ∧ (fill 224 (pair [] id)).deviceRoom 0 mail = false ∧
       (fill 223 (pair [] id)).deviceRoom 0 mail = true ∧ (d 255).devMsgs.find? (fun e => e.2.id == 1) = some (0, { mail with device := true }) ∧ ((d 255).core 0).mail.length < 256 ∧
       256 ≤ ((d 256).core 0).mail.length) ∧
    link id (w64 (2 ^ 20 + 600 * 512)) 0 (fun c s1 => !ends c s1) = true ∧
    link id (w64 (2 ^ 20 + 512)) 0 (fun c s1 => ends c s1 && decide (c.b = 0) && s1.downDrained c.t) = true ∧
    link holds 0 0 (fun c s1 => ends c s1 && decide (c.b = 0) && !s1.downDrained c.t) = true ∧
    link id 0 8 (fun c s1 => ends c s1 && decide (c.b.toNat % 16 ≠ 0)) = true ∧
    link ring 0 (loc 16) (fun c s1 => ringed c s1 true) = true ∧ link (fun s => ring (holds s)) 0 (loc 16) (fun c s1 => ringed c s1 false) = true ∧
    (let s : State := { pair [] (fun t => { t with status := .blockedRegister, await := .upstream, up := some 9, blockedAt := some 0 }) with now := 2 ^ 20 }
     s.thread? 1 = some (one s) ∧ s.frozen (one s) = false ∧ (one s).blockedAt = some 0 ∧ 0 + (s.tenant 5).linkLimit ≤ s.now) := by decide

/-- Each clause of FencesAndHeap: engines and stores short of their coherence point; a heap of one arena, none, and requests at 64 KiB. -/
theorem witness_FencesAndHeap :
    let s (n : Word) : State := bench 0 .user [0, n] id
    let send : Send := { id := 1, uids := [1], tid := 8, tenant := 5, from_ := 0, curatorLevel := false, dusk := false, set := 0, key := 0, op := 0, core := 0,
                         off := 0, value := 0, flags := 0, since := 0, buffered := true }
    let busy : State := { s 0 with sends := [send] }
    let short : State := { s 0 with outward := [{ id := 1, uid := some 1, queue := none, pa := 0, size := 8, val := 0 }] }
    let waits : State := { s 0 with accesses := [{ Access.blank .load 0 0 with id := 1, uid := 1 }] }
    let heap (n : Word) (l : List (Nat × Nat)) : State := (s n).modTenant 5 fun t => { t with heapdesc := 0x40000001, live := l }
    let alloc (s : State) (ok : Ctx → Tenant → Bool) : Bool := runs s (.halloc 0 1 0 0 0) (fmtR1 0 1 0 0 0) fun c s1 => drained c s1 &&
      ok c ((c.popped.dropReadAhead c.uid).tenant c.t.tenant)
    let class_ (c : Ctx) : Nat := Nat.max 5 (ceilLog2 (Nat.max c.a.toNat 1))
    runs (s 0) (.fenceS 0 0 0 0 0) f0 (fun c s1 => drained c s1 && !s1.enginesBusy c.t.core c.uid && !s1.incoherent c.uid) = true ∧
    runs busy (.fenceD 0 0 0 0 0) f0 (fun c s1 => drained c s1 && s1.enginesBusy c.t.core c.uid) = true ∧
    runs short (.fenceS 0 0 0 0 0) f0 (fun c s1 => drained c s1 && !s1.enginesBusy c.t.core c.uid && s1.incoherent c.uid) = true ∧
    runs waits (.fenceT 0 0 0 0 0) f0 (fun c s1 => decide (c.t.owed = [] ∧ s1.drained c.uid = false)) = true ∧
    alloc (heap 65536 []) (fun c t => decide (t.arenaSize ≠ 0 ∧ c.a.toNat ≤ 65536 ∧ t.headHit = false) && (t.allocate (homeStack c.t.core) (class_ c) 0).isSome) = true ∧
    alloc (heap 65537 []) (fun c t => decide (t.arenaSize ≠ 0 ∧ 65536 < c.a.toNat)) = true ∧ alloc (s 1) (fun _ t => decide (t.arenaSize = 0)) = true ∧
    alloc (heap 1 [(0x40000000, 32)]) (fun c t => decide (t.arenaSize ≠ 0 ∧ c.a.toNat ≤ 65536 ∧ t.headHit = false) && (t.allocate (homeStack c.t.core) (class_ c) 0).isNone) = true ∧
    alloc ({ heap 1 [(0x40200000, 5)] with picks := [3] }.modTenant 5 fun t => { t with headHit := true }) (fun _ t => t.headHit && decide (3 % (t.live.length + 1) ≠ 0) &&
      (t.live[3 % (t.live.length + 1) - 1]?).isSome) = true ∧
    (16 : Nat) ≤ 16 ∧
    runs (heap 0x40200000 [(0x40200000, 5)]) (.hfree 0 1 0 0 0) (fA 1) (fun c s1 => drained c s1 &&
      (lookup? ((c.popped.dropReadAhead c.uid).tenant c.t.tenant).live c.a.toNat).isSome) = true ∧
    runs (heap 0x40200000 []) (.hfree 0 1 0 0 0) (fA 1) (fun c s1 => drained c s1 &&
      !(lookup? ((c.popped.dropReadAhead c.uid).tenant c.t.tenant).live c.a.toNat).isSome) = true := by decide

/-- Each clause of WatchTables: lengths 0, 64 and 63, actions 1, 2 and 3, tables with and without room; words without W, without an
entry and with one. -/
theorem witness_WatchTables :
    let w (a b : Word) (g : State → State) (ok : Ctx → State → Bool) : Bool := runs (g (bench 0 .user [0, a, b] id)) (.watch 0 1 2 0 0) (fmtR 0 1 2 0 0) ok
    let u (a b : Word) (ok : Ctx → State → Bool) : Bool := runs (bench 0 .user [0, a, b] id) (.unwatch 0 1 2 0 0) (fAB 1 2) ok
    let en (die : Nat) : WatchEntry := { die := die, lo := spadPa 0 0, hi := spadPa 0 64, tenant := 5, action := 2, arg := 0, installer := .watch, offset := 0, bound := none }
    let crowd (s : State) : State := { s with watch := List.replicate Config.watchEntries (en (dieOf 0)) }
    let pages (c : Ctx) (s1 : State) (n : Nat) (ok : List (Nat × Nat × Nat) → Bool) : Bool := match s1.threadPages c.t c.a.toNat n .write with
      | .ok ps => decide (c.t.actsFor = c.t.tenant) && (ps.all fun x => tagged x.2.1) && ok ps | .error _ => false
    let room (c : Ctx) (ps : List (Nat × Nat × Nat)) : Bool := (c.popped.dropReadAhead c.uid).tablesHold ((c.popped.dropReadAhead c.uid).entriesFor (runsOf c.a.toNat [] ps))
    w (loc 8) (64 ||| 2 <<< 32) id (fun c _ => decide (c.a.toNat % 64 ≠ 0)) = true ∧
    w (loc 0) (63 ||| 2 <<< 32) id (fun c _ => decide (fieldOf c.b 0 32 % 64 ≠ 0)) = true ∧
    w (loc 0) (64 ||| 1 <<< 32) id (fun c _ => decide (c.a.toNat % 64 = 0 ∧ fieldOf c.b 0 32 % 64 = 0 ∧ fieldOf c.b 32 2 < 2)) = true ∧
    w (loc 0) (64 ||| 3 <<< 32 ||| w64 (1280 * 512) <<< 44) id (fun c s1 => decide (fieldOf c.b 32 2 = 3 ∧
      (s1.tenant 5).hasCore (tidCore (fieldOf c.b 44 20)) = false)) = true ∧
    w (loc 0) (2 <<< 32) id (fun c _ => decide (fieldOf c.b 0 32 = 0 ∧ 2 ≤ fieldOf c.b 32 2)) = true ∧
    w (loc 0) (64 ||| 3 <<< 32 ||| 8 <<< 44) id (fun c s1 => drained c s1 && decide ((s1.tenant 5).hasCore (tidCore (fieldOf c.b 44 20)) = true) &&
      pages c s1 64 (room c)) = true ∧
    w (loc 0) (64 ||| 2 <<< 32) crowd (fun c s1 => drained c s1 && pages c s1 64 fun ps => !room c ps) = true ∧
    u (loc 8) 64 (fun c _ => decide (c.a.toNat % 64 ≠ 0)) = true ∧ u (loc 0) 0 (fun c _ => decide (c.a.toNat % 64 = 0 ∧ c.b = 0)) = true ∧
    u (loc 0) 64 (fun c s1 => drained c s1 && decide (c.b ≠ 0 ∧ c.b.toNat % 64 = 0) && pages c s1 64 fun _ => true) = true ∧
    (let s := (bench 0 .user [] id).setW (spadPa 0 0) 64
     let t : State := { s with watch := [en (dieOf 0)] }
     tagged (spadPa 0 0) = true ∧ ((bench 0 .user [] id).tag (spadPa 0 0)).w = false ∧ (s.tag (spadPa 0 56)).w = true ∧ (s.tag (spadPa 0 64)).w = false ∧
       s.watchMatches (spadPa 0 0) = [] ∧ t.watchMatches (spadPa 0 56) = [en (dieOf 0)]) := by decide
/-! ### Witnesses: streams, copies, gathers, key routing, row operations -/

/-- Words in the scratchpad of core 0 from an offset on. -/
def withWords (off : Nat) (ws : List Word) (s : State) : State :=
  (List.range ws.length).foldl (fun s i => s.storeWord (spadPa 0 (off + 8 * i)) (ws.getD i 0)) s

/-- A good stream record: 4 elements of FP64 at the end of the window; one behind it; one with the reserved direction. -/
def goodRecord : List Word := [0xFFFE0, 0x800000004, 0, 0]

/-- Each clause of StreamTableAndPositions, with the stream index at 4 of 4, records within and behind the allotment, skips of 0 and more. -/
theorem witness_StreamTableAndPositions :
    let fS : Form := { f0 with a := opA .src 1 0, d := opD .name 48 }
    let fP : Form := { f0 with a := opA .name 48 0, d := opD .dst 0 }
    let stab (r : List Word) (i b : Word) (ok : Ctx → State → Bool) : Bool :=
      runs (withWords 0x100 r (bench 0 .user [0, i, b] id)) (.stab 0 1 2 0 0) (fAB 1 2) ok
    let is_ (c : Ctx) (s : State) (i : Nat) : Bool := s.hasStreamIndex c.t.tenant c.t.core i
    let rec_ (c : Ctx) (s1 : State) (good inside : Bool) : Bool := drained c s1 && descr c s1 c.b 32 true false fun _ ws p =>
      decide ((StreamEntry.ofWords ws).good c.t.core = good ∧ p.streamInside c.t.tenant c.t.core (StreamEntry.ofWords ws) = inside)
    let x := streamOf [7]
    let has (l : List (Nat × StreamEntry)) (a : Word) (acc : List Access) : State := { ((bench 0 .user [0, a] fun t =>
      { t with streams := Vector.replicate 8 (some x) }).modCore 0 fun c => { c with stab := l }) with accesses := acc }
    let put : Access := { Access.blank (.streamPut 0) 0 0 with id := 1, uid := 1, relaxed := true }
    stab goodRecord 0 (loc 0x108) (fun c _ => decide (c.b.toNat % 32 ≠ 0)) = true ∧
    stab goodRecord 64 (loc 0x100) (fun c s1 => decide (c.b.toNat % 32 = 0) && !is_ c s1 64) = true ∧
    stab goodRecord 0 0 (fun c s1 => is_ c s1 0 && decide (c.b = 0)) = true ∧
    stab goodRecord 0 (loc 0x100) (fun c s1 => is_ c s1 0 && decide (c.b ≠ 0) && rec_ c s1 true true) = true ∧
    stab [0xFFFE8, 0x800000004, 0, 0] 0 (loc 0x100) (fun c s1 => rec_ c s1 true false) = true ∧
    stab [0x30000000, 0x800000004, 0, 0] 0 (loc 0x100) (fun c s1 => rec_ c s1 false true) = true ∧
    runs (has [] 64 []) (.sbind 48 1 0 0 0) fS (fun c s1 => !c.a.toNat.testBit 63 && !is_ c s1 64) = true ∧
    runs (has [] 0 []) (.sbind 48 1 0 0 0) fS (fun c s1 => is_ c s1 0 && decide (lookup? (s1.core 0).stab 0 = none)) = true ∧
    runs (has [] 0x8000000000000000 []) (.sbind 48 1 0 0 0) fS (fun c s1 => c.a.toNat.testBit 63 && decide (s1.accesses = [])) = true ∧
    runs (has [(0, x.entry)] 0 []) (.sbind 48 1 0 0 0) fS (fun c s1 => is_ c s1 0 && decide (lookup? (s1.core 0).stab 0 = some x.entry ∧ s1.accesses = [])) = true ∧
    runs (has [(0, x.entry)] 0 [put]) (.sbind 48 1 0 0 0) fS (fun c s1 => is_ c s1 0 && decide (s1.accesses = [put] ∧ put.uid = c.uid)) = true ∧
    runs (has [] 0 []) (.spos 0 48 0 0 0) fP (fun c _ => decide (c.t.stream? 0 = some x)) = true ∧
    runs (bench 0 .user [0, 5] id) (.spos 0 48 0 0 0) fP (fun c _ => decide (c.t.stream? 0 = none)) = true ∧
    runs (bench 0 .user [0, 5] id) (.sskip 48 1 0 0 0) fS (fun c _ => decide (c.t.stream? 0 = none)) = true ∧
    runs (has [] 0 []) (.sskip 48 1 0 0 0) fS (fun c _ => decide (c.t.stream? 0 = some x ∧ c.a = 0)) = true ∧
    runs (has [] 2 []) (.sskip 48 1 0 0 0) fS (fun c _ => decide (c.t.stream? 0 = some x ∧ c.a ≠ 0)) = true ∧
    ((has [] 0 []).thread? 1).map (·.stream? 0) = some (some x) ∧ (3 : Nat) < x.entry.count0 ∧ (0 : Nat) < x.entry.count1 ∧ x.entry.width ≠ 4 ∧
    (has [] 0 []).mayReadAhead (one (has [] 0 [])) 0 = true ∧ x.posAt x.ahead.length = some 1 ∧
    (bench 0 .user [] id).mayReadAhead (one (bench 0 .user [] id)) 0 = false := by decide

/-- A transfer of two words within DRAM. -/
def aTransfer (st : TransferState) : Transfer :=
  { id := 5, serial := 1, uid := some 1, tid := 8, tenant := 5, dusk := false, cls := 1, queue := none, src := 0x10000, dst := 0x20000, len := 16, sstr := 0,
    dstr := 0, rows := 1, flg := 0, tag := 0, nc := false, rowFallback := false, curatorLevel := false, pages := [(0, 0, 0x40000000)], subs := [],
    state := st, next := 1, carried := [], written := 1, done := 8, short := false, poisoned := false, lease := false }

/-- Each clause of CopiesAndSubscriptions; the copied word is the last. -/
theorem witness_CopiesAndSubscriptions :
    let s (dst : Word) : State := paged (bench 0 .user [0, 5, 8] fun t => { t with cpysrc := 0x10000, cpydst := dst, cpylen := 16 })
    let fC : Form := fAD 1 0
    let go (s : State) (ok : Ctx → State → Bool) : Bool := runs s (.cpygo 0 1 0 0 0) fC fun c s1 => drained c s1 && ok c s1
    let even (c : Ctx) : Bool := let r := c.t.copyRegs
      ([r.src, r.dst, r.len, wordI r.sstr, wordI r.dstr].filter fun v => v.toNat % 8 ≠ 0).isEmpty
    let range (c : Ctx) (s1 : State) : Bool := match copyRange (s1.pager c.t) c.t.copyRegs with | .ok _ => true | .error _ => false
    let many (n : Nat) (s : State) : State := s.modCore 0 fun c => { c with transfers := List.replicate n (aTransfer .queued) }
    let found (c : Ctx) (s1 : State) : Option Transfer := (s1.core c.t.core).transfers.reverse.find? fun x => x.id == c.a.toNat % 2 ^ 16 && x.tenant == c.t.tenant && x.uid.isSome
    let holds (x : Transfer) : State := (s 0x20000).modCore 0 fun c => { c with transfers := [x] }
    let x := aTransfer .running
    let r := ((s 0).storeWord 0x10008 77)
    let sub (a b : Word) (l : List Subscription) (ok : Ctx → State → Bool) : Bool :=
      runs ((bench 0 .user [0, a, b] id).modCore 0 fun c => { c with subs := l }) (.subs 0 1 2 0 0) (fAB 1 2) ok
    let rooted (c : Ctx) (s1 : State) : Bool := s1.present (fieldOf c.a 16 11) && (s1.tenant 5).hasCore (fieldOf c.a 16 11)
    let placed (c : Ctx) (s1 : State) : Bool := decide (c.b.toNat % 2 ^ 20 % 8 = 0) && s1.allots 5 0 (c.b.toNat % 2 ^ 20) 8
    let u (tag : Nat) : Subscription := { tenant := 5, tag := tag, root := 0, off := 0 }
    go (s 0x20004) (fun c _ => !even c) = true ∧ go (s (w64 windowEnd)) (fun c s1 => even c && !range c s1) = true ∧
    go (many 32 (s 0x20000)) (fun c s1 => even c && range c s1 && decide (32 ≤ (s1.core 0).transfers.length)) = true ∧
    go (many 31 (s 0x20000)) (fun c s1 => even c && range c s1 && decide ((s1.core 0).transfers.length < 32)) = true ∧
    runs (holds x) (.cpyst 0 1 0 0 0) fC (fun c s1 => decide (found c s1 = some x)) = true ∧
    runs (s 0) (.cpyst 0 1 0 0 0) fC (fun c s1 => decide (found c s1 = none)) = true ∧
    runs (holds x) (.cpycan 0 1 0 0 0) (fA 1) (fun c s1 => decide (found c s1 = some x ∧ x.state ≠ .cancelled ∧ x.next < x.rows * (x.len / 8))) = true ∧
    runs (holds (aTransfer .cancelled)) (.cpycan 0 1 0 0 0) (fA 1) (fun c s1 => decide (found c s1 = some (aTransfer .cancelled))) = true ∧
    runs (holds { x with next := 2 }) (.cpycan 0 1 0 0 0) (fA 1) (fun c s1 => decide (found c s1 = some { x with next := 2 } ∧ x.rows * (x.len / 8) ≤ 2)) = true ∧
    ((holds x).core 0).transfers.find? (fun x => x.serial == 1) = some x ∧ ((holds x).core 0).mayRun x = true ∧ (holds x).picks = [] ∧
    (aTransfer .cancelled).state = .cancelled ∧ ((many 2 (s 0)).core 0).mayRun { aTransfer .queued with serial := 2 } = false ∧
    r.MemOk ∧ x.subs = [] ∧ x.rowFallback = false ∧ x.carried = [] ∧ x.srcPa x.next = some 0x10008 ∧
      r.copyMayPut { x with next := 0, carried := [.data 7] } = true ∧ r.copyMayRead { x with next := 0, carried := [.data 7] } = true ∧
      r.copyMayPut { x with carried := [.data 7] } = true ∧ r.copyMayRead { x with carried := [.data 7] } = false ∧
      ({ r with rowOps := [{ id := 1, uid := 1, tid := 8, tenant := 5, src := none, dst := 0x20000, data := none }] } : State).copyMayPut { x with carried := [.data 7] } = false ∧
      (r.core 0).Unwatched ∧ x.dstPa x.next = some 0x20008 ∧ regionOf 0x10008 = .dram ∧
      regionOf 0x20008 = .dram ∧ r.eccOf 0x10008 = .ok ∧ r.eccOf 0x20008 = .ok ∧ r.copyMayAct x = true ∧ r.poisoned 0x10008 = false ∧ r.poisoned 0x20008 = false ∧ (r.tag 0x20008).w = false ∧
      r.waiters [0x20008] = [] ∧ (r.copyWrite 0 x (.data 77)).1.word 0x20008 = 77 ∧ x.next < x.words ∧
      (holds x).transferStopped 0 x = false ∧ (holds x).pick (2 * (x.words - x.next) - x.carried.length + 1) = (0, holds x) ∧ x.aligned = false ∧ ({ x with next := 2 } : Transfer).aligned = true ∧
      ((holds x).modCore 0 fun c => { c with stopped := true }).transferStopped 0 x = true ∧
    sub (1280 <<< 16) 0 [] (fun c s1 => !rooted c s1) = true ∧ sub 5 4 [] (fun c s1 => rooted c s1 && !placed c s1) = true ∧
    sub 5 8 ((List.range 16).map fun n => u (n + 6)) (fun c s1 => rooted c s1 && placed c s1 && decide (16 ≤ (s1.core 0).subs.length)) = true ∧
    sub 5 8 ((List.range 15).map fun n => u (n + 6)) (fun c s1 => rooted c s1 && placed c s1 && decide ((s1.core 0).subs.length < 16)) = true ∧
    sub 5 8 [u 5] (fun c s1 => rooted c s1 && placed c s1 && decide ((s1.core 0).subs = [u 5])) = true ∧
    runs (s 0) (.unsubs 0 1 0 0 0) (fA 1) (fun _ _ => true) = true := by unfold Core.Unwatched; decide

/-- A table of four rows of 64 bytes of FP32 at 0x10000, version 1, and a request for two of them. -/
def aTable (serial : Nat) : TableSlot := { words := [0x10000, 0x400000001, 1, 1, 0, 0, 0, 0], hot := false, serial := serial }
def aRequest : List Word := [0x200000003 ||| 1 <<< 16, 0xFFFFFFFF00200, 0x20000, 0xFFFFFFFF00300]

def aGather (sum : Bool) (next : Nat) : Gather :=
  { id := 1, uid := 1, tenant := 5, core := 0, stack := 0, sum := sum, curatorLevel := false, req := aRequest, slot := 3, table := aTable 1, next := next,
    rows := 2, lookups := 2, dusk := false, window := 0, seen := [], got := [], pages := [(windowBase, spadPa 0 0, 0x10000), (0x20000, 0x20000, 0x10000)] }

/-- Each clause of GathersAndTables: good and bad requests and descriptors, slots 255 and 256, rows that are written, poisoned and skipped. -/
theorem witness_GathersAndTables :
    let s (a : Word) (l : List (Nat × TableSlot)) : State := (withWords 0x100 aRequest (paged (bench 0 .user [0, a, loc 0x180] id))).modTenant 5 fun t => { t with tables := l }
    let gath (s : State) (ok : Ctx → List Word → State → State → Bool) : Bool := runs s (.gath 0 1 0 0 0) (fA 1) fun c s1 => drained c s1 &&
      decide (c.a.toNat % 32 = 0) && descrAt c s1 c.a 32 true false fun _ ws q p => ok c ws q p
    let pages (c : Ctx) (q : List Word) (p : State) : Bool := 
      match p.threadPages c.t (reqIdx q) (reqCount q * reqSize q) .read, p.threadPages c.t (reqDst q) 128 .write with
      | .ok _, .ok ds => (ds.filter badDest).isEmpty | _, _ => false
    let desc (ws : List Word) (a b : Word) : State := withWords 0x200 ws (bench 0 .user [0, a, b] id)
    let tbsw (s : State) (ok : Ctx → State → Bool) : Bool := runs s (.tbsw 0 1 2 0 0) (fAB 1 2) ok
    let old (s : State) : State := { (s.modTenant 5 fun t => { t with oldTables := [(255, aTable 1)] }) with gathers := [{ aGather false 0 with slot := 255 }] }
    let run (g : Gather) : State := { withWords 0x200 [0x300000001] (s 0 [(3, aTable 1)]) with gathers := [g] }
    let got (s : State) (g : Gather) : Nat := match (if g.sum then s.bag g g.next else s.lookupRow g g.next).2.2 with | .skip => 0 | .poison => 1 | .value _ => 2
    runs (s (loc 0x108) []) (.gath 0 1 0 0 0) (fA 1) (fun c _ => decide (c.a.toNat % 32 ≠ 0)) = true ∧
    gath (s (loc 0x100) []) (fun _ q _ p => decide (lookup? (p.tenant 5).tables (fieldOf (q.getD 0 0) 0 8) = none)) = true ∧
    gath (s (loc 0x100) [(3, aTable 1)]) (fun c q s2 p => reqGood q false && decide (lookup? (p.tenant 5).tables 3 = some (aTable 1)) && pages c q s2) = true ∧
    gath ((s (loc 0x100) [(3, aTable 1)]).modCore 0 fun c => { c with tlb := [] }) (fun c q s2 _ => reqGood q false && !pages c q s2) = true ∧
    reqGood aRequest true = true ∧ (aTable 1).fmt ∈ [0, 1, 2, 3, 9, 10] ∧
    tbsw (desc [] 256 (loc 0x200)) (fun c _ => decide (255 < c.a.toNat)) = true ∧ tbsw (desc [] 255 (loc 0x220)) (fun c _ => decide (c.a.toNat ≤ 255 ∧ c.b.toNat % 64 ≠ 0)) = true ∧
    tbsw (desc [] 255 0) (fun c s1 => drained c s1 && decide (c.b = 0)) = true ∧
    tbsw (desc (aTable 1).words 255 (loc 0x200)) (fun c s1 => drained c s1 && descr c s1 c.b 64 true false fun _ ws p =>
      ({ words := ws, hot := false, serial := 0 } : TableSlot).good ((p.tenant 5).tableVersion 255)) = true ∧
    tbsw (desc [] 255 (loc 0x200)) (fun c s1 => drained c s1 && descr c s1 c.b 64 true false fun _ ws p =>
      !({ words := ws, hot := false, serial := 0 } : TableSlot).good ((p.tenant 5).tableVersion 255)) = true ∧
    ((s 0 []).tenant? 5).isSome = true ∧ ((aTable 1).words.getD 2 0).toNat.testBit 4 = false ∧
    runs (desc [] 256 0) (.tbdrn 0 1 0 0 0) (fA 1) (fun c _ => decide (255 < c.a.toNat)) = true ∧
    runs (old (desc [] 255 0)) (.tbdrn 0 1 0 0 0) (fA 1) (fun c s1 => s1.oldGathers 5 c.a.toNat ((s1.tenant 5).oldVersions c.a.toNat)) = true ∧
    runs (desc [] 255 0) (.tbdrn 0 1 0 0 0) (fA 1) (fun c s1 => !s1.oldGathers 5 c.a.toNat ((s1.tenant 5).oldVersions c.a.toNat)) = true ∧
    (run (aGather false 0)).gathers.find? (fun g => g.id == 1) = some (aGather false 0) ∧ (run (aGather false 0)).gatherMayWrite (aGather false 0) = true ∧
    ((run (aGather false 0)).modCore 0 fun c => { c with stopped := true }).gatherMayWrite (aGather false 0) = false ∧
    got (run (aGather false 0)) (aGather false 0) = 2 ∧ got ((run (aGather false 0)).poisonAt (spadPa 0 0x200)) (aGather false 0) = 1 ∧
    got ((run (aGather false 0)).storeWord (spadPa 0 0x200) 4) (aGather false 0) = 0 ∧ got (run (aGather true 0)) (aGather true 0) = 2 ∧
    (∀ x ∈ [[1, 2], [3, (4 : Word)]], x.length = 2) ∧
    (let h (n : Nat) : State := State.reset.modFront fun f => { f with hotLookups := [(7, n)] }
     lookupD (h (2 ^ 20 - 1)).front.hotLookups 7 0 < 2 ^ 20 ∧ 2 ^ 20 ≤ lookupD (h (2 ^ 20)).front.hotLookups 7 0) := by decide

/-- A bin set on core 0, with OP `op`; a send to its bin at offset 64. -/
def aSet (op : Word) : Word × Word := (0x10000 ||| op <<< 32, 0x400000000)
def aSend (op : Nat) (buffered : Bool) : Send :=
  { id := 1, uids := [1], tid := 8, tenant := 5, from_ := 0, curatorLevel := false, dusk := false, set := 63, key := 0, op := op, core := 0, off := 64, value := 5,
    flags := 0, since := 0, buffered := buffered }

/-- Each clause of KeyRoutedSends: sets 63 and 64, 63 and 64 sends, an entry in its buffer at 511 and 512 cycles, and each phase of KFLUSH. -/
theorem witness_KeyRoutedSends :
    let s (a b : Word) (n : Nat) (l : List (Nat × (Word × Word))) : State :=
      { ((withWords 0x100 [0x10000, 0x400000000] (bench 0 .user [0, a, b] id)).modTenant 5 fun t => { t with bins := l }) with sends := List.replicate n (aSend 1 false) }
    let kbin (s : State) (ok : Ctx → State → Bool) : Bool := runs s (.kbin 0 1 2 0 0) (fAB 1 2) ok
    let good (c : Ctx) (s1 : State) : Bool := drained c s1 && descr c s1 c.b 32 true false fun _ ws p => p.goodBins 5 (ws.getD 0 0, ws.getD 1 0)
    let send (s : State) (ok : Ctx → State → Bool) : Bool := runs s (.ksend 63 1 2 0 0) (fAB 1 2) ok
    let flush (s : State) (ok : Ctx → State → Bool) : Bool := runs s (.kflush 0 1 0 0 0) (fmtR1 0 1 0 0 0) ok
    let late (s : State) : State := s.modThread 1 fun t => { t with phase := 1 }
    let ro : RoundOut := { id := 1, uid := 1, core := 0, off := 64 }
    let pa := spadPa 0 64
    kbin (s 64 0 0 []) (fun c _ => decide (63 < c.a.toNat)) = true ∧ kbin (s 63 (loc 0x108) 0 []) (fun c _ => decide (c.a.toNat ≤ 63 ∧ c.b.toNat % 32 ≠ 0)) = true ∧
    kbin (s 63 0 0 []) (fun c s1 => drained c s1 && decide (c.b = 0)) = true ∧ kbin (s 63 (loc 0x100) 0 []) good = true ∧
    kbin (s 63 (loc 0) 0 []) (fun c s1 => drained c s1 && descr c s1 c.b 32 true false fun _ ws p => !p.goodBins 5 (ws.getD 0 0, ws.getD 1 0)) = true ∧
    send (s 1 5 0 []) (fun _ s1 => decide (lookup? (s1.tenant 5).bins 63 = none)) = true ∧
    send (s 1 5 64 [(63, aSet 1)]) (fun c s1 => decide (lookup? (s1.tenant 5).bins 63 = some (aSet 1) ∧ 64 ≤ s1.sendsOf c.uid)) = true ∧
    send (s 1 5 63 [(63, aSet 1)]) (fun c s1 => decide (s1.sendsOf c.uid < 64)) = true ∧ (0 : Nat) < BinSet.cores (aSet 1) ∧ (0 : Nat) < BinSet.bins (aSet 1) ∧
    (let b (k : Bool) : State := { s 0 0 0 [] with sends := [aSend 1 k] }
     (b false).sends.find? (fun x => x.id == 1) = some (aSend 1 false) ∧ (b false).sendMayGo (aSend 1 false) = true ∧ (b true).sendMayGo (aSend 1 true) = false ∧
       (b false).refusesCore 0 (some 0) 5 false = false ∧
       (b false).poisoned pa = false ∧ ((b false).modCore 0 fun c => { c with stopped := true }).refusesCore 0 (some 1) 5 false = true ∧
       ((b false).poisonAt pa).poisoned pa = true ∧ (aSend 1 true).buffered = true ∧ (aSend 1 true).since + 512 ≤ 512 ∧ (511 : Nat) < (aSend 1 true).since + 512) ∧
    (s 0 0 0 []).binWords (aSend 5 false) pa = [(pa, 5)] ∧
    flush (s 0 0 0 []) (fun c s1 => decide (c.t.phase = 0 ∧ s1.sendsOf c.uid = 0) && (s1.roundSet 5 c.a).isNone) = true ∧
    flush (late (s 0 0 0 [])) (fun c s1 => decide (c.t.phase ≠ 0 ∧ s1.roundOuts = [])) = true ∧
    flush (late { s 0 0 0 [] with roundOuts := [ro] }) (fun c s1 => decide (c.t.phase ≠ 0 ∧ s1.roundOuts = [ro] ∧ ro.uid = c.uid)) = true ∧
    flush (s 0 0 1 []) (fun c s1 => decide (c.t.phase = 0 ∧ s1.sendsOf c.uid ≠ 0)) = true ∧
    flush (s (256 + 63) 0 0 [(63, aSet 2)]) (fun c s1 => decide (c.t.phase = 0 ∧ s1.sendsOf c.uid = 0) && (s1.roundSet 5 c.a).isSome) = true ∧
    (let r : State := { s 0 0 0 [] with roundOuts := [ro] }
     r.roundOuts.find? (fun r => r.id == 1) = some ro ∧ (r.thread? ro.uid).isSome = true ∧ r.roundOutMayGo ro = true ∧ r.refusesCore 0 (some 0) 5 false = false ∧ r.poisoned (pa + 56) = false) := by decide

/-- Each clause of RowOperationsAndBanks: rows at and off 8 KiB, of class 3 and not, in a stack and across stacks, the timer at its last cycle. -/
theorem witness_RowOperationsAndBanks :
    let s (a b : Word) (k : BitVec 2) : State := ({ paged (bench 0 .user [0, a, b] id) with front := { Front.reset with classes := k :: List.replicate 95 k } } : State).modCore 0 fun c =>
      { c with tlb := [0, 1].map fun n => { tenant := 5, va := n, size := 30, leaf := 0x1F ||| k.setWidth 64 <<< 6 ||| w64 (n * 0x40000000) } }
    let row (s : State) (ok : Ctx → State → Bool) : Bool := runs s (.rcopy 0 1 2 0 0) (fmtR 0 1 2 0 0) fun c s1 => drained c s1 && ok c s1
    let at_ (c : Ctx) (s1 : State) (ok : Nat → Nat → Bool) : Bool := match s1.reach c.t c.a.toNat 8192 false true, s1.reach c.t c.b.toNat 8192 true false with
      | .ok d, .ok x => ok d x
      | _, _ => false
    let zero (s : State) (ok : Ctx → State → Bool) : Bool := runs s (.rzero 0 1 0 0 0) (fmtR1 0 1 0 0 0) fun c s1 => drained c s1 && ok c s1
    let prove (s : State) : State := s.modCore 0 fun c => { c with prove := true }
    let r (src : Option Nat) : RowOp := { id := 1, uid := 1, tid := 8, tenant := 5, src := src, dst := 0x2000, data := none }
    let op (src : Option Nat) : State := { s 0 0 3 with rowOps := [r src] }
    let two : State := { s 0 0 3 with rowOps := [{ r none with id := 2 }, r none] }
    row (s 0x1000 0 3) (fun c _ => decide (c.a.toNat % 8192 ≠ 0)) = true ∧ row (s 0x2000 0x1000 3) (fun c _ => decide (c.a.toNat % 8192 = 0 ∧ c.b.toNat % 8192 ≠ 0)) = true ∧
    row (s 0x2000 0x4000 0) (fun c s1 => at_ c s1 fun d _ => !s1.goodRow d) = true ∧
    row (s 0x2000 (loc 0) 3) (fun c s1 => at_ c s1 fun d x => s1.goodRow d && !s1.goodRow x) = true ∧
    row (s 0x2000 0x4000 3) (fun c s1 => at_ c s1 fun d x => s1.goodRow d && s1.goodRow x && decide ((s1.cellOf d).stack = (s1.cellOf x).stack)) = true ∧
    row (s 0x2000 0x40000000 3) (fun c s1 => at_ c s1 fun d x => s1.goodRow d && s1.goodRow x && decide ((s1.cellOf d).stack ≠ (s1.cellOf x).stack ∧ (s1.core 0).prove = false)) = true ∧
    row (prove (s 0x2000 0x40000000 3)) (fun c s1 => at_ c s1 fun d x => decide ((s1.cellOf d).stack ≠ (s1.cellOf x).stack ∧ (s1.core 0).prove = true ∧ (s1.core 0).transfers.length < 32)) = true ∧
    zero (s 0x1000 0 3) (fun c _ => decide (c.a.toNat % 8192 ≠ 0)) = true ∧ zero (s 0x2000 0 0) (fun c s1 => at_ c s1 fun d _ => !s1.goodRow d) = true ∧
    zero (s 0x2000 0 3) (fun c s1 => match s1.reach c.t c.a.toNat 8192 false true with | .ok d => s1.goodRow d | _ => false) = true ∧
    (s 0 0 3).poisoned (0x2000 + 8 * 1023) = false ∧ ((s 0 0 3).poisonAt 0x2000).poisoned 0x2000 = true ∧
    (op none).rowOps.find? (fun r => r.id == 1) = some (r none) ∧ (op (some 0x4000)).rowOps.find? (fun r => r.id == 1) = some (r (some 0x4000)) ∧
    (r (some 0x4000)).data = none ∧ (op none).rowMayWrite (r none) = true ∧ two.rowMayWrite (r none) = false ∧
    State.reset.pgidle 5 = 0x040 ∧ (State.reset.bank 5).last + 4 * (State.reset.pgidle 5).toNat = 256 := by decide
/-! ### Matrix rows and folios -/

/-- Words in the scratchpad of array core 512. -/
def onArray (off : Nat) (ws : List Word) (s : State) : State :=
  (List.range ws.length).foldl (fun s i => s.storeWord (spadPa 512 (off + 8 * i)) (ws.getD i 0)) s

/-- A row-operation descriptor with these fields: one row, one segment, shelf 0x100 (index 0, check 1). -/
def rowDescOf (ring len m k acc drain : Nat) : List Word :=
  [w64 (ring + len * 2 ^ 32), w64 (m + k * 2 ^ 32), 0x100, w64 (acc + 65536 + drain * 2 ^ 18), 0, 0, 0, 0]

/-- A folio of tenant 5 of one INT8 segment of 64 columns on row 0, with a source at 0. -/
def folioOf (st : FolioState) (d : List Word) : Folio :=
  { check := 1, tenant := 5, desc := d, state := st, pinned := false, chg := false, reason := 0, held := [], runs := [], data := [(0, 3)], ecc := [], defer := .nothing, used := 0 }

def aFolio : List Word := [0, 0x4000000040, 1, 0xC, 0, 0, 0, 0]

/-- An arrival of the member in slot `j` of row 0. -/
def arrivalOf (j : Nat) (d : List Word) : Arrival :=
  { id := j, core := 512 + j, uid := j + 1, tid := (512 + j) * 512 + 8, tenant := 5, tag := 0, desc := some (d, 5), since := 0, word := 0, shown := 0 }

/-- A running operation of one member, with what is left to do. -/
def memberOf (d : List Word) (todo : List Segment) (queued drained : List Nat) : RowMember :=
  { core := 512, uid := 1, tid := 512 * 512 + 8, tag := 7, desc := d, todo := todo, nv := false, ovf := false, queued := queued, drained := drained, wrote := 0 }
def runOf (k : Nat) (ended : Bool) (m : RowMember) : RowRun :=
  { tenant := 5, folio := 0, check := 1, waiting := false, k := k, m := 0, half := none, poisoned := false, status := 0, ended := ended, members := [m] }

/-- Row 0 with these arrivals and this operation. -/
def withRow (l : List Arrival) (r : Option RowRun) (s : State) : State := s.setRow 0 { arrivals := l, run := r, halted := false }

def aSegment : Segment := { k := 0, m := 0, words := [2], scale := 0, poisoned := false }

/-- Each clause of MatrixRows: descriptors at and behind the limits, an arrival again, the 15th, and the 16th with each outcome of the checks, a
reservation of a tenant's own and of another, room and none, rows of ACLR at 1024 and behind, and each step of an operation at hand. -/
theorem witness_MatrixRows :
    let b (g : List Word) : State := bench 512 .user g id
    let cfg (d : List Word) (ok : List Word → Bool) : Bool :=
      runs (onArray 0x100 d (b [0, loc 0x100])) (.mxcfg 0 1 0 0 0) (fA 1) fun c s1 => drained c s1 && descr c s1 c.a 64 true false fun _ ws _ => ok ws
    let go (l : List Arrival) (f : List (Nat × Folio)) (own : List Word) (k : Ctx → State → State → Bool) : Bool :=
      runs ({ withRow l none (b [0, 7]) with folios := f }.modCore 512 fun c => { c with rowDesc := some (own, 5) }) (.mxgo 0 1 0 0 0) (fA 1) fun c s1 =>
        let p := c.popped.dropReadAhead c.uid
        let x : Arrival := { arrivalOf 0 own with id := p.nextId, uid := c.uid, tid := c.t.tid, tag := 7, since := p.now, word := c.raw, shown := c.shown }
        drained c s1 && k c s1 (p.setRow 0 { p.row 0 with arrivals := insertBy (·.core) x (p.row 0).arrivals })
    let d := rowDescOf 0 16 1 1 0 1
    let fifteen := (List.range 15).map fun j => arrivalOf (j + 1) d
    let new (s1 : State) : Bool := (s1.row 0).arrivals.all fun y => y.core != 512
    let last (st : FolioState) (fd : List Word) (k : Ctx → State → Bool) : Bool := go fifteen [(0, folioOf st fd)] d fun c s1 u => new s1 && decide ((u.row 0).arrivals.length = 16) && k c u
    let hnd (a n : Word) (f : State → State) (ok : Ctx → State → Bool) : Bool := runs (f (b [0, a, n])) (.mxhnd 0 1 2 0 0) (fAB 1 2) ok
    let keep (t : Nat) (s : State) : State := s.modCore 512 fun c => { c with reserve := some { pc := 0x40, count := 1, tenant := t, slots := [0] } }
    let busy (s : State) : State := withRow [] (some (runOf 0 false (memberOf d [] [] []))) s
    let acc (r n : Word) (f : State → State) (ok : State → Bool) : Bool := runs (f (b [0, r, n])) (.aclr 0 1 2 0 0) (fAB 1 2) fun c s1 => drained c s1 && ok s1
    let crowd (s : State) : State := ({ s with threads := s.threads ++ (List.range 190).map fun i => Thread.fresh (i + 2) (512 * 512 + 20 + i) 5 .user .day 0 [] } : State).modCore 512 fun c => { c with deep := true }
    let free (x : Option RowRun) (s : State) : State := { withRow [] x s with folios := [(0, folioOf .ready aFolio)] }
    cfg d (fun ws => decide (RowDesc.badWord ws = none)) = true ∧ cfg (rowDescOf 0 16384 1024 65535 0 1) (fun ws => decide (RowDesc.badWord ws = none)) = true ∧
    cfg (rowDescOf 8 16 1 1 0 1) (fun ws => decide (RowDesc.badWord ws = some 0)) = true ∧ cfg (rowDescOf 0 16385 1 1 0 1) (fun ws => decide (RowDesc.badWord ws = some 0)) = true ∧
    cfg (rowDescOf 0 16 1 0 0 1) (fun ws => decide (RowDesc.badWord ws = some 1)) = true ∧ cfg (rowDescOf 0 16 1024 1 1 1) (fun ws => decide (RowDesc.badWord ws = some 3)) = true ∧
    go [arrivalOf 0 d] [] d (fun _ s1 _ => (s1.row 0).arrivals.any fun y => y.core == 512) = true ∧
    go (fifteen.take 14) [] d (fun _ s1 u => new s1 && decide ((u.row 0).arrivals.length = 15)) = true ∧
    last .ready aFolio (fun _ u => match u.checkBarrier 0 with | .start _ g => decide (g.state ≠ .stale) | _ => false) = true ∧
    last .stale (aFolio.set 3 0x10C) (fun _ u => match u.checkBarrier 0 with | .start _ g => decide (g.state = .stale) | _ => false) = true ∧
    last .stale aFolio (fun _ u => decide (u.checkBarrier 0 = .fail 0x1A 0x100 false)) = true ∧
    last .absent aFolio (fun _ u => decide (u.checkBarrier 0 = .fail 0x19 0x100 true)) = true ∧
    hnd 0x42 1 id (fun c _ => decide (c.a.toNat % 4 ≠ 0)) = true ∧ hnd 0x40 1 busy (fun c s1 => decide (c.a.toNat % 4 = 0) && (s1.rowBusy 512).isSome) = true ∧
    hnd 0x40 2 (keep 5) (fun c s1 => (s1.rowBusy 512).isNone && decide ((s1.core 512).reserve.map (·.tenant) = some c.t.tenant ∧ 2 - 1 ≤ (c.popped.freePool 512).length)) = true ∧
    hnd 0x40 1 (keep 6) (fun c s1 => (s1.rowBusy 512).isNone && decide ((s1.core 512).reserve.map (·.tenant) ≠ some c.t.tenant ∧
      1 ≤ ((c.popped.modCore 512 fun x => { x with reserve := none }).freePool 512).length)) = true ∧
    hnd 0x40 64 crowd (fun c s1 => (s1.rowBusy 512).isNone && decide ((s1.core 512).reserve = none ∧ (c.popped.freePool 512).length < 64)) = true ∧
    (b []).rowStatus 512 = 0 ∧ (busy (b [])).rowStatus 512 = w64 (2 * 2 ^ 28) ∧ (withRow [] (some (runOf 1 false (memberOf d [] [0, 1] []))) (b [])).rowStatus 512 = w64 (1 + 3 * 2 ^ 28 + 2 * 2 ^ 32) ∧
    acc 5 0 id (fun _ => true) = true ∧ acc 1023 2 id (fun _ => true) = true ∧
    acc 0 1 busy (fun s1 => match s1.rowBusy 512 with | some m => decide (0 < RowDesc.accBase m.desc + RowDesc.m m.desc ∧ RowDesc.accBase m.desc < 1) | none => false) = true ∧
    acc 1 1023 busy (fun s1 => match s1.rowBusy 512 with | some m => decide (RowDesc.accBase m.desc + RowDesc.m m.desc ≤ 1) | none => false) = true ∧
    (let a : Access := { Access.blank .clear 1022 (accPa 512 (256 * 1022)) with id := 1, uid := 1, val := 2 }
     regionOf a.pa = .acc 512 (256 * 1022) ∧ 1 < a.val.toNat ∧ a.va < 1024 ∧ ((b []).core 512).Unwatched) ∧
    (b []).mayFeed 0 = false ∧
    (let s := free (some (runOf 0 false (memberOf d [] [] []))) (onArray 0 [1, 2, 3, 4, 5, 6, 7, 8] (b []))
     (s.setP (spadPa 512 56) false).mayFeed 0 = false ∧ s.mayFeed 0 = true ∧ s.rowParts (runOf 0 false (memberOf d [] [] [])) = some (d, aFolio)) ∧
    (b []).mayUpdate 0 0 = false ∧ (b []).nextSegment 0 0 = none ∧
    (let s := free (some (runOf 1 false (memberOf d [aSegment] [] []))) (b [])
     s.mayUpdate 0 0 = true ∧ (s.nextSegment 0 0).isSome = true ∧ (folioOf .ready aFolio).ecc = [] ∧ (s.row 0).run = some (runOf 1 false (memberOf d [aSegment] [] [])) ∧ s.folio? 0 = some (folioOf .ready aFolio)) ∧
    (FolioDesc.code aFolio = 12 ∧ FolioDesc.code (aFolio.set 3 0xD) = 13 ∧ aSegment.poisoned = false ∧ ((folioOf .ready aFolio).update aSegment 0 4 false).1 = 10) ∧
    (b []).mayDrain 512 = false ∧
    (let s := free (some (runOf 1 false (memberOf d [] [0] []))) (keep 5 (b []))
     s.mayDrain 512 = true ∧ (s.freeReserved 512).map (·.1) = some 0) ∧
    (busy (b [])).mayComplete 0 = false ∧ (withRow [] (some (runOf 1 false (memberOf d [] [] []))) (b [])).mayComplete 0 = true := by unfold Core.Unwatched; decide

/-- Every index of the folio table is taken. -/
def fullFolios (l : List (Nat × Folio)) : Bool := l.map (·.1) == List.range 4096

theorem freeFolio_of_full {s : State} (h : fullFolios s.folios = true) : s.freeFolio = none := by
  have hk : ∀ (l : List (Nat × Folio)) (k : Nat), k ∈ l.map (·.1) → (lookup? l k).isSome = true := by
    intro l
    induction l with
    | nil => intro k hk; cases hk
    | cons x l ih =>
      intro k hk
      obtain ⟨a, v⟩ := x
      by_cases h : a = k
      · simp [lookup?, h]
      · simp only [lookup?, if_neg h]
        exact ih k (by simpa [Ne.symm h] using hk)
  have hl : s.folios.map (·.1) = List.range 4096 := by simpa [fullFolios] using h
  unfold State.freeFolio lowest Config.folioEntries
  rw [List.find?_eq_none]
  intro i hi
  have := hk s.folios i (by rw [hl]; exact hi)
  simp only [State.folio?]
  revert this
  cases lookup? s.folios i <;> simp

/-- A watch entry of tenant 5 in the table of a stack. -/
def entryAt (die lo hi : Nat) (i : Installer) : WatchEntry :=
  { die := die, lo := lo, hi := hi, tenant := 5, action := 0, arg := 0, offset := 0, bound := none, installer := i }

/-- Each clause of FoliosAndShelfmarks: descriptors at and beyond each rule, the refusals of FPIN one by one up to a full table, live and other
shelfmarks, folios in each state, and a load end with clean, changed and poisoned source words. -/
theorem witness_FoliosAndShelfmarks :
    let b (g : List Word) : State := (paged (bench 512 .user g id)).modCore 512 fun c =>
      { c with tlb := [{ tenant := 5, va := 0, size := 30, leaf := 0x1F }, { tenant := 5, va := 1, size := 30, leaf := 0x40000013 }] }
    let pin (d : List Word) (f : State → State) (ok : Ctx → State → List Word → State → Bool) : Bool :=
      runs (f (onArray 0x100 d (b [0, loc 0x100]))) (.fpin 2 1 0 0 0) (fAD 1 2) fun c s1 => drained c s1 && descrAt c s1 c.a 64 true false fun _ ws s2 p => ok c s2 ws p
    let owned (c : Ctx) (ws : List Word) (p : State) : Bool := !FolioDesc.bad ws && (FolioDesc.rows ws).all fun w =>
      (List.range 16).all fun j => (p.tenant c.t.tenant).hasCore (rowCore w j)
    let src (c : Ctx) (s1 : State) (ws : List Word) (p : State) (k : List (Nat × Nat × Nat) → Bool) : Bool := owned c ws p &&
      match sourceRuns (s1.pager c.t) ws with | .ok r => k r | .error _ => false
    let got (c : Ctx) (ws : List Word) (p : State) : Bool := match p.acquirePages c.t.tenant 4096 ws with | .ok _ => true | .error _ => false
    let desc (n : Nat) (v : Word) (s : State) : State := s.modTenant 5 fun t => { t with desc := t.desc.set n v }
    let g (st : FolioState) : Folio := folioOf st aFolio
    let has (g : Folio) (s : State) : State := { s with folios := [(0, g)] }
    let on (i : Instr) (v : Word) (g : Folio) (ok : Ctx → State → Bool) : Bool := runs (has g (b [0, v])) i (fA 1) fun c s1 => drained c s1 && ok c s1
    let live (c : Ctx) (s1 : State) : Bool := decide ((s1.liveFolio? c.t.tenant c.a).map (·.1) = some 0)
    let held (st : FolioState) : Folio := { g st with held := [(512, 1)], runs := [(0, 0, 4096)] }
    let auto (g : Folio) : Folio := { g with desc := aFolio.set 3 0x10C, chg := true }
    let viewer : Pager := (b []).walkPager (one (b [])).viewer
    let ld (g : Folio) (f : State → State) (ok : State → Bool) : Bool := decide ((f (has g (b []))).folio? 0 = some g ∧ g.state = .loading) && ok ((f (has g (b []))).readSource g)
    FolioDesc.bad aFolio = false ∧ FolioDesc.bad (aFolio.set 1 0x40000000040) = false ∧ FolioDesc.bad (aFolio.set 1 0x44000000040) = true ∧ FolioDesc.bad (aFolio.set 1 0x4000000020) = true ∧
    FolioDesc.bad (aFolio.set 0 32) = true ∧ FolioDesc.bad (aFolio.set 2 0) = true ∧ FolioDesc.bad (aFolio.set 3 9) = true ∧ FolioDesc.bad ((aFolio.set 1 0x44000000040).set 2 3) = false ∧
    FolioDesc.bad ((aFolio.set 1 0x44000000040).set 3 0x2C) = true ∧
    pin (aFolio.set 3 0) id (fun _ _ ws _ => FolioDesc.bad ws) = true ∧ pin aFolio (desc 16 (~~~ (0x8000 : Word))) (fun c _ ws p => !FolioDesc.bad ws && !owned c ws p) = true ∧
    pin (aFolio.set 0 (loc 0x40)) id (fun c s1 ws p => src c s1 ws p fun _ => true) = true ∧
    pin (aFolio.set 0 0x40000000) id (fun c s1 ws p => owned c ws p && (match sourceRuns (s1.pager c.t) ws with | .error (.bad _ _) => true | _ => false)) = true ∧
    pin (aFolio.set 0 0x80000000) id (fun c s1 ws p => owned c ws p && (match sourceRuns (s1.pager c.t) ws with | .error (.miss _ _) => true | _ => false)) = true ∧
    pin aFolio (desc 2 0x1000000000) (fun c s1 ws p => (src c s1 ws p fun _ => true) && !got c ws p) = true ∧
    pin aFolio (desc 2 0x1000000001) (fun c s1 ws p => (src c s1 ws p fun r => p.tablesHold (p.entriesFor r)) && got c ws p && decide (p.freeFolio = some 0)) = true ∧
    pin aFolio (fun s => { s with watch := List.replicate 4096 (entryAt 0 0x10000 0x10040 .watch) }) (fun c s1 ws p => (src c s1 ws p fun r => !p.tablesHold (p.entriesFor r)) && got c ws p) = true ∧
    pin aFolio (fun s => { s with folios := (List.range 4096).map fun i => (i, g .revoked) }) (fun c s1 ws p => (src c s1 ws p fun _ => true) && got c ws p && fullFolios p.folios) = true ∧
    (FolioDesc.cores aFolio = [512] ∧ FolioDesc.pages aFolio = 1 ∧ (b []).folioUsed 5 + 1 ≤ ((b []).tenant 5).folioQuota ∧ 1 ≤ (b []).folioFree 512) ∧
    on (.funp 0 1 0 0 0) 0x100 (g .revoked) (fun c s1 => decide (s1.liveFolio? c.t.tenant c.a = none)) = true ∧
    on (.fref 0 1 0 0 0) 0x101 (g .ready) (fun c s1 => decide (s1.liveFolio? c.t.tenant c.a = none)) = true ∧
    on (.frev 0 1 0 0 0) 0x200 (g .ready) (fun c s1 => decide (s1.liveFolio? c.t.tenant c.a = none)) = true ∧
    on (.funp 0 1 0 0 0) 0x100 (g .ready) live = true ∧ on (.frev 0 1 0 0 0) 0x100 (g .ready) live = true ∧
    on (.fref 0 1 0 0 0) 0x100 (g .ready) (fun c s1 => live c s1 && match (c.popped.dropReadAhead c.uid).refreshFolio (s1.pager c.t) 0 (g .ready) with | .ok _ => true | .error _ => false) = true ∧
    (let x : Folio := { g .ready with desc := aFolio.set 0 0x40000000 }
     on (.fref 0 1 0 0 0) 0x100 x (fun c s1 => live c s1 && match (c.popped.dropReadAhead c.uid).refreshFolio (s1.pager c.t) 0 x with | .error (.bad _ _) => true | _ => false) = true) ∧
    ((match sourceRuns viewer aFolio with | .ok r => decide (r = [(0, 0, 4096)]) | .error _ => false) = true ∧ (held .ready).held ≠ [] ∧ (has (held .ready) (b [])).contentsInUse 0 = false ∧
      (withRow [] (some (runOf 0 false (memberOf [] [] [] []))) (has (held .ready) (b []))).contentsInUse 0 = true) ∧
    ((has (g .ready) (b [])).folioInUse 0 = false ∧ (has (g .ready) (b [])).queryFolio 5 0x101 = 4 ∧ (has { auto (held .stale) with pinned := true } (b [])).queryFolio 5 0x100 = 0x1003A) ∧
    ((g .ready).state ≠ .loading ∧ ld (held .loading) (fun s => s.poisonAt 0) (fun u => u.poisonedSource (held .loading)) = true ∧
      ld (auto (held .loading)) id (fun u => !u.poisonedSource (auto (held .loading)) && FolioDesc.auto (auto (held .loading)).desc) = true ∧
      ld { held .loading with chg := true } id (fun u => !u.poisonedSource (held .loading) && !FolioDesc.auto aFolio) = true ∧ ld (held .loading) id (fun u => !u.poisonedSource (held .loading)) = true) ∧
    ((held .ready).runs = [(0, 0, 4096)] ∧ (has (g .stale) (b [])).folio? 0 = some (g .stale) ∧ (g .absent).state ≠ .ready ∧ (g .absent).state ≠ .stale) := by decide

/-- The clauses of FoliosAndShelfmarks on a source range that moves: a watch table without room, one with, and a range that stays. -/
theorem witness_FolioMoves :
    let g (st : FolioState) : Folio := { folioOf st aFolio with held := [(512, 1)], runs := [(0, 64, 4096)] }
    let s (st : FolioState) (n : Nat) : State := { bench 512 .user [] id with
      folios := [(0, g st)], watch := List.replicate n (entryAt 0 0x10000 0x10040 .watch) }
    (s .ready 4096).moveWatch 0 (g .ready) [(0, 0, 4096)] = none ∧ ((s .loading 0).moveWatch 0 (g .loading) [(0, 0, 4096)]).isSome = true ∧
      (g .loading).held ≠ [] ∧ (g .loading).runs ≠ [(0, 0, 4096)] := by decide

/-! ### Partitions and harvest -/

/-- A thread of tenant 5 on core 0 in this slot and class. -/
def other (uid slot : Nat) (k : Cls) : Thread := Thread.fresh uid slot 5 .user k 0x1000 []

/-- Each clause of PartitionsAndHarvest: each outcome of RPART, a range with and without users, legal and illegal LEND ranges, RECALL of all and of
some at 128 and 129, a revocation of a context and a range, restores, slots by weight, and each write of CLASS. -/
theorem witness_PartitionsAndHarvest :
    let idle (g : List Word) : State := (curator 0 g).modThread 1 fun t => { t with tid := 508 }
    let deep (s : State) : State := s.modCore 0 fun c => { c with deep := true }
    let part (d : BitVec 6) (s : State) (ok : Ctx → State → Bool) : Bool := runs s (.rpart d 1 0 0 0) (lvl (fmtR1 d 1 0 0 0) .curator) ok
    let due (s : State) : State := { s with threads := s.threads ++ [let t := other 2 9 .day; { t with regs := Vector.ofFn fun n : Fin 48 => { t.reg n.val with due := n.val == 3 } }] }
    let b (g : List Word) (f : Thread → Thread) : State := pair g fun t => { f t with level := .runtime }
    let inv (s : State) (ok : Ctx → State → Bool) : Bool := runs s (.xlinv 0 1 2 0 0) (lvl (fAB 1 2) .runtime) fun c s1 => drained c s1 && ok c s1
    let users (s : State) : State := { (paged s) with threads := s.threads ++ [other 2 9 .day], accesses := [{ Access.blank .load 0x20000 0x20000 with id := 1, uid := 2, phase := .sent }] }
    let lend (f : Core → Core) (a n : Word) (ok : Ctx → State → Bool) : Bool := runs ((b [0, a, n] id).modCore 0 f) (.lend 0 1 2 0 0) (lvl (fAB 1 2) .runtime) fun c s1 => drained c s1 && ok c s1
    let lease (o : Nat) : Lease := { tenant := 5, off := o, len := 0x1000 }
    let legal (c : Ctx) (s1 : State) : Bool := s1.mayLend c.t c.a.toNat c.b.toNat
    let recalls (a : Word) (ok : Ctx → Bool) : Bool := runs ({ b [0, a] id with threads := (b [0, a] id).threads ++ [other 2 9 .dusk, other 3 10 .dusk] }) (.recall 0 1 0 0 0) (lvl (fA 1) .runtime) fun c _ =>
      ok c && decide ((c.popped.choosable 0 c.uid).map (·.uid) = [3, 2])
    let rev : Revoking := { chosen := [2], ranges := [lease 0] }
    let banked (e : Ecc) (s : State) : State := { s with threads := s.threads ++ [{ (other 2 9 .dusk).toBank 5 0 with ecc := e }] }
    let heavy (x : Nat) : Tenant := Tenant.ofDesc (benchDesc.set 1 (w64 (0x400 + x)))
    let two (x y : Nat) : State := { bench 0 .user [] id with
      threads := [{ other 1 8 .day with tenant := 3 }, { other 2 9 .day with tenant := 7 }], tenants := [(0, Tenant.ofDesc curatorDesc), (3, heavy x), (7, heavy y)] }
    part 2 (curator 0 [0, 3]) (fun c _ => decide (2 < c.a.toNat)) = true ∧ part 2 (curator 0 [0, 2]) (fun c _ => decide (c.a = 2)) = true ∧
    part 24 (deep (curator 0 [0, 0])) (fun c s1 => decide (c.a = 0 ∧ (s1.core 0).deep = true ∧ c.dcode = 24)) = true ∧
    part 23 (due (deep (curator 0 [0, 0]))) (fun c s1 => decide (c.a = 0 ∧ c.dcode = 23) && s1.coreDue 0) = true ∧
    part 24 (deep (curator 0 [0, 1])) (fun c s1 => decide (c.a = 1 ∧ (s1.core 0).deep = true) && !s1.coreDue 0) = true ∧
    part 2 (curator 0 [0, 1]) (fun c s1 => decide (c.a = 1 ∧ (s1.core 0).deep = false) && !s1.coreDue 0 && !s1.quiescent 0) = true ∧
    part 2 (idle [0, 1]) (fun c s1 => decide (c.a = 1 ∧ (s1.core 0).deep = false) && !s1.coreDue 0 && s1.quiescent 0) = true ∧
    ((1 : Nat) ≠ 0 ∧ ∃ t ∈ [Thread.fresh 1 520 5 .user .day 0 []], t.core ≠ 0) ∧
    inv (b [0, 0x8000, 0x10000] id) (fun c _ => decide (c.t.phase = 0 ∧ c.b ≠ 0 ∧ c.a.toNat % 65536 ≠ 0)) = true ∧
    inv (b [0, 0x10000, 0x8000] id) (fun c _ => decide (c.t.phase = 0 ∧ c.b ≠ 0 ∧ c.b.toNat % 65536 ≠ 0)) = true ∧
    inv (b [0, 0x8000, 0] id) (fun c s1 => decide (c.t.phase = 0 ∧ c.b = 0 ∧ s1.usersOf 5 0 (2 ^ 52) = [])) = true ∧
    inv (users (b [0, 0x20000, 0x10000] id)) (fun c s1 => decide (c.t.phase = 0 ∧ c.b ≠ 0 ∧ s1.usersOf 5 0x20000 0x30000 = [1])) = true ∧
    inv (b [0, 0, 0] fun t => { t with phase := 1, waits := [1] }) (fun c _ => decide (c.t.phase ≠ 0) && c.t.waits.all fun n => !(c.popped.dropReadAhead c.uid).unperformed n) = true ∧
    lend id 0x1001 0 (fun c _ => decide (c.b = 0)) = true ∧ lend id 0x1001 0x1000 (fun c s1 => decide (c.b ≠ 0 ∧ (s1.core 0).revoking = none) && !legal c s1) = true ∧
    lend (fun c => { c with revoking := some rev }) 0x1001 0x1000 (fun c s1 => !legal c s1 && decide (c.b ≠ 0 ∧ (s1.core 0).revoking ≠ none)) = true ∧
    lend (fun c => { c with lent := (List.range 8).map fun i => lease (0x1000 * i) }) 0x8000 0x1000 (fun c s1 => !legal c s1) = true ∧
    lend (fun c => { c with lent := [lease 0x1000] }) 0x1000 0x1000 (fun c s1 => !legal c s1) = true ∧ lend id 0xFF000 0x2000 (fun c s1 => !legal c s1) = true ∧
    lend (fun c => { c with lent := (List.range 7).map fun i => lease (0x1000 * i) }) 0x7000 0xF9000 (fun c s1 => legal c s1 && decide (c.b ≠ 0 ∧ (s1.core 0).revoking = none)) = true ∧
    lend (fun c => { c with revoking := some rev }) 0x1000 0x1000 (fun c s1 => legal c s1 && decide (c.b ≠ 0 ∧ (s1.core 0).revoking ≠ none)) = true ∧
    recalls 0 (fun c => decide (c.a = 0)) = true ∧ recalls 129 (fun c => decide (128 < c.a.toNat)) = true ∧ recalls 128 (fun c => decide (c.a ≠ 0 ∧ c.a.toNat ≤ 128)) = true ∧ recalls 1 (fun c => decide (c.a = 1)) = true ∧
    ((b [] id).core 0).revoking = none ∧ (((b [] id).modCore 0 fun c => { c with revoking := some rev }).core 0).revoking = some rev ∧
    ((b [] id).accesses = [] ∧ (lease 0).off % 8 = 0 ∧ (lease 0).len % 8 = 0) ∧
    (b [] id).mayRestore 0 = false ∧ ((banked .ok (b [] id)).mayRestore 0 = true ∧ ((banked .ok (b [] id)).restorable 0).map (·.ecc) = some .ok) ∧
    ((banked .double (b [] id)).mayRestore 0 = true ∧ ((banked .double (b [] id)).restorable 0).map (·.ecc) = some .double) ∧
    ((other 2 9 .dusk).latch = none ∧ (other 2 9 .dusk).await = .nothing ∧ (other 2 9 .dusk).stopPending = false) ∧
    (State.reset.dayTenants 0 = [] ∧ (two 3 1).dayTenants 0 = [3, 7] ∧ ((two 3 1).tenant 3).weight = 3 ∧ ((two 3 1).tenant 7).weight = 1 ∧ lookupD ((two 3 1).core 0).deficit 3 0 = 0) ∧
    (let w (k : Cls) : State := bench 0 .user [] fun t => { t with await := .sysWrite, cls := k }
     ((w .day).thread? 1).map (·.await) = some .sysWrite ∧ (w .day).isStandby (one (w .day)) = false ∧ (w .day).noonCount 0 5 < ((w .day).tenant 5).noonLimit ∧ (w .day).duskRoom 0 = true) := by decide

/-! ### System registers, debug, records -/

/-- Each clause of SystemRegisters: register numbers on both sides of each boundary of the map, reads and writes at the first and last of a group,
a register of each kind, and each write of a unit. -/
theorem witness_SystemRegisters :
    let b (l : Level) (g : List Word) : State := bench 0 l g id
    let sys (n : BitVec 13) (w : Bool) (s : State) (ok : Ctx → Bool) : Bool := match s.thread? 1 with
      | none => false
      | some t =>
        let f : Form := { Form.plain with d := opD (if w then .src else .dst) 2 }
        runs s (if w then .mtsr 2 0 0 n else .mfsr 2 0 0 n) (sysForm f n.toNat w (s.curatorCore t.core) t (s.core t.core)) fun c _ => ok c
    let lv (n : Nat) : Option (Nat × Nat) := sysLevels false n
    let u := (one (b .user []))
    let bad (n : Nat) (t : Thread) (k : Bool) : Bool := (sysForm f0 n true k t Core.reset).illegal
    let on (l : Level) (t : State) : Bool := decide ((t.thread? 1).map (·.level) = some l)
    let waits (l : Level) : State := bench 0 l [] fun t => { t with await := .sysWrite }
    (f0.illegal = false ∧ [0, 3, 4, 7, 8, 0xA, 0xB, 0x10, 0x11, 0x14, 0x17, 0x25, 0x26, 0x4F, 0x50, 0x87, 0x88, 0xA7, 0xA8, 0xAB, 0xAC, 0xFF, 0x100, 0x101, 0x110, 0x115, 0x116].map lv =
      [some (0, 3), some (0, 2), none, none, some (0, 0), some (0, 0), none, some (0, 0), none, some (0, 0), some (1, 1), some (0, 0), none, some (0, 1), none, some (0, 3), none, some (1, 1), some (0, 3), some (0, 3), none, none, some (2, 2), none, none, some (2, 2), none] ∧ sysLevels true 0x110 = some (2, 2)) ∧
    (u.level ≠ .curator ∧ bad 0x1FF u false = false ∧ bad 0x200 u false = true ∧ bad 0xFF u false = true ∧ bad 0x101 { u with level := .curator } false = true ∧ bad 0x18 u false = false) ∧
    sys 0 false (b .user []) (fun _ => true) = true ∧ sys 0xAB false (b .user []) (fun _ => true) = true ∧ sys 0x115 false (curator 0 []) (fun _ => true) = true ∧
    (((b .user []).core 0).pmc[7]?).isSome = true ∧
    sys 0x9 true (b .user []) (fun c => (sysEvent c.uid 9 c.d).isNone) = true ∧ sys 0x115 true (curator 0 []) (fun c => (sysEvent c.uid 0x115 c.d).isNone) = true ∧
    sys 0x2 true (b .runtime []) (fun c => (sysEvent c.uid 2 c.d).isSome) = true ∧ sys 0x47 true (b .runtime []) (fun c => (sysEvent c.uid 0x47 c.d).isSome) = true ∧
    sys 0xA7 true (b .runtime []) (fun c => (sysEvent c.uid 0xA7 c.d).isSome) = true ∧ sys 0x114 true (curator 0 []) (fun c => (sysEvent c.uid 0x114 c.d).isSome) = true ∧
    ((b .user []).thread? 1 = some u ∧ (5 : Word).toNat % 8 = 5) ∧
    ((waits .user).thread? 1).map (·.await) = some .sysWrite ∧ on .curator (waits .curator) = true ∧ on .runtime (waits .runtime) = true ∧
    (((b .user []).thread? 1).map (fun t => (t.stopPending, t.stepping)) = some (false, false)) := by decide

/-- A fault record of a tenant. -/
def recordOf (tenant : Nat) : FaultRec :=
  { id := 1, tenant := tenant, uid := 1, tid := 8, cause := 9, kind := 0, val := 0, pc := 0, word := 0, detail := 0 }

/-- Each clause of DebugTraceAndFaultRecords: threads absent, of the curator, free, resident, away and stopped; the first and last words of the
groups of a record; sampling periods 7, 8, 24 and 25 in and out of their cycles; records with and without a free slot, of the curator and of a tenant. -/
theorem witness_DebugTraceAndFaultRecords :
    let b (st : Status) : State := pair [] fun t => { t with status := st }
    let t (st : Status) : Thread := one (b st)
    let holds (st : Status) : Bool := decide ((b st).thread? 1 = some (t st) ∧ (b st).holder? 8 = some (t st) ∧ (b st).occupant? 8 = some (t st) ∧ (t st).status = st ∧ (t st).level ≠ .curator)
    let trc (v : Word) (now : Nat) (i : Option Issue) : State := { b .ready with now := now }.modCore 0 fun c => { c with trcctl := v, issued := i }
    let p (v : Word) : Nat := fieldOf ((trc v 0 none).core 0).trcctl 16 5
    let issue : Issue := { uid := 1, head := 0, pc := 0x1000, word := 0 }
    let r (n : Nat) (f : State → State) : State := f { paged (b .ready) with records := [recordOf n] }
    let free (s : State) : State := s.setP 0x4000 false
    let ring (s : State) : State := s.modTenant 5 fun t => { t with desc := t.desc.set 6 0x4000 }
    (b .ready).holder? 9 = none ∧ (b .ready).occupant? 9 = none ∧
    (((curator 0 []).holder? 8).map (·.level) = some .curator ∧ [.free, .trappedStopped, .revoked, .saving, .restoring, .ready, .blockedRegister, .parkedMemory, .parkedMessage, .heldFault].all holds = true) ∧
    (fieldOf 0x1100008 20 4 = 1 ∧ fieldOf 0x200008 20 4 = 2 ∧ fieldOf 0x300008 20 4 = 3 ∧ (0x1100008 : Word).toNat.testBit 24 = true) ∧
    (((b .ready).choose 0).map (·.1.uid) = some 1 ∧ (t .ready).lastIssue = none ∧ (8 : Nat) < 655360 ∧ (255 : Nat) < 256) ∧
    (p 0x70000 < 8 ∧ p 0x80000 = 8 ∧ p 0x180000 = 24 ∧ 24 < p 0x190000 ∧
      ((trc 0x180000 0 (some issue)).core 0).issued = some issue ∧ ((trc 0x80000 0 none).core 0).issued = none) ∧
    (let s := trc 0x10A 0 none
     (s.core 0).ringLength = some 1024 ∧ (s.core 0).traces 0 = true ∧ (s.core 0).trcbase.toNat % 65536 = 0 ∧ (s.core 0).trcbase.toNat + 32 * 1024 ≤ 0x00C000000000 ∧ (s.core 0).trcDropped = 0 ∧ Memory.wf s.mem ∧ s.accesses = [] ∧ s.mayWrite [0, 8, 16, 24] = true ∧
       (∀ i < 4, s.poisoned (8 * i) = false ∧ (s.tag (8 * i)).w = false ∧ s.eccOf (8 * i) = .ok) ∧
       ({ s with rowOps := [{ id := 1, uid := 1, tid := 8, tenant := 5, src := none, dst := 0, data := none }] } : State).mayWrite [0, 8, 16, 24] = false ∧
       (trc 0x114 0 none |>.core 0).ringLength = some (2 ^ 20) ∧ (trc 0x115 0 none |>.core 0).ringLength = none) ∧
    ((r 0 id).records.find? (fun r => r.id == 1) = some (recordOf 0) ∧ (r 0 fun s => s.setP s.curatorSlot false).recordFits (recordOf 0) = true) ∧
    ((r 0 fun s => s.setP s.curatorSlot true).recordFits (recordOf 0) = false) ∧
    ((r 6 id).tenant? 6 = none ∧ (r 5 id).tenant? 5 ≠ none ∧ (r 5 fun s => ring (free s)).faultSlot 5 = some 0x4000 ∧ (r 5 fun s => ring (free s)).recordFits (recordOf 5) = true ∧
      (r 5 fun s => (s.modTenant 5 fun t => { t with desc := t.desc.set 6 0x40000000 })).faultSlot 5 = none) ∧
    (let s := b .ready
     Memory.wf s.mem ∧ regionOf 0x4000 = .dram ∧ 0x4000 % 32 = 0 ∧ s.accesses = [] ∧ ∀ i < 4, s.poisoned (0x4000 + 8 * i) = false ∧ (s.tag (0x4000 + 8 * i)).w = false) := by decide

/-- Samples at the last cycle of a period and next to it: whatever the skew of the die, some state shows each timestamp. -/
theorem witness_SampleTimes :
    let s (v : Word) (n : Nat) : State :=
      ({ pair [] id with now := n - (Config.timeSkew (dieOf 0)).val } : State).modCore 0 fun c => { c with trcctl := v }
    (∀ (v : Word) (n : Nat), 3 ≤ n → n < 2 ^ 64 → ((s v n).time 0).toNat = n) ∧
      (∀ (v : Word) (n : Nat), ((s v n).core 0).trcctl = v) ∧ fieldOf 0x80000 16 5 = 8 ∧ fieldOf 0x180000 16 5 = 24 ∧
      255 % 2 ^ 8 ≠ 0 ∧ 256 % 2 ^ 8 = 0 ∧ 2 ^ 24 % 2 ^ 24 = 0 := by
  refine ⟨fun v n h1 h2 => ?_, fun v n => rfl, by decide, by decide, by decide, by decide, by decide⟩
  have hk := (Config.timeSkew (dieOf 0)).isLt
  show (w64 (n - (Config.timeSkew (dieOf 0)).val + (Config.timeSkew (dieOf 0)).val)).toNat = n
  rw [Nat.sub_add_cancel (by omega)]
  simp only [w64, BitVec.toNat_ofNat]
  exact Nat.mod_eq_of_lt h2

/-! ### Curfews -/

/-- A curfew of core 1 at cycle 100. -/
def curfewOf (ph : CurfewPhase) (out inn : Nat) : Curfew :=
  { id := 1, t := 100, cores := [1], out := out, inn := inn, policy := 0, stby := false, statusPa := none, phase := ph, withdrawn := [], bad := false }

/-- What was saved of core 1 at 0x100000: no thread. -/
def anImage : SaveImage :=
  { base := 0x100000, t := 100, cores := [1], live := true, threads := [], coreStates := [], rows := [], accesses := [], withdrawn := [], channels := [], gathers := [], sends := [], spads := [], accs := [] }

/-- The bitmap with the word `k` at `n`. -/
def bitmapOf (n k : Nat) : List Word := (List.replicate 20 0).set n (w64 k)

theorem partitionOf_word (k : Nat) : partitionOf (bitmapOf 0 k) = below 1280 fun c => decide (c < 64) && (w64 k).toNat.testBit c := by
  have h : ∀ n : Nat, n ≠ 0 → (bitmapOf 0 k).getD n 0 = 0 := by
    intro n hn
    rw [bitmapOf, List.getD_eq_getElem?_getD, List.getElem?_set_ne (Ne.symm hn), List.getElem?_replicate]
    split <;> rfl
  have hz : ∀ c i : Nat, 64 ≤ c → ((bitmapOf 0 k).getD (c / 64) 0).toNat.testBit i = false := by
    intro c i hc
    rw [h _ (by omega)]
    simp
  unfold partitionOf
  refine congrArg (below 1280) (funext fun c => ?_)
  have hr : ((List.range 16).any fun j => ((bitmapOf 0 k).getD (rowCore (rowOf c) j / 64) 0).toNat.testBit (rowCore (rowOf c) j % 64)) = false := by
    rw [List.any_eq_false]
    intro j _
    rw [hz _ _ (by unfold rowCore; omega)]
    simp
  simp only [hr, Bool.and_false, Bool.or_false]
  by_cases hc : c < 64
  · simp [hc, Nat.div_eq_of_lt hc, Nat.mod_eq_of_lt hc, bitmapOf]
  · rw [hz c _ (by omega)]
    simp [hc]

/-- Each clause of CurfewSwitches: a core named and a row widened, each refusal of SWAT, a curfew before, at and after T and behind an earlier one,
a quiet partition and one that waits, areas inside and outside memory, and each outcome of the switch-in. -/
theorem witness_CurfewSwitches :
    let desc (b : List Word) (out inn : Word) : List Word := b ++ [out, inn, 0] ++ List.replicate 9 0
    let put (ws : List Word) (s : State) : State := (List.range 32).foldl (fun s i => s.storeWord (spadPa 0 (0x100 + 8 * i)) (ws.getD i 0)) s
    let swat (ws : List Word) (ok : Ctx → State → List Word → Bool) : Bool :=
      runs (put ws (curator 0 [0, 100, loc 0x100])) (.swat 0 1 2 0 0) (lvl (fAB 1 2) .curator) fun c s1 => drained c s1 && descrAt c s1 c.b 256 true true fun pa ws q _ => q.mayWrite [pa + 184] && ok c q ws
    let of (b ws : List Word) : Bool := decide (ws.take 20 = b)
    let at_ (now : Nat) (l : List Curfew) : State := { pair [] (fun t => { t with tid := 512 + 8 }) with now := now, curfews := l }
    let x := curfewOf .armed 0x100000 0
    let y : Curfew := { x with id := 0 }
    let stop := (at_ 100 [curfewOf .stopped 0x100000 0])
    let area (v t : Word) (c : Word) (s : State) : State := ((s.storeWord 0x100000 v).storeWord 0x100008 t).storeWord 0x100040 c
    let inn (inn : Nat) : State := { at_ 200 [curfewOf .saved 0 inn] with images := [anImage] }
    let mine (s : State) : Bool := let u := s.checkRange 0x100000 (areaBytes 1 + (s.areaWord 0x1000E8).toNat)
      s.mayIn (curfewOf .saved 0 0x100000) && areaOk 0x100000 (areaBytes 1) && !u.areaPoisoned 0x100000 30 && decide (u.areaWord 0x100000 = 1 ∧ u.areaWords 0x100040 20 = coreBitmap [1])
    (1279 ∈ [1279] ∧ (bitmapOf 19 (2 ^ 63)).getD (1279 / 64) 0 ≠ 0 ∧ isArray 1279 = true) ∧
    swat (desc (bitmapOf 0 1) 0 0) (fun _ s1 ws => of (bitmapOf 0 1) ws && s1.curatorCore 0) = true ∧ swat (desc (bitmapOf 0 2) 0x8000 0) (fun _ s1 ws => of (bitmapOf 0 2) ws && !s1.curatorCore 1 && decide ((ws.getD 20 0).toNat % 65536 ≠ 0)) = true ∧
    swat (desc (bitmapOf 0 2) 0x10000 1) (fun _ s1 ws => of (bitmapOf 0 2) ws && !s1.curatorCore 1 && decide ((ws.getD 20 0).toNat % 65536 = 0 ∧ (ws.getD 21 0).toNat % 65536 ≠ 0)) = true ∧
    swat (desc (bitmapOf 0 0) 0 0) (fun _ _ ws => of (bitmapOf 0 0) ws) = true ∧ swat (desc (bitmapOf 0 2) 0x100000 0) (fun _ s1 ws => of (bitmapOf 0 2) ws && !s1.curatorCore 1) = true ∧
    x.phase = .armed ∧ ((at_ 99 [x]).curfews.find? (fun x => x.id == 1) = some x ∧ (at_ 99 [x]).now < x.t ∧ x.t ≤ (at_ 100 [x]).now ∧ (at_ 100 [x]).curfewFirst x = true ∧ (at_ 100 [y, x]).curfewFirst x = false) ∧
    ((curfewOf .armed 0 0).out = 0 ∧ x.out ≠ 0 ∧ (curfewOf .stopped 0 0).phase ≠ .armed) ∧
    (let s := (at_ 100 []).modCore 1 fun c => { c with stopped := true }
     let t : Thread := Thread.fresh 2 (512 + 508) 5 .curator .noon 0 []
     let u : State := { s with threads := [t] }
     (u.choose 1).map (·.1.uid) = some 2 ∧ (u.core 1).stopped = true) ∧
    (stop.curfews.find? (fun x => x.id == 1) = some (curfewOf .stopped 0x100000 0) ∧ stop.mayOut (curfewOf .stopped 0x100000 0) = true ∧
      ({ stop with results := [{ id := 1, uid := 1, regs := [], restores := [] }] } : State).mayOut (curfewOf .stopped 0x100000 0) = false) ∧
    (areaOk 0x100000 (areaBytes 1) = true ∧ areaOk 0xC00000000000 (areaBytes 1) = false ∧ (∃ t ∈ stop.threads, t.core ∈ [1] ∧ stop.isStandby t = false)) ∧
    (Memory.wf stop.mem = true ∧ ({ anImage with cores := [] } : SaveImage).accesses = [] ∧ anImage.base % 65536 = 0) ∧
    ((inn 0).curfews.find? (fun x => x.id == 1) = some (curfewOf .saved 0 0) ∧ (curfewOf .saved 0 0).inn = 0 ∧ (curfewOf .armed 0 0).phase ≠ .saved) ∧
    (let u := area 1 100 2 (inn 0x100000)
     mine u = true ∧ (u.imageAt 0x100000 [1]).isSome = true ∧ mine (area 2 100 2 (inn 0x100000)) = false ∧ mine (area 1 100 4 (inn 0x100000)) = false ∧
       (area 1 101 2 (inn 0x100000)).imageAt 0x100000 [1] = none ∧ (u.poisonAt 0x100008).areaPoisoned 0x100000 30 = true)  ∧
    (0 ∈ partitionOf (bitmapOf 0 1) ∧ partitionOf (bitmapOf 0 2) = [1] ∧ partitionOf (bitmapOf 0 0) = []) := by
  simp only [partitionOf_word]
  decide

/-! ### Command queues -/

/-- A queue of tenant 5: a ring of 4 records at 0x8000, version 1, one consumer that runs, WAKE = 1; with a handler when `hnd`. -/
def queueOf (hnd : Bool) (f : Consumer → Consumer) : Queue :=
  { tenant := 5, descVa := 0x7000, words := [0x8000, if hnd then 0x1A2 else 0x102] ++ List.replicate 14 0, wake := 1, prog := Vector.replicate 4 0,
    cons := Vector.ofFn fun _ => f { Consumer.start with wait := .running }, out := false, due := false, late := false }

/-- A header of this kind, version, SEQ and mask. -/
def headOf (kind version seq mask : Nat) : Word := w64 (mask + version * 2 ^ 32 + kind * 2 ^ 40 + seq * 2 ^ 48)

/-- Queue 7 with the record `ws` at its cursor. -/
def queued (x : Queue) (ws : List Word) : State :=
  let s := (List.range 8).foldl (fun s i => s.storeWord (0x8000 + 8 * i) (ws.getD i 0)) (paged (pair [] id))
  { s with queues := [(7, x)] }

/-- Each clause of QueueRecordsAndHandlers: each outcome of the header, each kind of record with each of its failures and its success, a WAIT
that polls, a seeding with and without room, and handlers due, late and ready. -/
theorem witness_QueueRecordsAndHandlers :
    let x := queueOf false id
    let at_ (s : State) : Bool := decide (0 ≤ x.last ∧ x.hnd = false ∧ (x.consumer 0).wait = .running ∧ (x.consumer 0).accepted = [] ∧ (x.consumer 0).cur < (s.wakeValue x).toNat ∧ regionOf 0x8000 = .dram) &&
      match s.slotPa x (x.consumer 0).cur with | .ok pa => pa == 0x8000 | _ => false
    let h (k v n m : Nat) : State := queued x [headOf k v n m]
    let rec_ (ws : List Word) : State := queued x ws
    let accIn (g : State → State) (y : Queue) (k : Nat) (ws : List Word) (ok : State → List Word → Bool) : Bool :=
      let s := g (queued y (headOf k 1 0 0 :: ws))
      decide (s.look y 0 ≠ .none) && match (s.checkSlot y 0 8).look y 0 with
        | .record n w => n == k && ok ((s.checkSlot y 0 8).modConsumer 7 0 fun c => { c with accepted := { kind := n, words := (List.range 8).map fun j => (j, w.getD j 0) } :: c.accepted.tail }) w
        | _ => false
    let acc := accIn id
    let launch (ws : List Word) (bad : Bool) : Bool := acc x 1 ws fun p w => p.launchBad 5 w == bad
    let w6 (cls n : Nat) : Word := w64 (n * 2 ^ 16 + cls * 2 ^ 28)
    let busy := queueOf false fun c => { c with copies := [1] }
    let late := queueOf false fun c => { c with step := 1 }
    let copy (ws : List Word) (ok : State → CopyRegs → Bool) : Bool := acc x 4 ws fun p w => ok p (recordCopy w)
    let hq (f : Queue → Queue) : Queue := f { queueOf true id with due := true }
    let aRec : TaskRec := launchRecord 7 0 5 0 0 0 [0, 0x40]
    let out (s : State) : State := (s.modCore 0 fun c => { c with switched := some 0x10000 }).modTenant 5 fun t => { t with ovfCount := 2048 }
    (at_ (h 6 1 0 0) = true ∧ (h 6 1 0 0).poisoned 0x8000 = false ∧ ((h 6 1 0 0).poisonAt 0x8000).poisoned 0x8000 = true ∧ ((h 6 1 0 0).poisonAt 0x8038).poisoned 0x8038 = true) ∧
    ((h 6 1 1 0).look x 0 = .mismatch ∧ (h 6 1 0 2).look { x with words := x.words.set 1 0x122 } 0 = .skip ∧ (h 6 1 0 2).look x 0 = .record 6 ([headOf 6 1 0 2] ++ List.replicate 7 0) ∧ (h 6 1 0 1).look x 0 = .record 6 ([headOf 6 1 0 1] ++ List.replicate 7 0) ∧ (h 0 1 0 0).look x 0 = .bad 1 0 ∧ (h 7 1 0 0).look x 0 = .bad 1 0 ∧
      (h 1 0 0 0).look x 0 = .bad 2 0 ∧ (h 6 2 0 0).look x 0 = .bad 2 0) ∧
    ((h 6 1 0 0).queue? 7 = some x ∧ (h 6 1 0 0).look (queueOf true id) 0 ≠ .none ∧ (queued { x with wake := 0 } []).look { x with wake := 0 } 0 = .none) ∧
    (((queueOf false fun c => { c with wait := .seq }).consumer 0).wait = .seq ∧ (x.consumer 0).wait ≠ .seq ∧ ((queueOf false fun c => { c with wait := .poll }).consumer 0).wait = .poll) ∧
    acc x 6 [] (fun _ _ => true) = true ∧
    launch [0x42, 0, 0, 0, 0, w6 1 2, 1] true = true ∧ launch [0x40, 0, 0, 0, 0, w6 3 2, 1] true = true ∧ launch [0x40, 0, 0, 0, 0, w6 1 2, 0] true = true ∧ launch [0x40, 0, 0, 0, 0, w64 (2 + 2 ^ 16 + 2 ^ 28), 1] true = true ∧
    launch [0x40, 0, 0, 0, 0, w6 0 1, 1] false = true ∧
    acc x 2 [4] (fun _ _ => true) = true ∧ acc x 2 [0x40000000] (fun p w => match p.recordPa x (w.getD 1 0) .read with | .error _ => true | .ok _ => false) = true ∧
    acc x 2 [0x100, 1, 1] (fun p w => (match p.recordPa x (w.getD 1 0) .read with | .ok pa => pa == 0x100 && !(p.checkEcc pa).poisoned pa | .error _ => false) && decide ((w.getD 3 0).toNat % 2 = 1 ∧ regionOf 0x100 = .dram)) = true ∧
    acc x 2 [0x100, 1, 0] (fun p w => (match p.recordPa x (w.getD 1 0) .read with | .ok pa => tagged pa | .error _ => false) && decide ((w.getD 3 0).toNat % 2 = 0)) = true ∧
    acc x 3 [4] (fun _ _ => true) = true ∧ accIn (fun s => s.modTenant 5 fun t => { t with desc := t.desc.set 7 0x70004 }) x 3 [0, 0, 0x700] (fun p w => decide ((p.tenant 5).vectors ≤ fieldOf (w.getD 3 0) 8 3)) = true ∧
    acc busy 3 [0, 0, 0] (fun p w => !(busy.consumer 0).quiet && decide (fieldOf (w.getD 3 0) 8 3 < (p.tenant 5).vectors)) = true ∧
    acc x 3 [0x100, 1] (fun p w => (x.consumer 0).quiet && decide ((x.consumer 0).step = 0) && match p.recordPa x (w.getD 1 0) .write with | .ok pa => tagged pa && p.mayWrite [pa] | .error _ => false) = true ∧
    acc late 3 [0x100, 1, 1] (fun p _ => (late.consumer 0).quiet && !p.unsettled 7 0) = true ∧
    copy [1] (fun _ r => r.misaligned.isSome) = true ∧ copy [0x1000, w64 (windowBase - 8), 16, 0, 1] (fun _ r => r.misaligned.isNone && r.meetsWindow) = true ∧
    copy [0x1000, 0x40000000, 16, 0, 1] (fun p r => r.misaligned.isNone && !r.meetsWindow && match copyRange (p.walkPager x.viewer) r with | .error _ => true | .ok _ => false) = true ∧
    copy [0x10000, 0x20000, 16, 0, 1] (fun p r => r.misaligned.isNone && !r.meetsWindow && p.launchRoom (p.executor 7) && match copyRange (p.walkPager x.viewer) r with | .error _ => false | .ok _ => true) = true ∧
    acc x 5 [0, 0x1000, 4] (fun _ w => decide ((w.getD 3 0).toNat % 8 ≠ 0)) = true ∧
    acc x 5 [1, 0x100, 0] (fun p w => match p.recordFolio x 1 (w.getD 2 0) with | .error _ => true | .ok _ => false) = true ∧
    acc x 5 [1, 0x100, 0] (fun p w => match ({ p with folios := [(0, folioOf .ready aFolio)] } : State).recordFolio x 1 (w.getD 2 0) with | .error _ => false | .ok _ => true) = true ∧
    acc x 5 [1, 0x100, 0x100] (fun p w => match p.recordPa x (w.getD 3 0) .write with | .ok pa => tagged pa | .error _ => false) = true ∧
    (((rec_ []).spawnTo 0 false aRec 0).isSome = true ∧ ((out (rec_ [])).spawnTo 0 false aRec 0).isSome = false) ∧
    ((hq id).due = true ∧ (hq fun y => { y with wake := 0 }).wake = 0 ∧ (queued (hq id) []).handlerRoom (hq id) = true ∧
      ({ queued (hq id) [] with threads := [Thread.fresh 2 508 5 .user .noon 0 []] } : State).handlerRoom (hq id) = false) := by decide

/-! ### The host, links and reset -/

/-- The bytes of a number, the lowest first. -/
def lowFirst (n v : Nat) : List Byte := (List.range n).map fun i => BitVec.ofNat 8 (v / 256 ^ i)

/-- The part of a configuration table before its matrices: role 0 at the columns (0, 0) and (4, 0), and no class but 0. -/
def tableHead : List Byte := lowFirst 4 0x57435446 ++ lowFirst 4 1 ++ lowFirst 4 0x870 ++ lowFirst 4 0 ++ [0x80, 0xC0] ++ List.replicate 94 0

/-- A configuration table whose matrices are the identity. -/
def goodTable : List Byte := tableHead ++ ((List.range' 0 256).flatMap (fun i => lowFirst 8 (2 ^ (i % 64))) ++ List.replicate 512 0)

theorem block_of (f : Nat → List Byte) (h : ∀ i, (f i).length = 8) (tail : List Byte) :
    ∀ n j s, j < n → (((List.range' s n).flatMap f ++ tail).drop (8 * j)).take 8 = f (s + j) := by
  intro n
  induction n with
  | zero => intro j s hj; omega
  | succ n ih =>
    intro j s hj
    rw [List.range'_succ, List.flatMap_cons, List.append_assoc]
    cases j with
    | zero => simp [h]
    | succ j =>
      have : 8 * (j + 1) = (f s).length + 8 * j := by rw [h]; omega
      rw [this, List.drop_length_add_append, ih j (s + 1) (by omega)]
      congr 1
      omega

theorem bijective_one : ∀ c < 4, bijective ((List.range 64).map fun i => w64 (2 ^ i)) c = true := by decide

theorem matrix_of_table (c : Nat) (hc : c < 4) : tableMatrix goodTable c = (List.range 64).map fun i => w64 (2 ^ i) := by
  refine List.map_congr_left fun i hi => ?_
  have hi : i < 64 := List.mem_range.mp hi
  have hb : ∀ i < 64, ofBytes (lowFirst 8 (2 ^ i)) = 2 ^ i := by decide
  have hl : 0x070 + 512 * c + 8 * i = tableHead.length + 8 * (64 * c + i) := by
    have : tableHead.length = 0x070 := by decide
    omega
  rw [imageField, hl, goodTable, List.drop_length_add_append, block_of _ (fun _ => by simp [lowFirst]) _ 256 (64 * c + i) 0 (by omega)]
  have : (0 + (64 * c + i)) % 64 = i := by omega
  rw [this, hb i hi]

/-- A table that is good but for its signature, which the model leaves open. -/
theorem signed_table (h : Config.signatureValid goodTable = true) : tableBad goodTable 0 = none := by
  have hf : ((List.range 4).find? fun c => !bijective (tableMatrix goodTable c) c) = none := by
    rw [List.find?_eq_none]
    intro c hc
    rw [matrix_of_table c (List.mem_range.mp hc), bijective_one c (List.mem_range.mp hc)]
    simp
  have hg : imageField goodTable 0 4 = 0x57435446 ∧ imageField goodTable 4 4 = 1 ∧ imageField goodTable 8 4 = 0x870 ∧ imageField goodTable 12 4 = 0 ∧
      tableColumns goodTable = [(0, 0), (4, 0)] ∧ (((goodTable.drop 0x018).take 16).any fun b => decide (3 < b.toNat)) = false := by decide
  have hl : goodTable.length = 0x870 + 512 := by
    have : ∀ n s, ((List.range' s n).flatMap fun i => lowFirst 8 (2 ^ (i % 64))).length = 8 * n := by
      intro n
      induction n with
      | zero => intro s; rfl
      | succ n ih => intro s; rw [List.range'_succ, List.flatMap_cons, List.length_append, ih]; simp [lowFirst]; omega
    rw [goodTable, List.length_append, List.length_append, this, List.length_replicate]
    decide
  obtain ⟨h0, h1, h2, h3, h4, h5⟩ := hg
  unfold tableBad
  simp only [h0, h1, h2, h3, h4, hl, hf, h]
  have he : ([(0, 0), (4, 0)] : List (Nat × Nat)).eraseDups.length = 2 := by decide
  simp [h5, he]

/-- The module with tenant 1, whose cores are those of the word `cores`, and page tables that map the first GiB to itself. -/
def hosted (cores : Nat) : State :=
  let t := Tenant.ofDesc (benchDesc.take 8 ++ bitmapOf 0 cores ++ benchDesc.drop 28)
  paged { State.reset with tenants := [(0, Tenant.ofDesc curatorDesc), (1, t)] }

/-- A good tenant descriptor with core 1. -/
def goodTenant : List Word := (benchDesc.take 8 ++ bitmapOf 0 2 ++ benchDesc.drop 28).set 28 0x40001

/-- Each clause of HostRequestsAndAccesses: images and tables in each state, tenants good and bad with the first ID free and none, queues, pages
busy and not, stores to a queue that is and one that is not, owned and other pages, and each answer of the ingress map. -/
theorem witness_HostRequestsAndAccesses :
    let s := hosted 2
    let r (g t : Bool) : State := State.reset.modFront fun f => { f with imageGood := g, tableGood := t }
    let full : State := { State.reset with tenants := (List.range 256).map fun i => (i, Tenant.ofDesc []) }
    let q (f : Queue → Queue) : State := { hosted 2 with queues := [(0, f { queueOf true id with tenant := 1 })] }
    let qd (w1 : Word) : State := (s.storeWord 0x8000 0).storeWord 0x8008 w1
    let desc (w1 : Word) : Option (List Word) := (((qd w1).checkWords (requestViewer 1) 0x8000 16).queueWords 1 0x8000).map fun ws => ws.map (·.2)
    let named (u : State) : Option (List (Nat × Nat)) := (u.namedPages 1 1 0).map fun rs => closePages u.allLeaves (u.allLeaves.length + 1) rs.eraseDups
    let owed : State := { (s.modCore 0 fun c => { c with mail := List.replicate 256 mail }).setTag 0x3000 { s.tag 0x3000 with w := true } with
      threads := [Thread.fresh 1 8 1 .user .day 0 []],
      watch := [{ die := s.dieOfWord 0x3000, lo := 0x3000, hi := 0x3040, tenant := 1, action := 3, arg := 8, installer := .watch, offset := 0, bound := some 1 }] }
    let own (pa : Nat) : State := s.modFront fun f => { f with owned := [pa / 65536] }
    let ing : Ingress := { port := 0, off := 8, len := 16, base := 0x2000, tenant := 1 }
    ((r true true).front.imageGood = true ∧ (r false true).front.imageGood = false ∧ (r true false).front.tableGood = false ∧ (2 : Nat) ≠ 1 ∧ tableBad [] 0 = some 0 ∧ (1279 : Nat) < 1280) ∧
    (goodTenant.length = 32 ∧ State.reset.tenantBad (Tenant.ofDesc goodTenant) = none ∧ State.reset.tenantBad (Tenant.ofDesc (goodTenant.set 1 0)) = some 8 ∧ State.reset.tenant? 1 = none ∧
      State.reset.front.booted = false ∧ (s.modFront fun f => { f with booted := true }).front.booted = true ∧ s.tenant? 1 ≠ none ∧ s.tenant? 2 = none) ∧
    (full.tenantBad (Tenant.ofDesc goodTenant) = none ∧ full.tenants.map (·.1) = List.range 256) ∧
    (((s.tenant 1).desc.drop 8).take 20 = bitmapOf 0 2 ∧ partitionOf (bitmapOf 0 2) = [1] ∧ s.curfews = [] ∧ ({ s with curfews := [curfewOf .armed 0 0] } : State).curfews = [curfewOf .armed 0 0]) ∧
    ((s.checkWords (requestViewer 1) 0x8004 16).queueWords 1 0x8004 = none ∧ (desc 0x010004).isSome = true ∧ (match desc 0x010104 with | some ws => queueBad (s.tenant 1) ws == none | none => false) = true ∧
      (match desc 0x010004 with | some ws => queueBad (s.tenant 1) ws == some 9 | none => false) = true ∧ s.queue? 0 = none ∧ (q id).queue? 0 ≠ none) ∧
    (s.namedPages 1 1 0x40000000 = none ∧ named s = some [(0, 2 ^ 30)] ∧ s.pagesBusy [(0, 2 ^ 30)] = false ∧ s.mayMigrate s.allLeaves [(0, 2 ^ 30)] = true ∧ owed.pagesBusy [(0, 2 ^ 30)] = false ∧
      owed.mayMigrate owed.allLeaves [(0, 2 ^ 30)] = false ∧
      ({ s with rowOps := [{ id := 1, uid := 1, tid := 8, tenant := 1, src := none, dst := 0x2000, data := none }] } : State).pagesBusy [(0, 2 ^ 30)] = true) ∧
    (let x : Queue := { queueOf true fun c => { c with wait := .stopped } with tenant := 1 }
     x.out = false ∧ x.hnd = true ∧ x.last = 1 ∧ (x.consumer 0).wait = .stopped ∧ (0x101 : Word).toNat.testBit 0 = true ∧ (0x101 : Word).toNat.testBit 8 = true ∧ (queueOf false id).hnd = false) ∧
    (0x10000 % 8 = 0 ∧ 0x10000 < 0x00C000000000 ∧ s.hostOwned 0x10000 = false ∧ (own 0x10000).hostOwned 0x10000 = true ∧ (own 0x10000).hostOwned 0x1FFF8 = true ∧ (own 0x10000).hostOwned 0x20000 = false ∧
      ((own 0x10000).tag 0x10000).ecc = .ok ∧ (own 0x10000).mayWrite [0x10000] = true ∧ (own 0x10000).outerMayGo 0x10000 false = true ∧
      ({ own 0x10000 with rowOps := [{ id := 1, uid := 1, tid := 8, tenant := 1, src := none, dst := 0x10000, data := none }] } : State).outerMayGo 0x10000 false = false) ∧
    ((s.modFront fun f => { f with ingress := [ing] }).front.ingress = [ing] ∧ ing.port = 0 ∧ ing.off ≤ 16 ∧ 16 + 8 ≤ ing.off + ing.len ∧ ing.off + ing.len < 17 + 8) := by
  simp only [partitionOf_word]
  decide

/-- Each clause of LinksScrubbingPowerAndReset: margins at and below the threshold, the fifth spare lane, the last numbers of each table, words
with and without an error, tenant cores and none, and each suppression. -/
theorem witness_LinksScrubbingPowerAndReset :
    let lane (v : Nat) (again spare : Bool) (n : Nat) : State := State.reset.modFront fun f => { f with
      margins := (0, { reg := BitVec.ofNat 33 v, retraining := again, spare := spare }) :: (List.range n).map fun i => (i + 1, { reg := 0, retraining := false, spare := true }) }
    let weak : Nat := 0x20200102
    let err (e : Ecc) : State := State.reset.setTag 0x40 { State.reset.tag 0x40 with ecc := e }
    let s := hosted 3
    let v := bench 0 .user [] id
    let day (d : Bool) (k : Cls) : State := (bench 0 .user [] fun t => { t with cls := k }).modFront fun f => { f with suppressDusk := d, suppressDay := d }
    let sick : State := v.modFront fun f => { f with tripped := true }
    (255 < 256 ∧ 511 < 512 ∧ ¬ 0x20 < bits ((lane weak false false 0).lane 0 0).reg.toNat 16 8 ∧ 0x1F < bits ((lane weak false false 0).lane 0 0).reg.toNat 16 8 ∧ ((lane weak false false 0).lane 0 0).reg.toNat.testBit 32 = false ∧
      ((lane (weak + 2 ^ 32) false false 0).lane 0 0).reg.toNat.testBit 32 = true) ∧
    (((lane weak false false 0).lane 0 0).retraining = false ∧ ((lane 0x20202020 true false 0).lane 0 0).retraining = true ∧ ((lane 0x20202020 true false 0).lane 0 0).weak = false ∧
      ((lane weak true false 3).lane 0 0).weak = true ∧ (lane weak true false 3).sparesUsed 0 0 < 4 ∧ 4 ≤ (lane weak true false 4).sparesUsed 0 0) ∧
    (1279 < 1280 ∧ 16383 < 16384 ∧ (∀ j < 8, (State.reset.tag (0x40 + 8 * j)).ecc = .ok) ∧ ((err .double).tag 0x40).ecc = .double ∧ regionOf 0x40 = .dram ∧ regionOf (spadPa 1 8) = .spad 1 8 ∧ State.reset.rowOps = []) ∧
    (State.reset.front.drain = 0 ∧ (State.reset.modFront fun f => { f with drain := 1 }).front.drain ≠ 0 ∧ State.reset.tenantParts = [] ∧
      (∃ e ∈ s.tenants, e.1 ≠ 0 ∧ e.2.hasCore 1 = true ∧ (e.2.desc.drop 8).take 20 = bitmapOf 0 3) ∧ partitionOf (bitmapOf 0 3) = [0, 1] ∧ (11 : Nat) < 12) ∧
    (v.eligible (one v) = true ∧ v.classOf (one v) = .day ∧ (day true .day).eligible (one (day true .day)) = false ∧ (day true .noon).eligible (one (day true .noon)) = true ∧
      (day false .dusk).eligible (one (day false .dusk)) = true ∧ sick.eligible (one sick) = false) := by
  simp only [partitionOf_word]
  decide

/-! ### Instructions that find everything at hand -/

/-- The descriptor of `n` words at `va` is at hand, and `ok` holds of its address and its words. -/
def wordsAt (s : State) (t : Thread) (va : Word) (n : Nat) (wr : Bool) (ok : Nat → List Word → Bool) : Bool :=
  decide (va.toNat < windowEnd ∧ va.toNat % (8 * n) = 0) &&
    match s.reach t va.toNat (8 * n) true wr with
    | .ok pa => ((List.range n).all fun k => decide (regionOf (pa + 8 * k) = .dram ∧ s.poisoned (pa + 8 * k) = false ∧ s.eccOf (pa + 8 * k) = .ok)) && s.mayTouch ((List.range n).map fun k => pa + 8 * k) &&
        ok pa ((List.range n).map fun k => s.word (pa + 8 * k))
    | _ => false

theorem descriptor_of {s : State} {t : Thread} {va : Word} {n : Nat} {wr : Bool} {ok : Nat → List Word → Bool}
    (h : wordsAt s t va n wr ok = true) : ∃ pa ws, s.Descriptor t va n wr pa ws ∧ ok pa ws = true := by
  simp only [wordsAt, Bool.and_eq_true, decide_eq_true_eq] at h
  obtain ⟨⟨hs, ha⟩, h⟩ := h
  split at h
  next pa hr =>
    simp only [Bool.and_eq_true, List.all_eq_true, decide_eq_true_eq] at h
    exact ⟨pa, _, ⟨hs, ha, hr, fun k hk => h.1.1 k (List.mem_range.mpr hk), h.1.2, rfl⟩, h.2⟩
  next => cases h

/-- A paged state of core `k` whose thread of tenant 5 is at level `l`, with these registers and the words `ws` at 0x8000. -/
def atHand (k : Nat) (l : Level) (g ws : List Word) : State :=
  (((List.range ws.length).foldl (fun s i => s.storeWord (0x8000 + 8 * i) (ws.getD i 0)) (paged (bench k l g id)))).modCore k fun c =>
    { c with tlb := [{ tenant := 5, va := 0, size := 30, leaf := 0x1F }] }

/-- `f` is ready in `s`, with nothing outstanding. -/
def sat (s : State) (f : Form) : Bool := ready s (one s) f && s.drained (one s).uid

/-- Nothing of the thread is outstanding or read ahead. -/
def settled (s : State) (t : Thread) : Bool := s.accesses.all (fun a => a.uid != t.uid) && decide (s.pushDue t.uid = false ∧ t.dropAhead = t)

theorem settled_of {s : State} {t : Thread} (h : settled s t = true) : s.Settled t := by
  simp only [settled, Bool.and_eq_true, List.all_eq_true, bne_iff_ne, decide_eq_true_eq] at h
  exact h

/-- The clauses of TrapAndBreakpointComplete and FackActsOnHeldThreads in which the thread finds everything at hand: a trap that a handler
takes, a breakpoint that is not armed and one that is, and a held thread of the same tenant. -/
theorem witness_TrapsAtHand :
    let s := (bench 0 .runtime [0, 9] id).modTenant 5 fun t => { t with trapvec := 0x100 }
    let u := (bench 0 .user [0, 9] id).modTenant 5 fun t => { t with trapvec := 0x100 }
    let armed := u.modCore 0 fun c => { c with brkTenant := 5 }
    let o : Thread := { Thread.fresh 2 9 5 .user .day 0 [] with status := .heldFault, latch := some (latchOf 9) }
    let h : State := { s with threads := [{ one s with regs := (one s).regs.set 1 { Reg.zero with val := 9 } }, o] }
    sat u (fA 1) = true ∧ u.doubles (one u) 0x28 = false ∧ sat u f0 = true ∧ u.brkArmed (one u) = false ∧ u.doubles (one u) 0x29 = false ∧
    sat armed f0 = true ∧ armed.brkArmed (one armed) = true ∧
    sat h (lvl (fA 1) .runtime) = true ∧ h.holder? 9 = some o ∧ o.tenant = (one h).tenant ∧ h.frozen o = false ∧ (latchOf 9).barrier = 0 := by decide

/-- The words of a future, and an empty and a full deque, for the clauses of SpawnQuitAndDeques and YieldAndStealing. -/
theorem witness_TasksAtHand :
    let s := atHand 0 .user [0x40, 1, 2, 0x8000, 0xFFFFFFFFFFFFFFFF] []
    let t := one s
    let peer : State := { s with threads := s.threads ++ [other 2 9 .day] }
    settled s t = true ∧ (∀ n < 4, (t.reg n).full = true ∧ (t.reg n).ecc = .ok ∧ (t.reg n).due = false) ∧ s.val t (opA .src 4 0) = BitVec.allOnes 64 ∧
    s.away 0 = false ∧ (s.core 0).deque.length < 256 ∧ ready s t (fmtR 5 4 0 0 0) = true ∧ s.reach t 0x8000 8 false true = .ok 0x8000 ∧
    regionOf 0x8000 = .dram ∧ s.poisoned 0x8000 = false ∧ s.eccOf 0x8000 = .ok ∧ (s.tag 0x8000).w = false ∧ s.waiters [0x8000] = [] ∧ s.rowOps = [] ∧
    ready s t (fA 4) = true ∧ ready s t (fD 5) = true ∧ ready s t f0 = true ∧ ((s.core 0).deque = [] ∧ ∀ e ∈ s.tenants, e.2.ovfCount = 0) ∧
    (∀ g ∈ (s.tenant 5).gangs, t.uid ∉ g.2.members) ∧ t.future = none ∧ t.drain = none ∧ (s.core 0).prove = false ∧
    s.peers t = [] ∧ ready peer (one peer) f0 = true ∧ peer.peers (one peer) = [2] := by decide

/-- A gather request of two 4-byte indices, without and with bags, for slot 3. -/
def gatherWords : List Word := [w64 (3 + 2 * 2 ^ 32), 0x10000, 0x20000, 0]
def bagWords : List Word := [w64 (3 + 2 ^ 16 + 2 * 2 ^ 32), 0x10000, 0x20000, 0x30000]

/-- The clauses of WatchTables, GathersAndTables and KeyRoutedSends in which the thread finds everything at hand. -/
theorem witness_UnitsAtHand :
    let w (len : Nat) : State := atHand 0 .runtime [0, 0x8000, w64 (len + 2 * 2 ^ 32), 64] []
    let rng (s : State) : Bool := decide ((one s).actsFor = (one s).tenant) && match s.threadPages (one s) 0x8000 64 .write with
      | .ok ps => (ps.all fun x => tagged x.2.1) && s.tablesHold (s.entriesFor (runsOf 0x8000 [] ps)) && !({ s with watch := List.replicate 4096 (entryAt 0 0x10000 0x10040 .watch) } : State).tablesHold (s.entriesFor (runsOf 0x8000 [] ps))
      | .error _ => false
    let tab (ws : List Word) (x : Word) : State := (atHand 0 .runtime [0, 3, x, 0x8000] ws).modTenant 5 fun n => { n with tables := [(3, aTable 0)] }
    let pages (sum : Bool) (s : State) (q : List Word) : Bool := reqGood q sum && (!sum || [0, 1, 2, 3, 9, 10].contains (aTable 0).fmt) &&
      match s.threadPages (one s) 0x10000 8 .read, s.threadPages (one s) (fieldOf (q.getD 3 0) 0 52) (if sum then 8 else 0) .read,
          s.threadPages (one s) 0x20000 (2 * (aTable 0).rowBytes) .write with
      | .ok _, .ok _, .ok ds => (ds.filter badDest).isEmpty
      | _, _, _ => false
    let bin : BinSet := (w64 (2 ^ 16), w64 (2 ^ 32))
    let keyed := (tab [] 9).modTenant 5 fun n => { n with bins := [(3, bin)] }
    (w 64 |> fun s => settled s (one s) && ready s (one s) (fmtR 4 1 2 0 0) && ready s (one s) (fAB 1 3) && rng s) = true ∧ ready (w 0) (one (w 0)) (fmtR 4 1 2 0 0) = true ∧
    ready (tab [] 0) (one (tab [] 0)) (fA 1) = true ∧ (one (tab [] 0)).phase = 0 ∧ (tab [] 0).oldGathers 5 3 (((tab [] 0).tenant 5).oldVersions 3) = false ∧
    settled (tab [] 0) (one (tab [] 0)) = true ∧ ready (tab [] 0) (one (tab [] 0)) (fAB 1 2) = true ∧
    (tab gatherWords 0 |> fun s => sat s (fA 3) && wordsAt s (one s) 0x8000 4 false fun _ q => pages false s q && decide (fieldOf (q.getD 0 0) 0 8 = 3)) = true ∧
    (tab bagWords 0 |> fun s => sat s (fA 3) && wordsAt s (one s) 0x8000 4 false fun _ q => pages true s q && decide (fieldOf (q.getD 0 0) 0 8 = 3)) = true ∧
    (((tab (aTable 0).words 0x8000).modTenant 5 fun n => { n with tables := [] }) |> fun s => sat s (fAB 1 2) && wordsAt s (one s) 0x8000 8 false fun _ q =>
      ({ words := q, hot := false, serial := 0 } : TableSlot).good ((s.tenant 5).tableVersion 3)) = true ∧
    sat (tab [] 0) (fAB 1 2) = true ∧
    (tab [bin.1, bin.2, 0, 0] 0x8000 |> fun s => settled s (one s) && ready s (one s) (fAB 1 2) && wordsAt s (one s) 0x8000 4 false fun _ q =>
      s.goodBins 5 (q.getD 0 0, q.getD 1 0)) = true ∧
    (ready keyed (one keyed) (fAB 1 2) = true ∧ keyed.sendsOf 1 = 0 ∧ lookup? (keyed.tenant 5).bins 3 = some bin ∧ ready keyed (one keyed) (fmtR1 4 1 0 0 0) = true ∧
      keyed.roundSet 5 9 = none) := by decide

/-- The clauses of RowOperationsAndBanks, MatrixRows and FoliosAndShelfmarks in which the thread finds everything at hand. -/
theorem witness_RowsAtHand :
    let r := ((atHand 0 .user [0, 0x2000, 0x4000] []).modFront fun x => { x with classes := List.replicate 96 3 }).modCore 0 fun c =>
      { c with tlb := [{ tenant := 5, va := 0, size := 30, leaf := 0xDF }] }
    let at_ (va : Nat) (rd wr : Bool) : Bool := match r.reach (one r) va 8192 rd wr with | .ok pa => pa == va && r.goodRow pa | _ => false
    let m (a n : Word) (ws : List Word) : State := atHand 512 .user [0, a, n] ws
    let arr (t : Thread) (f : Form) : Form := arrayForm t f
    let f0 : Folio := { folioOf .ready aFolio with held := [(512, 1)], runs := [(0, 0, 4096)] }
    let fol (st : FolioState) : State := { m 0x100 0 [] with folios := [(0, { f0 with state := st })] }
    let d := rowDescOf 0 16 1 1 0 1
    (sat r (fmtR 3 1 2 0 0) = true ∧ sat r (fmtR1 3 1 0 0 0) = true ∧ at_ 0x2000 false true = true ∧ at_ 0x4000 true false = true ∧
      (r.cellOf 0x2000).stack = (r.cellOf 0x4000).stack) ∧
    (m 0x8000 1 d |> fun s => settled s (one s) && sat s (arr (one s) (fA 1)) && wordsAt s (one s) 0x8000 8 false fun _ ws => decide (RowDesc.badWord ws = none)) = true ∧
    ((m 7 0 []).row 0).arrivals = [] ∧ sat (m 7 0 []) (arr (one (m 7 0 [])) (fA 1)) = true ∧
    (m 0x40 2 [] |> fun s => ready s (one s) (arr (one s) (fAB 1 2)) && (s.rowBusy 512).isNone && decide ((s.core 512).reserve = none ∧ 2 ≤ (s.freePool 512).length)) = true ∧
    (m 0x40 0 [] |> fun s => ready s (one s) (arr (one s) (fAB 1 2)) && ready s (one s) (arr (one s) (fD 2))) = true ∧
    (m 1 1023 [] |> fun s => settled s (one s) && ready s (one s) (arr (one s) (fAB 1 2)) && decide ((s.row 0).run = none)) = true ∧
    (m 0x8000 0 aFolio |> fun s => sat s (arr (one s) (fAD 1 2)) && wordsAt s (one s) 0x8000 8 false fun _ ws => !FolioDesc.bad ws &&
      ((FolioDesc.rows ws).all fun w => (List.range 16).all fun j => (s.tenant 5).hasCore (rowCore w j)) && decide (s.freeFolio = some 0) &&
      match sourceRuns (s.pager (one s)) ws, s.acquirePages 5 4096 ws with | .ok r, .ok _ => s.tablesHold (s.entriesFor r) | _, _ => false) = true ∧
    (∀ st ∈ [FolioState.ready, .loading], sat (fol st) (arr (one (fol st)) (fA 1)) = true ∧ ((fol st).liveFolio? 5 0x100).map (·.1) = some 0 ∧ (fol st).contentsInUse 0 = false) ∧
    (match sourceRuns ((fol .ready).pager (one (fol .ready))) aFolio with | .ok r => decide (r = f0.runs) | .error _ => false) = true ∧
    (withRow [] (some (runOf 0 false (memberOf [] [] [] []))) (fol .ready)).contentsInUse 0 = true := by decide

/-- The clauses of PartitionsAndHarvest, SystemRegisters and CurfewSwitches in which the thread finds everything at hand. -/
theorem witness_SystemAtHand :
    let idle (g : List Word) : State := (curator 0 g).modThread 1 fun t => { t with tid := 508 }
    let b (g : List Word) : State := atHand 0 .runtime g []
    let dusk : State := { b [0, 1] with threads := (b [0, 1]).threads ++ [other 2 9 .dusk] }
    let sys (n : Nat) (w : Bool) (s : State) : Bool := ready s (one s)
      (sysForm { f0 with d := opD (if w then .src else .dst) 2 } n w (s.curatorCore (one s).core) (one s) (s.core (one s).core))
    let sw : State := (paged (List.foldl (fun s i => s.storeWord (0x8000 + 8 * i) ((bitmapOf 0 2 ++ [0x100000]).getD i 0)) (curator 0 [0, 100, 0x8000]) (List.range 32)))
    ready (curator 0 [0, 2]) (one (curator 0 [0, 2])) (lvl (fmtR1 2 1 0 0 0) .curator) = true ∧
    (ready (idle [0, 1]) (one (idle [0, 1])) (lvl (fmtR1 2 1 0 0 0) .curator) = true ∧ ((idle [0, 1]).core 0).deep ≠ true ∧ (idle [0, 1]).coreDue 0 = false ∧
      (idle [0, 1]).quiescent 0 = true) ∧
    (b [0, 0x10000, 0x10000] |> fun s => ready s (one s) (lvl (fAB 1 2) .runtime) && settled s (one s) && decide ((one s).phase = 0 ∧ s.usersOf 5 0x10000 0x20000 = [])) = true ∧
    (b [0, 0x1000, 0x1000] |> fun s => ready s (one s) (lvl (fAB 1 2) .runtime) && settled s (one s) && s.allots 5 0 0x1000 0x1000 &&
      decide ((s.core 0).lent = [] ∧ (s.core 0).revoking = none)) = true ∧
    (b [0, 1] |> fun s => ready s (one s) (lvl (fA 1) .runtime) && decide (s.choosable 0 1 = [])) = true ∧
    (ready dusk (one dusk) (lvl (fA 1) .runtime) = true ∧ dusk.choosable 0 1 ≠ []) ∧
    (sys 0 false (b []) = true ∧ (b []).spreading (one (b [])) 0 = none) ∧ (sys 9 true (b []) = true ∧ sysEvent 1 9 0 = none) ∧
    (sys 0x47 true (b []) = true ∧ (sysEvent 1 0x47 0).isSome = true) ∧
    (sat sw (lvl (fAB 1 2) .curator) = true ∧ wordsAt sw (one sw) 0x8000 32 true (fun _ ws => decide (ws.take 20 = bitmapOf 0 2 ∧
      (ws.getD 20 0).toNat % 65536 = 0 ∧ (ws.getD 21 0).toNat % 65536 = 0) && !sw.curatorCore 1) = true ∧ partitionOf (bitmapOf 0 2) = [1]) := by
  simp only [partitionOf_word]
  decide

/-! ### States in which a unit is under way -/

/-- Two stores of one thread on their way to one word of the host's. -/
def outwardOf (id : Nat) : Outward := { id := id, uid := some 1, queue := none, pa := 0x010000000000, size := 8, val := 0 }

/-- Clauses about accesses at the controller, links, gangs and messages: a limit of HALLOC.nf, a waiter that its condition and none that a row
operation holds back, a range returned, a ring entry, a broken gang, a thread whose image is in a save area, mailboxes with room, the
heap with a value already drawn, and stores on their way. -/
theorem witness_AccessesUnderWay :
    let s := bench 0 .user [] id
    let acc (k : AccessKind) : Access := { Access.blank k 0x8000 0x8000 with id := 1, uid := 1, mode := 1, phase := .waiting 0 0 }
    let at_ (k : AccessKind) : State := { s with accesses := [acc k] }
    let op : RowOp := { id := 1, uid := 1, tid := 8, tenant := 5, src := none, dst := 0x8000, data := none }
    let lost := { (bench 0 .user [] fun t => { t with cls := .dusk }) with accesses := [{ acc .load with pa := spadPa 0 0, va := windowBase }] }
    let ring : Channel := { src := 2, dst := 1, words := [], ringPa := [0x9000], ringVa := 0x9000, ringHead := 0, ringLen := 1 }
    let g : Gang := { check := 1, n := 2, gen := 0, members := [1, 2], arrived := [1], ecc := .ok, broken := true }
    let ganged := s.modTenant 5 fun t => { t with gangs := [(0, g)] }
    let away : State := { s with images := [{ anImage with cores := [0], threads := [other 2 9 .day] }] }
    let old (h : Bool) : State := s.modTenant 5 fun t => { t with heapdesc := 1, headHit := h, live := [(0x10000, 6)] }
    let posts : State := { s with outward := [outwardOf 1, outwardOf 2] }
    (s.allocBusy 1 = false ∧ (at_ .alloc).allocBusy 1 = true ∧ s.relaxedCount 1 < 8) ∧
    ((at_ .load).servable (acc .load) = true ∧ (at_ .load).rowRunning 0x8000 = false ∧ ({ at_ .load with rowOps := [op] } : State).servable (acc .load) = false ∧
      ({ at_ .load with rowOps := [op] } : State).rowRunning 0x8000 = true) ∧
    ((at_ .load).leaseOf (acc .load) = none ∧ ((lost.access? 1).bind lost.leaseOf).isSome = true) ∧
    (({ s with channels := [ring] } : State).upChannel? (one s) = some ring ∧ ring.words = [] ∧ ring.ringLen ≠ 0 ∧ s.poisoned (ring.ringWord 0) = false) ∧
    ((ganged.findGang 5 0x1000).map (·.1) = some 0 ∧ lookup? (ganged.tenant 5).gangs 0 = some g ∧ g.broken = true ∧ (ganged.checkCounters 5 0 0 g).2.broken = true) ∧
    (away.imageOfTid 0 9 5 = some (blockBase 0x100000 0) ∧ away.imageRoom (blockBase 0x100000 0) = true ∧ s.imageOfTid 0 9 5 = none) ∧
    ((old false).tenant 5).headHit = false ∧ ((old true).tenant 5).headHit = true ∧ ({ old true with picks := [1] } : State).picks = [1] ∧ 1 % (((old true).tenant 5).live.length + 1) ≠ 0 ∧
    (posts.outwardMayGo (outwardOf 1) = true ∧ posts.outwardMayGo (outwardOf 2) = false ∧ posts.outward.find? (fun o => o.id == 2) = some (outwardOf 2)) ∧
    ((({ s with pending := [{ at_ := 0, ev := .trapvecWrite 2 0x100 }], threads := s.threads ++ [Thread.fresh 2 (512 + 9) 5 .runtime .day 0 []] } : State).spreading (one s) 0x1C) = some 0x100) := by decide

/-- Clauses about copies, banks, consumers and steals: a stopped and an aligned transfer, a bank past its period with and without a queued
access, an account that waits, a record of the overflow area, a record accepted ahead, and a dispatch that was late. -/
theorem witness_EnginesUnderWay :
    let s := bench 0 .user [] id
    let held (x : Transfer) : State := s.modCore 0 fun c => { c with transfers := [x], stopped := true }
    let bank (p : BitVec 12) (l : List Access) : State := { s with now := 0x1000, accesses := l }.modFront fun f => { f with banks := [((s.cellOf 0x8000).bankNo, { openRow := some (s.cellOf 0x8000).row, last := 0, period := p })] }
    let n := (s.cellOf 0x8000).bankNo
    let queued_ : Access := { Access.blank .load 0x8000 0x8000 with phase := .sent }
    let spill := (paged s).modTenant 5 fun t => { t with ovfCount := 1 }
    let x := queueOf false id
    let q := queued x [headOf 6 1 0 0]
    let later (wake : Word) : Queue := { queueOf true id with due := true, late := true, wake := wake }
    let asked (f : Account → Account) : State := (s.modCore 0 fun c => { c with account := [(5, f ((s.core 0).accountOf 5))] })
    ((held (aTransfer .running)).transferStopped 0 (aTransfer .running) = true ∧ ((held (aTransfer .running)).modThread 1 fun t => { t with tid := 508 }).transferStopped 0 (aTransfer .running) = false ∧
      s.transferStopped 0 (aTransfer .running) = false ∧ (aTransfer .running).aligned = false ∧ { aTransfer .running with next := 2 }.aligned = true) ∧
    (((bank 0x40 []).bank n).openRow.isSome = true ∧ (bank 0x40 []).rowQueued n (s.cellOf 0x8000).row = false ∧ (bank 0x40 [queued_]).rowQueued n (s.cellOf 0x8000).row = true ∧
      ((bank 0x40 []).bank n).last + 4 * 0x40 ≤ (bank 0x40 []).now ∧ ((bank 0xFFF []).bank n).period = 0xFFF) ∧
    (spill.ovfPa 5 0 = some 0 ∧ (spill.recordOf 0).ecc ≠ .double ∧ (spill.tenant 5).ovfCount = 1) ∧
    (((q.aheadOf x 0).map (·.2.accepted.length)) = [1] ∧ x.executes 0 = true ∧ x.executes 1 = false ∧ (queueOf true id).executes 1 = false) ∧
    ((later 1).late = true ∧ (later 1).wake.toNat ≤ ((later 1).progress (later 1).last).toNat ↔ False) ∧ ((later 0).wake.toNat ≤ ((later 0).progress (later 0).last).toNat) ∧
    (((asked fun a => { a with asking := some 3, askedAt := 64 }).core 0).accountOf 5).asking = some 3 ∧ (((asked fun a => { a with first := true }).core 0).accountOf 5).first = true := by decide

/-- Clauses about the restoring of an image, the firmware and the host: the phases of a switch-in, an area whose length runs out of memory, a core
that stays out; a march test that runs, has run out, and has found rows; a checkpoint that may be taken; spares and none; the
interface registers. -/
theorem witness_ServiceUnderWay :
    let s := pair [] id
    let y := curfewOf .restoring 0 0x100000
    let going : State := { s with curfews := [y], threads := [{ Thread.fresh 1 520 5 .user .day 0 [] with status := .restoring }] }
    let waits : State := { going with accesses := [{ Access.blank .store 0x8000 0x8000 with id := 1, uid := 1, phase := .sent }] }
    let out := s.modCore 1 fun c => { c with switched := some 0x100000 }
    let m : March := { core := 3, pa := 0x8000, entries := 2, till := 50 }
    let march (now : Nat) (f : State → State) : State := f ({ s with now := now }.modFront fun x => { x with marches := [m] })
    let drain (n : Nat) (l : List Curfew) : State := { s with curfews := l }.modFront fun f => { f with drain := n, areas := [(0x100000, [1])] }
    let f := State.reset.front
    let ing : Ingress := { port := 0, off := 0, len := 16, base := spadPa 0 0, tenant := 5 }
    let wall := (curator 0 []).modCore 0 fun c => { c with fwEnable := true }
    (going.curfews.find? (fun x => x.id == 1) = some y ∧ y.phase = .restoring ∧ going.mayIn y = true ∧ going.allPlaced y = true ∧ waits.mayIn y = false) ∧
    ((out.core 1).switched = some 0x100000 ∧ y.inn ≠ 0 ∧ y.inn = 0x100000 ∧ (s.core 1).switched = none) ∧
    (areaOk 0x100000 0x10000 = true ∧ areaOk 0xBFFFFFFF0000 0x20000 = false) ∧
    ((march 49 (·.setP 0x8000 false)).marchOver m = false ∧ (march 50 (·.setP 0x8000 false)).marchOver m = true ∧ ((march 50 (·.setP 0x8000 false)).tag 0x8000).p = false ∧
      (march 0 id).marchOver m = true ∧ ((march 0 id).tag 0x8000).p = true ∧ (march 0 id).eccOf 0x8000 = .ok ∧ (march 0 id).poisoned 0x8000 = false ∧
      (march 0 id).front.marches.find? (fun x => x.core == 3) = some m) ∧
    ((drain 1 []).mayCheckpoint = true ∧ (drain 0 []).mayCheckpoint = false ∧ (drain 1 [curfewOf .armed 0x100000 0]).mayCheckpoint = false) ∧
    ((∀ e ∈ wall.cores, repairsIgnored e.2.repair.toList = 0) ∧ f.spareFor 0 = some 64 ∧ ({ f with retired := sparesOf 0 } : Front).spareFor 0 = none) ∧
    (({ f with flashTable := some [] } : Front).flashTable = some [] ∧ tableBad [] 0 ≠ none ∧ f.masked 5 = true ∧ ({ f with msixTable := [(11, 0)] } : Front).masked 5 = false) ∧
    ((wall.modFront fun x => { x with ingress := [ing] }).front.ingressOf 0 8 8 = some ing ∧ wall.firewalled (spadPa 0 8) 5 = some 0 ∧ s.peerBarred 0x8000 5 = false ∧
      s.outerMayGo 0x8000 true = true) := by decide

end Sys2Proof.Tests
end

section
/-! PROOFS. What a read of each special operand code gives and what a write to each kind of destination does (R15, R25, R26, R176, R194). -/

namespace Sys2Proof.Machine

/-! ### The timestamp -/

/-- A core reads the timestamp at most two cycles ahead (R15). -/
theorem State.time_ahead (s : State) (c : Nat) : ∃ x ≤ 2, s.time c = BitVec.ofNat 64 (s.now + x) :=
  ⟨_, Nat.le_of_lt_succ (Config.timeSkew (dieOf c)).isLt, rfl⟩

/-! ### What the channel, the mailbox and a stream give -/

/-- The word that a read of `lnk` takes stands at the front of the channel, once a channel without words has refilled from its ring. -/
theorem State.popLink_value {s : State} {t : Thread} {c : Channel} (h : s.upChannel? t = some c) :
    (s.popLink t).2 = (if c.words.isEmpty then s.refill t c else (s, c)).2.words.headD 0 := by
  simp only [State.popLink, h, apply_ite Prod.snd, ite_self]

/-- A channel with words gives the oldest. -/
theorem State.popLink_of_cons {s : State} {t : Thread} {c : Channel} {w : Word} {rest : List Word} (h : s.upChannel? t = some c)
    (hw : c.words = w :: rest) : (s.popLink t).2 = w := by
  simp [State.popLink_value h, hw]

/-- A ring whose oldest word may be read and returns data moves that word behind those of the channel. -/
theorem State.refill_words {s : State} {t : Thread} {c : Channel} (hl : c.ringLen ≠ 0) (hr : s.refusesRing t (c.ringWord 0) = false)
    (ht : s.mayTouch [c.ringWord 0] = true)
    (hp : ((s.recallBy t (c.ringWord 0)).checkEcc (c.ringWord 0)).poisoned (c.ringWord 0) = false) :
    (s.refill t c).2.words = c.words ++ [((s.recallBy t (c.ringWord 0)).checkEcc (c.ringWord 0)).word (c.ringWord 0)] := by
  simp [State.refill, hl, hr, ht, hp]

/-- A channel without words gives the oldest word of its ring. -/
theorem State.popLink_of_nil {s : State} {t : Thread} {c : Channel} (h : s.upChannel? t = some c) (hw : c.words = []) (hl : c.ringLen ≠ 0)
    (hr : s.refusesRing t (c.ringWord 0) = false) (ht : s.mayTouch [c.ringWord 0] = true)
    (hp : ((s.recallBy t (c.ringWord 0)).checkEcc (c.ringWord 0)).poisoned (c.ringWord 0) = false) :
    (s.popLink t).2 = ((s.recallBy t (c.ringWord 0)).checkEcc (c.ringWord 0)).word (c.ringWord 0) := by
  simp [State.popLink_value h, hw, State.refill_words hl hr ht hp]

/-- A mailbox gives word 0 of its oldest message, or word 1 when word 0 has been popped (R194). -/
theorem State.popMail_value {s : State} {t : Thread} {m : Msg} {rest : List Msg} (h : s.mailbox t = m :: rest) :
    (s.popMail t).2 = if m.popped then m.w1 else m.w0 := by
  simp only [State.popMail, h, apply_ite Prod.snd]

/-- The elements popped are the first of those at hand. -/
theorem State.popStream_values {s : State} {t : Thread} {x : Stream} {n : Nat} (ht : s.thread? t.uid = some t) (hx : t.stream? n = some x)
    (k : Nat) : (s.popStream t.uid n k).2 = x.ahead.take k := by
  simp [State.popStream, ht, hx]

/-! ### The special codes as sources -/

theorem Opnd.general_of_special {o : Opnd} (h : 48 ≤ o.code) : o.general = false := by
  simp [Opnd.general, Nat.not_lt.mpr h]

section
variable {s : State} {t : Thread} {o : Opnd} (ht : s.thread? t.uid = some t) (hr : o.role.reads = true) (k : Int)
include ht hr

theorem State.readField_z (h : o.code = 56) (vec : Bool) : s.readField t.uid o k vec = (s, 0, 0) := by
  simp [State.readField, ht, hr, Opnd.general_of_special, h]

theorem State.readField_tm (h : o.code = 59) (vec : Bool) : s.readField t.uid o k vec = (s, s.time t.core, 0) := by
  simp [State.readField, ht, hr, Opnd.general_of_special, h]

theorem State.readField_lnk (h : o.code = 57) (vec : Bool) : s.readField t.uid o k vec = ((s.popLink t).1, (s.popLink t).2, 0) := by
  simp [State.readField, ht, hr, Opnd.general_of_special, h]

theorem State.readField_mbx (h : o.code = 58) (vec : Bool) : s.readField t.uid o k vec = ((s.popMail t).1, (s.popMail t).2, 0) := by
  simp [State.readField, ht, hr, Opnd.general_of_special, h]

/-- A scalar instruction pops one element, which the element counter sees. -/
theorem State.readField_stream (h : 48 ≤ o.code) (h' : o.code < 56) :
    s.readField t.uid o k false = ((s.popStream t.uid (o.code - 48) 1).1.count t.core 9 (some t),
      (s.popStream t.uid (o.code - 48) 1).2.headD 0, 0) := by
  simp [State.readField, ht, hr, Opnd.general_of_special h, h']

end

/-! ### The kinds of destination -/

section
variable {c : Ctx} (s : State) (v : Word)

theorem Ctx.put_reg (h : c.dcode < 48) : c.put s v = s.writeReg c.uid c.dcode v := by
  simp [Ctx.put, h]

theorem Ctx.put_stream (h : 48 ≤ c.dcode) (h' : c.dcode < 56) :
    c.put s v = s.pushStream c.uid (c.dcode - 48) (c.width.getD (s.streamWidth c.uid (c.dcode - 48))) [v] c.raw c.shown := by
  simp [Ctx.put, Nat.not_lt.mpr h, h']

theorem Ctx.put_z (h : c.dcode = 56) : c.put s v = s := by
  simp [Ctx.put, h]

theorem Ctx.put_lnk {t : Thread} (ht : s.thread? c.uid = some t) (h : c.dcode = 57) : c.put s v = s.pushLink t v := by
  simp [Ctx.put, h, ht]

end

/-! ### The obligation -/

/-- Settles O12: the skew of a die bounds the timestamp, each source code reads by its own rule, and each destination code writes by its own. -/
theorem operandCodesReadAndWrite : Obligations.OperandCodesReadAndWrite := by
  refine ⟨fun s c d => ?_, fun s t o k ht hsrc => ?_, fun s c t v ht hu => ?_⟩
  · obtain ⟨x, hx, ex⟩ := s.time_ahead c
    obtain ⟨y, hy, ey⟩ := s.time_ahead d
    exact ⟨x, y, hx, hy, ex, ey⟩
  · have hr : o.role.reads = true := by rw [hsrc]; rfl
    refine ⟨fun z => State.readField_z ht hr k z false, fun tm => State.readField_tm ht hr k tm false, fun lnk c hc => ?_,
      fun mbx m rest hm => ?_, fun lo hi x hx => ?_⟩
    · rw [State.readField_lnk ht hr k lnk]
      refine ⟨fun w rest hw => ?_, fun hw hl => ?_⟩
      · rw [State.popLink_of_cons hc hw]
      · intro u hring htouch hpoison
        rw [State.popLink_of_nil hc hw hl hring htouch hpoison]
    · rw [State.readField_mbx ht hr k mbx, State.popMail_value hm]
    · rw [State.readField_stream ht hr k lo hi, State.popStream_values ht hx]
  · exact ⟨fun reg => (c.put_reg s v reg).trans (State.writeReg_off ht hu true), c.put_z s v, c.put_lnk s v ht, c.put_stream s v⟩

end Sys2Proof.Machine
end

section
/-! PROOFS. Messages and links: what MSEND, MWAIT and LCFG do once they issue, when a device message enters, and the link stall (R133-R135,
R192-R195, R404-R406, R416, R418). -/

namespace Sys2Proof.Machine

/-! ### An instruction that issues -/

/-- An instruction that issues has the effect of its meaning on what it knows. -/
theorem exec_of_runs {s s1 u : State} {i : Instr} {form : Thread → Core → Form} {c : Ctx} {k : Ctx → State → State}
    (h : Runs s i form c s1) (he : exec i s = s.issue i form k) (hk : k c s1 = u) : exec i s = .next u := by
  obtain ⟨t, ht, ha⟩ := h
  rw [he, ← hk]
  simp [State.issue, ht, State.issueThread, ha]

/-- The state past an ordering point: the operands are popped, and what streams have read ahead is discarded (R184). -/
abbrev Ctx.past (c : Ctx) : State := c.popped.dropReadAhead c.uid

/-- An ordering point with nothing outstanding goes on at once. -/
theorem Ctx.ordered_of_drained {c : Ctx} {s : State} (h : c.Drained s) (k : State → State) : c.ordered s k = k c.past := by
  obtain ⟨howed, hdrained⟩ := h
  simp [Ctx.ordered, howed, hdrained]

/-! ### MSEND (R192-R195, R416) -/

/-- An MSEND is for the thread of its tenant that holds the ID that it names. -/
theorem State.mailTarget_isSome_iff (s : State) (tid tenant : Nat) :
    (s.mailTarget tid tenant).isSome = true ↔ ∃ o, s.holder? tid = some o ∧ o.tenant = tenant := by
  simp [State.mailTarget, Option.isSome_filter, Option.any_eq_true]

/-- A core has room for an MSEND below 224 sent messages and 256 entries (R192). -/
theorem State.mailRoom_iff (s : State) (k : Nat) :
    s.mailRoom k = true ↔ ((s.core k).mail.filter fun m => !m.device).length < 224 ∧ (s.core k).mail.length < 256 := by
  simp only [State.mailRoom, Bool.and_eq_true, decide_eq_true_eq]
  rfl

/-- The thread ID that the MSEND `c` names. -/
abbrev Ctx.mailTid (c : Ctx) : Nat := fieldOf c.a 0 20

/-- The pair that the MSEND `c` sends, from the state `p`. -/
def Ctx.sentPair (c : Ctx) (p : State) : Msg :=
  { id := p.nextId, slot := tidSlot c.mailTid, bound := none, kind := 1, status := 0, sender := c.t.tid, w0 := c.b, w1 := c.b2,
    popped := false, device := false }

section
variable {d a b : BitVec 6} {e f : BitVec 1} {s s1 : State} {c : Ctx}
  (h : Runs s (.msend d a b e f) (fun _ _ => { Form.plain with a := opA .src a e, b := opB .srcPair b f, rsvd := nz d }) c s1)
include h

/-- An MSEND to a core that its tenant does not have is a protection fault. -/
theorem exec_msend_foreign (hk : (s1.tenant c.t.tenant).hasCore (tidCore c.mailTid) = false) :
    exec (.msend d a b e f) s = .next (c.trap s1 0x09 c.a) :=
  exec_of_runs h rfl (by simp [hk])

variable (hk : (s1.tenant c.t.tenant).hasCore (tidCore c.mailTid) = true) (hd : c.Drained s1)
include hk hd

/-- An MSEND to a thread that is switched out enters its pair into the mailbox image, or waits for room there. -/
theorem exec_msend_image {p : State} {block : Nat} (hp : p = c.past) (ht : (p.mailTarget c.mailTid c.t.tenant).isSome = false)
    (hi : p.imageOfTid (tidCore c.mailTid) c.mailTid c.t.tenant = some block) :
    exec (.msend d a b e f) s = .next
      (if p.imageRoom block then c.done (p.imageEnter block (c.sentPair p)) else c.block s1 (.imageRoom block)) := by
  subst hp
  exact exec_of_runs h rfl (by simp [hk, Ctx.ordered_of_drained hd, ht, hi, Ctx.sentPair])

/-- An MSEND to a resident thread, or to none, waits for room in the core's mailbox queue; then its pair enters, or is discarded and counted. -/
theorem exec_msend_queue {p : State} (hp : p = c.past)
    (hi : (p.mailTarget c.mailTid c.t.tenant).isSome = true ∨ p.imageOfTid (tidCore c.mailTid) c.mailTid c.t.tenant = none) :
    exec (.msend d a b e f) s = .next (if p.mailRoom (tidCore c.mailTid) = false then c.block s1 (.mailRoom (tidCore c.mailTid))
      else c.done (if (p.mailTarget c.mailTid c.t.tenant).isSome then p.enterMessage (tidCore c.mailTid) (c.sentPair p)
        else p.modCore (tidCore c.mailTid) fun x => { x with mailDiscards := x.mailDiscards + 1 })) := by
  subst hp
  have hnone : (if (c.past.mailTarget c.mailTid c.t.tenant).isSome then none
      else c.past.imageOfTid (tidCore c.mailTid) c.mailTid c.t.tenant) = none := by
    rcases hi with hi | hi <;> simp [hi]
  exact exec_of_runs h rfl (by simp [hk, Ctx.ordered_of_drained hd, hnone, Ctx.sentPair, apply_ite c.done])

end

/-! ### Device messages (R192, R193) -/

/-- A message that enters for a thread that is not parked on its mailbox becomes the newest of the queue, bound to that thread. -/
theorem State.enterMessage_of_ready {s : State} {k : Nat} {m : Msg} {t : Thread} (ha : s.addressee k m = some t) (ht : t.status = .ready) :
    s.enterMessage k m = { s with nextId := s.nextId + 1 }.modCore k fun c =>
      { c with mail := c.mail ++ [{ m with bound := some t.uid, slot := t.slot, id := s.nextId }] } := by
  have hstat : t.stat ≠ .parkedMessage := by simp [Thread.stat, ht, Status.suspended]
  simp [State.enterMessage, ha, hstat]

/-- A message whose addressee holds its context enters no mailbox image. -/
theorem State.imageFor_of_addressee {s : State} {k : Nat} {m : Msg} {t : Thread} (ha : s.addressee k m = some t) : s.imageFor k m = none := by
  unfold State.imageFor
  unfold State.addressee at ha
  cases hb : m.bound with
  | none => rfl
  | some uid =>
    simp only [hb, Option.filter_eq_some_iff] at ha
    simp [ha.1]

/-- A message for such a thread has room among the 256 entries and, when it is a sent one, among the 224 (R192). -/
theorem State.deviceRoom_iff {s : State} {k : Nat} {m : Msg} {t : Thread} (ha : s.addressee k m = some t) :
    s.deviceRoom k m = true ↔
      (s.core k).mail.length < 256 ∧ (m.device = true ∨ ((s.core k).mail.filter fun m => !m.device).length < 224) := by
  have hd : s.discards k m = false := by simp [State.discards, ha]
  simp only [State.deviceRoom, hd, State.imageFor_of_addressee ha, Bool.false_or, Bool.and_eq_true, Bool.or_eq_true, decide_eq_true_eq]
  rfl

/-- A waiting device message enters when there is room. -/
theorem exec_deviceMessageEntry {s : State} {id k : Nat} {m : Msg} (hm : s.devMsgs.find? (fun e => e.2.id == id) = some (k, m)) :
    exec (.deviceMessageEntry id) s = .next (if s.deviceRoom k m
      then { s with devMsgs := s.devMsgs.filter fun e => e.2.id != id }.enterMessage k m else s) := by
  show execDeviceMessageEntry id s = _
  simp [execDeviceMessageEntry, hm, bne]

/-! ### Links (R133-R135, R404-R406) -/

/-- The state of `p` in which the thread of `c` has the ends that its word names and the ring `pas` at `base`, and the words of its old
channels are discarded. -/
def Ctx.linked (c : Ctx) (p : State) (ring base : Nat) (pas : List Nat) : State :=
  c.done ({ p with channels := p.channels.filter fun x => !(x.dst == c.uid) && !(x.src == c.uid) }.modThread c.uid fun t =>
    { t with down := (linkEnds c.a).1, up := (linkEnds c.a).2, ring := ring, ringVa := base, ringPa := pas })

/-- The new ends wait for the old downstream channel. -/
theorem Ctx.link_eq (c : Ctx) (s p : State) (ring base : Nat) (pas : List Nat) :
    c.link s p ring base pas = if s.downDrained c.t then c.linked p ring base pas else c.block s .linkDrained := by
  cases hd : s.downDrained c.t <;> simp [Ctx.link, Ctx.linked, hd]

/-- The pages of a range are found, with RD and WR and in tagged memory. -/
def Ctx.ringFound (c : Ctx) (s : State) (va n : Nat) (ps : List (Nat × Nat × Nat)) : Prop :=
  s.threadPages c.t va n .both = .ok ps ∧ ∀ x ∈ ps, tagged x.2.1 = true

theorem Ctx.ringPages_of_found {c : Ctx} {s : State} {va n : Nat} {ps : List (Nat × Nat × Nat)} (h : c.ringFound s va n ps)
    (k : List (Nat × Nat × Nat) → State) : c.ringPages s va n k = k ps := by
  obtain ⟨hps, htag⟩ := h
  have hall : (ps.all fun p => tagged p.2.1) = true := List.all_eq_true.mpr htag
  simp [Ctx.ringPages, Ctx.pages, Ctx.pagesOf, hps, hall]

/-- A descriptor of an aligned ring of 2^4 to 2^20 words that is found sets the ends. -/
theorem Ctx.ring_of_found {c : Ctx} {s p : State} {ws : List Word} {rs : List (Nat × Nat × Nat)} (hlo : 4 ≤ (ws.getD 1 0).toNat)
    (hhi : (ws.getD 1 0).toNat ≤ 20) (hr : c.ringFound s (ws.getD 0 0).toNat (8 * 2 ^ (ws.getD 1 0).toNat) rs)
    (hal : (ws.getD 0 0).toNat % 8 = 0) :
    c.ring s p ws = c.link s p c.b.toNat (ws.getD 0 0).toNat (wordsOf rs (ws.getD 0 0).toNat (2 ^ (ws.getD 1 0).toNat)) := by
  simp only [Ctx.ring, hlo, hhi, decide_true, Bool.and_self, if_true, Ctx.ringPages_of_found hr, hal]
  simp

section
variable {d a b : BitVec 6} {e f : BitVec 1} {s s1 : State} {c : Ctx}
  (h : Runs s (.lcfg d a b e f) (fun _ _ => { Form.plain with a := opA .src a e, b := opB .src b f, rsvd := nz d }) c s1)
include h

/-- LCFG with an end that its thread may not name is a protection fault. -/
theorem exec_lcfg_denied (hl : ¬ (s1.linkAllowed c.t (linkEnds c.a).1 = true ∧ s1.linkAllowed c.t (linkEnds c.a).2 = true)) :
    exec (.lcfg d a b e f) s = .next (c.trap s1 0x09 c.a) :=
  exec_of_runs h rfl (if_pos (by rw [Bool.not_eq_true', Bool.eq_false_iff, ne_eq, Bool.and_eq_true]; exact hl))

variable (hl : s1.linkAllowed c.t (linkEnds c.a).1 = true ∧ s1.linkAllowed c.t (linkEnds c.a).2 = true)
include hl

/-- LCFG without a ring. -/
theorem exec_lcfg_bare (hb : c.b = 0) : exec (.lcfg d a b e f) s = .next (c.link s1 c.popped 0 0 []) :=
  exec_of_runs h rfl (by simp [hl.1, hl.2, hb])

/-- A ring descriptor that is not a multiple of 16 is misaligned. -/
theorem exec_lcfg_misaligned (hb : c.b.toNat % 16 ≠ 0) : exec (.lcfg d a b e f) s = .next (c.trap s1 0x0A c.b) := by
  have h0 : ¬ c.b = 0#64 := by rintro h0; simp [h0] at hb
  exact exec_of_runs h rfl (by simp [hl.1, hl.2, h0, hb])

/-- LCFG reads its descriptor by one ordering access, and goes on with the words that it finds. -/
theorem exec_lcfg_ring {ps : List (Nat × Nat × Nat)} {pa : Nat} {ws : List Word} {q p : State} (h0 : ¬ c.b = 0#64) (hal : c.b.toNat % 16 = 0)
    (hps : c.ringFound s1 c.b.toNat 16 ps) (hpa : pageOf ps c.b.toNat = some pa) (hd : c.Drained s1) (hf : c.Finds s1 c.b pa 2 ws q p) :
    exec (.lcfg d a b e f) s = .next (c.ring q p ws) :=
  exec_of_runs h rfl (by simp [hl.1, hl.2, h0, hal, Ctx.ringPages_of_found hps, Ctx.ordered_of_drained hd, hpa, hf _])

end

/-- A thread blocked on `lnk` for the limit takes link stall with the thread ID of the other end (R134). -/
theorem exec_linkStall {s : State} {uid : Nat} {t : Thread} {o n : Nat} (ht : s.thread? uid = some t) (hst : t.status = .blockedRegister)
    (hfr : s.frozen t = false) (hat : t.blockedAt = some n) (hlim : n + (s.tenant t.tenant).linkLimit ≤ s.now)
    (hend : t.await = .upstream ∧ t.up = some o ∨ t.await = .downstream ∧ t.down = some o) :
    exec (.linkStall uid) s = .next ((s.setThread t.wake).trapAt t.wake 0x12 (w64 o) t.parked t.parkedShown) := by
  show execLinkStall uid s = _
  rcases hend with ⟨ha, hu⟩ | ⟨ha, hu⟩ <;> simp [execLinkStall, ht, ha, hu, hst, hfr, hat, hlim]

/-! ### The obligation -/

/-- Settles O44, by the cases of MSEND's target, of MWAIT's mailbox, of a device message's room and of LCFG's checks. -/
theorem messagesAndLinks : Obligations.MessagesAndLinks := by
  refine ⟨fun d a b e f s c s1 h => ⟨exec_msend_foreign h, fun hk hd => ⟨fun block hres himg => ?_, fun hor => ?_⟩⟩,
    fun s k => s.mailRoom_iff k, fun d a b e f => ⟨fun m rest s c s1 h hm => ?_, fun s c s1 h hm => ?_⟩,
    fun s k m t => State.enterMessage_of_ready, fun s id k m hm => ⟨fun hr => ?_, fun hr => ?_⟩, fun s k m t => State.deviceRoom_iff,
    fun d a b e f s c s1 h => ⟨exec_lcfg_denied h, fun hl hb hd => ?_, fun hl hb hd => ?_, exec_lcfg_misaligned h,
      fun ps pa rs ws q p hl h0 hal hps hpa hd hf hlo hhi hr hr8 => ⟨fun hq => ?_, fun hq => ?_⟩⟩,
    fun s uid t o n => exec_linkStall⟩
  · rw [← State.mailTarget_isSome_iff, Bool.not_eq_true] at hres
    have he := exec_msend_image h hk hd rfl hres himg
    exact ⟨fun hroom => he.trans (by rw [if_pos hroom]; rfl), fun hroom => he.trans (by simp [hroom])⟩
  · rw [← State.mailTarget_isSome_iff] at hor ⊢
    have he := exec_msend_queue h hk hd rfl hor
    refine ⟨fun hroom => he.trans (by rw [if_pos hroom]), fun hroom hres => he.trans ?_, fun hroom hres => he.trans ?_⟩
    · simp [hroom, hres, Ctx.sentPair]
    · simp [hroom, hres]
  · exact exec_of_runs h rfl (by simp [hm, Msg.header])
  · exact exec_of_runs h rfl (by simp [hm])
  · rw [exec_deviceMessageEntry hm, if_pos hr]
  · simp [exec_deviceMessageEntry hm, hr]
  · rw [exec_lcfg_bare h hl hb, Ctx.link_eq, if_pos hd]; rfl
  · simp [exec_lcfg_bare h hl hb, Ctx.link_eq, hd]
  · rw [exec_lcfg_ring h hl h0 hal hps hpa hd hf, Ctx.ring_of_found hlo hhi hr hr8, Ctx.link_eq, if_pos hq]; rfl
  · simp [exec_lcfg_ring h hl h0 hal hps hpa hd hf, Ctx.ring_of_found hlo hhi hr hr8, Ctx.link_eq, hq]

end Sys2Proof.Machine
end

section
/-! PROOFS. Why the statement about SPAWN, DQPUSH, DQPOP and QUIT fails: a state in which the reads of a DQPUSH's operand change g0 of its
thread (R55, R178, R312, R360). -/

namespace Sys2Proof.Machine

/-! ### The state

Two threads have the serial number 1. The first issues `DQPUSH s0`, and its registers are without an error. Its stream leads to a word of
the context record of the second, which is stopped and has a single error in g0. The step of the stream's read at that word is a write of
the record, by the serial number of the record's thread, so that the registers of the second become those of the first. Then DQPUSH, which
reads g0-g3 after its field, corrects and counts the error of g0. The statement names the state without that correction. -/

/-- A stream with a stride of 16 MiB, at position 0xF001: its element is the word of g10 in the context record of thread ID 9. -/
def strayStream : Stream :=
  { entry := { w0 := 0x4870, w1 := 1, w2 := 0x100000000010000, w3 := 1 }, pos := 0xF001, record := [], ahead := [], aheadW := 64 }

/-- The thread that issues. -/
def strayReader : Thread :=
  { Thread.fresh 1 8 5 .user .day 0x1000 [] with streams := (Vector.replicate 8 none).set 0 (some strayStream) }

/-- The stopped thread with the serial number of the first. -/
def stoppedTwin : Thread :=
  { strayReader with tid := 9, status := .trappedStopped, regs := strayReader.regs.set 0 { Reg.zero with full := true, ecc := .single } }

def twins : State := { State.reset with threads := [strayReader, stoppedTwin], cur := 1, nextUid := 2 }

/-- The instruction `DQPUSH s0` and its fields. -/
def pushStray : Instr := .dqpush 0 48 0 0 0
def pushStrayForm : Form := { Form.plain with a := opA .src 48 0, rsvd := nz (0 : BitVec 6) || nz (0 : BitVec 6) || nz (0 : BitVec 1) }

/-! ### What the model does there -/

/-- What the check of g0 finds in the thread with serial number 1. -/
def State.g0Ecc (s : State) : Option Ecc := (s.thread? 1).map fun t => (t.reg 0).ecc

/-- The same of the state that an outcome gives. -/
def outcomeG0Ecc : Host.Outcome State Fault Refusal → Option Ecc
  | .next s => s.g0Ecc
  | _ => none

/-- The state that the statement names for the DQPUSH `c`: `p` is the state past its ordering point, `q` that with the record pushed. -/
def Ctx.pushedState (c : Ctx) (p q : State) : State :=
  c.done ((q.countSpawn c.uid).pushed c.t.core (p.makeRecord c.t c.a false) c.uid (q.slotsFor c.t.core c.t.tenant (p.classOf c.t)))

/-- The hypotheses of the clause about DQPUSH hold of `c`, and the state that it names has the error of g0. -/
def Ctx.pushesUncorrected (c : Ctx) (s1 : State) : Bool :=
  let p := c.popped.dropReadAhead c.uid
  decide (c.t.owed = [] ∧ s1.drained c.uid = true) &&
    ((List.range 4).all fun n => decide ((c.t.reg n).full = true ∧ (c.t.reg n).ecc = .ok)) &&
    match p.pushRecord c.t.core (p.makeRecord c.t c.a false) with
    | some q => decide ((c.pushedState p q).g0Ecc = some .single)
    | none => false

/-- The instruction issues, and `ok` holds of what it knows. -/
def Attempt.runsWith (ok : Ctx → State → Bool) : Attempt → Bool
  | .runs c s1 => ok c s1
  | .stops _ => false

theorem Attempt.exists_of_runsWith {ok : Ctx → State → Bool} {x : Attempt} (h : x.runsWith ok = true) :
    ∃ c s1, x = .runs c s1 ∧ ok c s1 = true := by
  cases x with
  | runs c s1 => exact ⟨c, s1, rfl, h⟩
  | stops s1 => cases h

set_option maxRecDepth 100000 in
theorem twins_attempt : (twins.attempt strayReader (encodeWord pushStray) pushStrayForm).runsWith Ctx.pushesUncorrected = true := by decide

set_option maxRecDepth 100000 in
/-- The instruction corrects the error. -/
theorem exec_pushStray_g0Ecc : outcomeG0Ecc (exec pushStray twins) = some .ok := by decide

theorem runs_pushStray : ∃ c s1, Runs twins pushStray (fun _ _ => pushStrayForm) c s1 ∧ c.pushesUncorrected s1 = true := by
  obtain ⟨c, s1, hruns, hc⟩ := Attempt.exists_of_runsWith twins_attempt
  exact ⟨c, s1, ⟨strayReader, rfl, hruns⟩, hc⟩

theorem Ctx.of_pushesUncorrected {c : Ctx} {s1 : State} (h : c.pushesUncorrected s1 = true) :
    c.Drained s1 ∧ (∀ n < 4, (c.t.reg n).full = true ∧ (c.t.reg n).ecc = .ok) ∧
      ∃ q, (c.popped.dropReadAhead c.uid).pushRecord c.t.core ((c.popped.dropReadAhead c.uid).makeRecord c.t c.a false) = some q ∧
        (c.pushedState (c.popped.dropReadAhead c.uid) q).g0Ecc = some .single := by
  simp only [Ctx.pushesUncorrected, Bool.and_eq_true, decide_eq_true_eq, List.all_eq_true, List.mem_range] at h
  obtain ⟨⟨hdrained, hargs⟩, hpush⟩ := h
  refine ⟨hdrained, hargs, ?_⟩
  split at hpush
  next q hq => exact ⟨q, hq, of_decide_eq_true hpush⟩
  next => cases hpush

/-! ### The obligation -/

/-- Refutes O41, by the clause about DQPUSH: in `twins` the instruction leaves g0 without an error, and the state that the clause names has it.
The state is not one that a run is meant to reach: serial numbers are given once, and a stream is bound inside its memory (R179). The clause
asks g0-g3 of the thread as it issues to be without an error, and not of the thread after the reads of the fields. -/
theorem not_spawnQuitAndDeques : ¬ Obligations.SpawnQuitAndDeques := by
  unfold Obligations.SpawnQuitAndDeques
  rintro ⟨hissues, -⟩
  obtain ⟨c, s1, hruns, hc⟩ := runs_pushStray
  obtain ⟨hdrained, hargs, q, hq, hsingle⟩ := Ctx.of_pushesUncorrected hc
  obtain ⟨-, -, hpush, -⟩ := hissues 0 48 0 0 0 twins c s1 hdrained
  have hexec : exec pushStray twins = .next (c.pushedState (c.popped.dropReadAhead c.uid) q) := hpush hruns hargs q hq
  have hok := exec_pushStray_g0Ecc
  rw [hexec] at hok
  simp [outcomeG0Ecc, hsingle] at hok

end Sys2Proof.Machine
end
